-- ==== Sys2Proof/Word.lean ====
section
/-! DEFINITION. The word types of Stefel-2: bytes, halfwords, 32-bit words and the 64-bit register word (00 R5, 03 R62). -/

namespace Sys2Proof

/-- One byte. -/
abbrev Byte := BitVec 8

/-- A 32-bit word. -/
abbrev U32 := BitVec 32

/-- The 64 data bits of a register. -/
abbrev Word := BitVec 64

end Sys2Proof
end

