-- ==== Sys2Proof/Syntax.lean ====
section
/-! DEFINITION. The instructions and the steps of the VZ-C160 as a type: one constructor of `Instr` per row of
spec/opcode_table.json. A row with an encoding carries its operand fields (03 R53 to R68). A row without one is a step
of another unit or an input from outside the chip; it carries the number of the object it acts on, or the data that
arrives with it. Operand order is that of stas: destination first (03 R70). -/

namespace Sys2Proof

/-- g0 to g63 (03 R62). -/
abbrev Reg := Fin 64
/-- The second source of a 16-bit form, g0 to g31 (03 R60). -/
abbrev Reg5 := Fin 32
/-- k0 to k31. -/
abbrev KReg := Fin 32
/-- k0 to k15, as an MX selector names them (03 R59). -/
abbrev KReg16 := Fin 16
/-- p0 to p7. -/
abbrev PReg := Fin 8
/-- m0 to m15. -/
abbrev MReg := Fin 16
/-- q0 to q7. -/
abbrev QReg := Fin 8
/-- b0 to b15. -/
abbrev BReg := Fin 16
/-- A system register number (17 R371). -/
abbrev SysReg := Fin 64
/-- The n8 field of call and callk: the window moves by 8 times it (03 R65). -/
abbrev N8 := Fin 8
abbrev Fin3 := Fin 3
abbrev Fin4 := Fin 4
abbrev Imm9 := BitVec 9
abbrev Imm16 := BitVec 16
abbrev Off19 := BitVec 19
/-- The count of an immediate shift. -/
abbrev Cnt6 := Fin 64
/-- The epoch field of mma (12 R283). -/
abbrev Epoch := Fin 2048
/-- The PLANES field of mcvt (12 R289). -/
abbrev Planes := Fin 32
/-- The class mask of wait: loads, stores, atomics, copies from bit 0 (08 R200). -/
abbrev Mask4 := BitVec 4
/-- Half of a 512-bit key slot, or a nonce (19 R407). -/
abbrev KeyHalf := BitVec 256

/-- Operation width (03 R54, legend W). -/
inductive Width where | w32 | w64
  deriving DecidableEq, Repr
/-- Signedness (03 R54, legend S). -/
inductive Sgn where | n | s
  deriving DecidableEq, Repr
/-- Float width (03 R54, legend F). -/
inductive FW where | f32 | f64
  deriving DecidableEq, Repr
/-- Packed type (03 R54, legend P). -/
inductive PW where | bf16x2 | f16x2
  deriving DecidableEq, Repr

/-- A special source of level 0b11 (03 R55). -/
inductive Special where
  | k (n : KReg) | l0 | l1 | zero | lane | ones | pop (q : QReg)
  deriving DecidableEq, Repr

/-- A source operand: its level and what it names (03 R55). -/
inductive Src where
  | oc (r : Reg)       -- level 0b00
  | last (r : Reg)     -- level 0b01
  | direct (r : Reg)   -- level 0b10
  | special (p : Special)
  deriving DecidableEq, Repr

/-- A g destination and its K bit (03 R57). -/
structure Dst where
  reg : Reg
  k : Bool
  deriving DecidableEq, Repr

/-- A predicate value (02 R24). -/
inductive Pred where | f | t | u
  deriving DecidableEq, Repr
/-- The sense a predicate is tested against (03 R59). -/
inductive Sense where | t | f | u | nt
  deriving DecidableEq, Repr
/-- The relation of a compare (03 R59). -/
inductive Rel where | eq | ne | lt | le | gt | ge | un
  deriving DecidableEq, Repr
inductive VoteMode where | ballot | all | any
  deriving DecidableEq, Repr
inductive ShflMode where | idx | xor
  deriving DecidableEq, Repr
inductive LshDir where | up | dn
  deriving DecidableEq, Repr
/-- The operations of atom (03 R65, 08 R194). -/
inductive AtomOp where
  | add | minS | minN | maxS | maxN | and | or | xor | xchg | cas | incw | fadd
  deriving DecidableEq, Repr
/-- The scope of an atomic (05 R117). -/
inductive Scope where | gang | span | dev | sys
  deriving DecidableEq, Repr
/-- The extensions ext.n8 to ext.s32 (10 R232). -/
inductive ExtKind where | n8 | s8 | n16 | s16 | n32 | s32
  deriving DecidableEq, Repr
/-- The rounding direction named by a conversion; `mode` takes it from fpmode (11 R259). -/
inductive RDir where | mode | rz | rd | ru
  deriving DecidableEq, Repr
/-- The element formats of tiles (02 R31). -/
inductive EFmt where
  | f32 | f16 | bf16 | e4m3 | e5m2 | e3m2 | e2m3 | e2m1
  | s32 | s16 | s8 | n8 | s4 | n4 | s2 | b1
  deriving DecidableEq, Repr
/-- What the check code of a line, or a patrol read, finds (04 R81). -/
inductive PhysErr where | none | corrected | uncorrectable | miscorrected
  deriving DecidableEq, Repr
/-- A unit that keeps scruples (17 R390). -/
inductive HwUnit where | core (n : Nat) | slice (n : Nat) | stack (n : Nat)
  deriving DecidableEq, Repr

/-- A write that arrives over UALink (19 R405): the line, the enabled bytes, whether a Vilza part sent it, and for such a
part the grains and poison marks of the granules it enables whole. -/
structure IngressWrite where
  line : Nat
  bytes : List (Nat × Byte)
  vilza : Bool
  grains : List (Nat × Byte)
  poison : List Nat
  deriving DecidableEq, Repr

/-- A reduce-on-arrival write (19 R405): the address of its first element, AMODE, whether the elements are f32 (else
s32), the elements, and whether every payload granule passes its check. -/
structure IngressReduce where
  pa : Nat
  amode : Nat
  isF32 : Bool
  elems : List U32
  payloadOk : Bool
  deriving DecidableEq, Repr

/-- A peer's answer to a request of this device (19 R404, R405): refused, or performed with the data of the line. -/
inductive UalReply where
  | error
  | done (data : List Byte) (grains : List Byte) (poison : List Nat)
  deriving DecidableEq, Repr

/-- A piece of a firmware image for FW_STAGE (19 R409). -/
structure FwPiece where
  unit : Nat
  version : Nat
  index : Nat
  last : Bool
  bytes : List Byte
  sig : List Byte
  deriving DecidableEq, Repr

/-- An ENROLL request (19 R409): add or remove an owner key, with its signature. -/
structure EnrollReq where
  add : Bool
  key : KeyHalf
  sig : List Byte
  deriving DecidableEq, Repr

/-- An access of the host to BAR0 (19 R402): its offset and its size in bytes. -/
structure BarAccess where
  off : Nat
  size : Nat
  deriving DecidableEq, Repr

/-- The instructions and steps, one constructor per row of the table of operations. -/
inductive Instr where
  /-- ADD (R228). -/
  | add (w : Width) (d : Dst) (a : Src) (b : Src)
  /-- SUB (R228). -/
  | sub (w : Width) (d : Dst) (a : Src) (b : Src)
  /-- ADDC (R228). -/
  | addc (w : Width) (d : Dst) (a : Src) (b : Src)
  /-- SUBB (R228). -/
  | subb (w : Width) (d : Dst) (a : Src) (b : Src)
  /-- MUL24 (R228). -/
  | mul24 (g : Sgn) (d : Dst) (a : Src) (b : Src)
  /-- MAD24 (R228). -/
  | mad24 (g : Sgn) (d : Dst) (a : Src) (b : Src)
  /-- MUL (R228). -/
  | mul (w : Width) (d : Dst) (a : Src) (b : Src)
  /-- MULH (R228). -/
  | mulh (g : Sgn) (d : Dst) (a : Src) (b : Src)
  /-- DIV (R228). -/
  | div (g : Sgn) (d : Dst) (a : Src) (b : Src)
  /-- REM (R228). -/
  | rem (g : Sgn) (d : Dst) (a : Src) (b : Src)
  /-- MIN (R228). -/
  | min (g : Sgn) (d : Dst) (a : Src) (b : Src)
  /-- MAX (R228). -/
  | max (g : Sgn) (d : Dst) (a : Src) (b : Src)
  /-- ADDMIN (R228). -/
  | addmin (g : Sgn) (d : Dst) (a : Src) (b : Src)
  /-- AND (R229). -/
  | and (w : Width) (d : Dst) (a : Src) (b : Src)
  /-- OR (R229). -/
  | or (w : Width) (d : Dst) (a : Src) (b : Src)
  /-- XOR (R229). -/
  | xor (w : Width) (d : Dst) (a : Src) (b : Src)
  /-- ANDN (R229). -/
  | andn (w : Width) (d : Dst) (a : Src) (b : Src)
  /-- SHL (R229). -/
  | shl (w : Width) (d : Dst) (a : Src) (b : Src)
  /-- SHR (R229). -/
  | shr (w : Width) (d : Dst) (a : Src) (b : Src)
  /-- SAR (R229). -/
  | sar (w : Width) (d : Dst) (a : Src) (b : Src)
  /-- ROT (R229). -/
  | rot (w : Width) (d : Dst) (a : Src) (b : Src)
  /-- BFE (R230). -/
  | bfe (g : Sgn) (d : Dst) (a : Src) (b : Src)
  /-- BFI (R230). -/
  | bfi (d : Dst) (a : Src) (b : Src)
  /-- PERM (R230). -/
  | perm (d : Dst) (a : Src) (b : Src)
  /-- LEA (R229). -/
  | lea (w : Width) (d : Dst) (a : Src) (b : Src)
  /-- ADD_IMM (R231). -/
  | addImm (d : Dst) (a : Src) (i : Imm9)
  /-- AND_IMM (R231). -/
  | andImm (d : Dst) (a : Src) (i : Imm9)
  /-- OR_IMM (R231). -/
  | orImm (d : Dst) (a : Src) (i : Imm9)
  /-- SHL_IMM (R231). -/
  | shlImm (w : Width) (d : Dst) (a : Src) (c : Cnt6)
  /-- SHR_IMM (R231). -/
  | shrImm (w : Width) (d : Dst) (a : Src) (c : Cnt6)
  /-- SAR_IMM (R231). -/
  | sarImm (w : Width) (d : Dst) (a : Src) (c : Cnt6)
  /-- ROT_IMM (R231). -/
  | rotImm (w : Width) (d : Dst) (a : Src) (c : Cnt6)
  /-- MOVI (R231). -/
  | movi (g : Sgn) (d : Dst) (i : Imm16)
  /-- MOVW (R231). -/
  | movw (r : Reg) (i : Imm16) (n : Fin4)
  /-- FADD (R251). -/
  | fadd (f : FW) (d : Dst) (a : Src) (b : Src)
  /-- FSUB (R251). -/
  | fsub (f : FW) (d : Dst) (a : Src) (b : Src)
  /-- FMUL (R251). -/
  | fmul (f : FW) (d : Dst) (a : Src) (b : Src)
  /-- FFMA (R251). -/
  | ffma (f : FW) (d : Dst) (a : Src) (b : Src)
  /-- FMIN (R252). -/
  | fmin (f : FW) (d : Dst) (a : Src) (b : Src)
  /-- FMAX (R252). -/
  | fmax (f : FW) (d : Dst) (a : Src) (b : Src)
  /-- FDIV (R251). -/
  | fdiv (f : FW) (d : Dst) (a : Src) (b : Src)
  /-- FADD_PACKED (R253). -/
  | faddPacked (p : PW) (d : Dst) (a : Src) (b : Src)
  /-- FMUL_PACKED (R253). -/
  | fmulPacked (p : PW) (d : Dst) (a : Src) (b : Src)
  /-- FFMA_PACKED (R253). -/
  | ffmaPacked (p : PW) (d : Dst) (a : Src) (b : Src)
  /-- IVMK (R263). -/
  | ivmk (f : FW) (d : Dst) (a : Src) (b : Src)
  /-- IVMK_E (R263). -/
  | ivmkE (f : FW) (d : Dst) (a : Src) (b : Src)
  /-- IVHULL (R264). -/
  | ivhull (f : FW) (d : Dst) (a : Src) (b : Src)
  /-- IVHULL_E (R264). -/
  | ivhullE (f : FW) (d : Dst) (a : Src) (b : Src)
  /-- IVISECT (R264). -/
  | ivisect (f : FW) (d : Dst) (a : Src) (b : Src)
  /-- IVISECT_E (R264). -/
  | ivisectE (f : FW) (d : Dst) (a : Src) (b : Src)
  /-- IBSP (R266). -/
  | ibsp (f : FW) (d : Dst) (a : Src) (b : Src)
  /-- CMP_SIGNED (R236). -/
  | cmpSigned (w : Width) (l : Rel) (p : PReg) (a : Src) (b : Src)
  /-- CMP_UNSIGNED (R236). -/
  | cmpUnsigned (w : Width) (l : Rel) (p : PReg) (a : Src) (b : Src)
  /-- FCMP (R267). -/
  | fcmp (f : FW) (l : Rel) (p : PReg) (a : Src) (b : Src)
  /-- IVIN (R268). -/
  | ivin (f : FW) (p : PReg) (a : Src) (b : Src)
  /-- CMOV (R235). -/
  | cmov (d : Dst) (a : Src) (p : PReg) (se : Sense)
  /-- PAND (R269). -/
  | pand (d : PReg) (a : PReg) (b : PReg)
  /-- POR (R269). -/
  | por (d : PReg) (a : PReg) (b : PReg)
  /-- PXOR (R269). -/
  | pxor (d : PReg) (a : PReg) (b : PReg)
  /-- PNOT (R269). -/
  | pnot (d : PReg) (a : PReg)
  /-- PDEC (R269). -/
  | pdec (pv : Pred) (d : PReg) (a : PReg)
  /-- PSET (R269). -/
  | pset (pv : Pred) (d : PReg)
  /-- PGET (R270). -/
  | pget (d : Dst)
  /-- PPUT (R270). -/
  | pput (a : Src)
  /-- VOTE (R242). -/
  | vote (m : VoteMode) (d : Dst) (p : PReg) (se : Sense) (b : Src)
  /-- SHFL (R242). -/
  | shfl (m : ShflMode) (d : Dst) (a : Src) (b : Src)
  /-- LSH (R242). -/
  | lsh (m : LshDir) (d : Dst) (a : Src) (b : Src)
  /-- BCAST_FIRST (R242). -/
  | bcastFirst (k : KReg) (a : Src) (b : Src)
  /-- MATCH (R242). -/
  | matchLane (d : Dst) (a : Src) (b : Src)
  /-- REDUX_ADD (R243). -/
  | reduxAdd (w : Width) (d : Dst) (a : Src) (b : Src)
  /-- REDUX_MIN (R243). -/
  | reduxMin (g : Sgn) (d : Dst) (a : Src) (b : Src)
  /-- REDUX_MAX (R243). -/
  | reduxMax (g : Sgn) (d : Dst) (a : Src) (b : Src)
  /-- REDUX_AND (R243). -/
  | reduxAnd (w : Width) (d : Dst) (a : Src) (b : Src)
  /-- REDUX_OR (R243). -/
  | reduxOr (w : Width) (d : Dst) (a : Src) (b : Src)
  /-- REDUX_XOR (R243). -/
  | reduxXor (w : Width) (d : Dst) (a : Src) (b : Src)
  /-- FREDUX_ADD (R244). -/
  | freduxAdd (f : FW) (d : Dst) (a : Src) (b : Src)
  /-- FREDUX_MIN (R244). -/
  | freduxMin (f : FW) (d : Dst) (a : Src) (b : Src)
  /-- FREDUX_MAX (R244). -/
  | freduxMax (f : FW) (d : Dst) (a : Src) (b : Src)
  /-- SCAN_ADD (R243). -/
  | scanAdd (w : Width) (d : Dst) (a : Src) (b : Src)
  /-- SCAN_MAX (R243). -/
  | scanMax (g : Sgn) (d : Dst) (a : Src) (b : Src)
  /-- LD_N8 (R185). -/
  | ldN8 (d : Dst) (a : Src) (i : Imm9)
  /-- LD_S8 (R185). -/
  | ldS8 (d : Dst) (a : Src) (i : Imm9)
  /-- LD_N16 (R185). -/
  | ldN16 (d : Dst) (a : Src) (i : Imm9)
  /-- LD_S16 (R185). -/
  | ldS16 (d : Dst) (a : Src) (i : Imm9)
  /-- LD_N32 (R185). -/
  | ldN32 (d : Dst) (a : Src) (i : Imm9)
  /-- LD_S32 (R185). -/
  | ldS32 (d : Dst) (a : Src) (i : Imm9)
  /-- LD_B64 (R185). -/
  | ldB64 (d : Dst) (a : Src) (i : Imm9)
  /-- LD_B64X2 (R185). -/
  | ldB64x2 (d : Dst) (a : Src) (i : Imm9)
  /-- LD_B64X4 (R185). -/
  | ldB64x4 (d : Dst) (a : Src) (i : Imm9)
  /-- ST_B8 (R189). -/
  | stB8 (d : Reg) (a : Src) (i : Imm9)
  /-- ST_B16 (R189). -/
  | stB16 (d : Reg) (a : Src) (i : Imm9)
  /-- ST_B32 (R189). -/
  | stB32 (d : Reg) (a : Src) (i : Imm9)
  /-- ST_B64 (R189). -/
  | stB64 (d : Reg) (a : Src) (i : Imm9)
  /-- ST_B64X2 (R189). -/
  | stB64x2 (d : Reg) (a : Src) (i : Imm9)
  /-- ST_B64X4 (R189). -/
  | stB64x4 (d : Reg) (a : Src) (i : Imm9)
  /-- ATOM (R194). -/
  | atom (w : Width) (o : AtomOp) (sc : Scope) (d : Dst) (a : Src)
  /-- CP_IN (R171). -/
  | cpIn (t : KReg) (n : MReg) (r : KReg16) (o : KReg16)
  /-- CP_OUT (R173). -/
  | cpOut (t : KReg) (n : MReg) (r : KReg16) (o : KReg16)
  /-- CP_OUT_ADD (R173). -/
  | cpOutAdd (t : KReg) (n : MReg) (r : KReg16) (o : KReg16)
  /-- CP_MC (R172). -/
  | cpMc (t : KReg) (n : MReg) (r : KReg16) (o : KReg16) (m : KReg16)
  /-- CP_PAD (R174). -/
  | cpPad (t : KReg) (p : KReg16) (r : KReg16) (o : KReg16)
  /-- CP_PAD_OUT (R174). -/
  | cpPadOut (t : KReg) (p : KReg16) (r : KReg16) (o : KReg16)
  /-- CP_FILL (R175). -/
  | cpFill (t : KReg) (n : MReg) (v : KReg16)
  /-- REC_FENCE (R176). -/
  | recFence
  /-- REC_PF (R176). -/
  | recPf (r : KReg16)
  /-- OWN (R177). -/
  | own (n : MReg)
  /-- MMA (R285). -/
  | mma (e : Epoch) (d : MReg) (a : MReg) (b : MReg)
  /-- MMA_SAT (R285). -/
  | mmaSat (e : Epoch) (d : MReg) (a : MReg) (b : MReg)
  /-- MCVT (R289). -/
  | mcvt (f : EFmt) (p : Planes) (d : MReg) (a : MReg)
  /-- MRMAX (R288). -/
  | mrmax (d : MReg) (a : MReg)
  /-- MRSUM (R288). -/
  | mrsum (d : MReg) (a : MReg)
  /-- MEXP2 (R288). -/
  | mexp2 (d : MReg) (a : MReg)
  /-- MRSCALE (R288). -/
  | mrscale (d : MReg) (a : MReg) (b : MReg)
  /-- MMASK (R288). -/
  | mmask (d : MReg) (k : KReg16)
  /-- MHDR_GET (R290). -/
  | mhdrGet (d : Dst) (m : MReg)
  /-- MHDR_SET (R290). -/
  | mhdrSet (d : Reg) (m : MReg)
  /-- MGET (R291). -/
  | mget (d : Dst) (m : MReg) (b : Src)
  /-- MPUT (R291). -/
  | mput (d : Reg) (m : MReg) (b : Src)
  /-- MDRAIN (R293). -/
  | mdrain (t : KReg) (n : MReg) (r : KReg16) (o : KReg16)
  /-- MDRAIN_ADD (R293). -/
  | mdrainAdd (t : KReg) (n : MReg) (r : KReg16) (o : KReg16)
  /-- MZERO (R292). -/
  | mzero (d : MReg)
  /-- TSHAPE (R276). -/
  | tshape (r : KReg16)
  /-- MPLAN (R279). -/
  | mplan (t : KReg16)
  /-- BRA (R315). -/
  | bra (o : Off19) (se : Sense) (p : PReg)
  /-- JMP (R315). -/
  | jmp (o : Off19)
  /-- JMPK (R315). -/
  | jmpk (p : PReg) (se : Sense) (t : KReg)
  /-- MEET (R316). -/
  | meet (i : Imm16) (g : Reg)
  /-- MEET_R (R316). -/
  | meetR (a : Src)
  /-- EXIT (R317). -/
  | exit
  /-- LOOP (R318). -/
  | loop (n : Fin3) (a : Src) (i : Imm9)
  /-- CALL (R219). -/
  | call (o : Off19) (n : N8)
  /-- BAR_ARR (R352). -/
  | barArr (n : BReg)
  /-- BAR_WAIT (R352). -/
  | barWait (n : BReg)
  /-- BAR_SYNC (R352). -/
  | barSync (n : BReg)
  /-- BAR_EXP (R352). -/
  | barExp (n : BReg) (c : KReg16)
  /-- SBAR (R354). -/
  | sbar (n : Fin4)
  /-- QPUT (R357). -/
  | qput (q : QReg) (a : Src)
  /-- QGET (R357). -/
  | qget (d : Dst) (q : QReg)
  /-- QLEN (R357). -/
  | qlen (d : Dst) (q : QReg)
  /-- NPUT (R359). -/
  | nput (a : Src) (b : Src)
  /-- SLEEP (R360). -/
  | sleep (a : Src) (i : Imm9)
  /-- GROW (R149). -/
  | grow (a : Src)
  /-- SHRINK (R149). -/
  | shrink (a : Src)
  /-- CLAIM (R150). -/
  | claim (a : Src)
  /-- RELEASE (R150). -/
  | release (a : Src)
  /-- PINFO (R151). -/
  | pinfo (d : Dst)
  /-- TALLOC (R152). -/
  | talloc (m : MReg) (a : Src)
  /-- TFREE (R152). -/
  | tfree (m : MReg)
  /-- CALLK (R219). -/
  | callk (t : KReg) (n : N8)
  /-- RET (R220). -/
  | ret
  /-- OCFLUSH (R221). -/
  | ocflush
  /-- OCKEEP (R222). -/
  | ockeep (r : Reg) (pin : Bool)
  /-- XBREV8 (R68). -/
  | xbrev8 (d : Dst) (a : Src)
  /-- XPOPC8 (R68). -/
  | xpopc8 (d : Dst) (a : Src)
  /-- NOP (R321). -/
  | nop
  /-- BRK (R321). -/
  | brk
  /-- TRAP (R374). -/
  | trap (a : Src)
  /-- TRET (R374). -/
  | tret
  /-- SGET (R374). -/
  | sget (d : Dst) (r : SysReg)
  /-- SPUT (R374). -/
  | sput (r : SysReg) (a : Src)
  /-- ABS (R232). -/
  | abs (w : Width) (d : Dst) (a : Src)
  /-- NEG (R232). -/
  | neg (w : Width) (d : Dst) (a : Src)
  /-- NOT (R232). -/
  | not (w : Width) (d : Dst) (a : Src)
  /-- POPC (R232). -/
  | popc (w : Width) (d : Dst) (a : Src)
  /-- CLZ (R232). -/
  | clz (w : Width) (d : Dst) (a : Src)
  /-- CTZ (R232). -/
  | ctz (w : Width) (d : Dst) (a : Src)
  /-- BREV (R232). -/
  | brev (w : Width) (d : Dst) (a : Src)
  /-- MOV (R232). -/
  | mov (d : Dst) (a : Src)
  /-- EXT (R232). -/
  | ext (e : ExtKind) (d : Dst) (a : Src)
  /-- MOVK (R233). -/
  | movk (k : KReg) (a : Src)
  /-- KMOV (R233). -/
  | kmov (k : KReg) (t : KReg)
  /-- FABS (R252). -/
  | fabs (f : FW) (d : Dst) (a : Src)
  /-- FNEG (R252). -/
  | fneg (f : FW) (d : Dst) (a : Src)
  /-- FSQRT (R251). -/
  | fsqrt (f : FW) (d : Dst) (a : Src)
  /-- FRCP (R254). -/
  | frcp (f : FW) (d : Dst) (a : Src)
  /-- FRSQ (R254). -/
  | frsq (f : FW) (d : Dst) (a : Src)
  /-- FEXP2 (R254). -/
  | fexp2 (f : FW) (d : Dst) (a : Src)
  /-- FLOG2 (R254). -/
  | flog2 (f : FW) (d : Dst) (a : Src)
  /-- FSIN (R254). -/
  | fsin (f : FW) (d : Dst) (a : Src)
  /-- FCOS (R254). -/
  | fcos (f : FW) (d : Dst) (a : Src)
  /-- FTANH (R254). -/
  | ftanh (f : FW) (d : Dst) (a : Src)
  /-- FCVT_F16_F32 (R259). -/
  | fcvtF16F32 (r : RDir) (d : Dst) (a : Src)
  /-- FCVT_BF16_F32 (R259). -/
  | fcvtBf16F32 (r : RDir) (d : Dst) (a : Src)
  /-- FCVT_F32_F64 (R259). -/
  | fcvtF32F64 (r : RDir) (d : Dst) (a : Src)
  /-- FCVT_F32_F16 (R259). -/
  | fcvtF32F16 (d : Dst) (a : Src)
  /-- FCVT_F32_BF16 (R259). -/
  | fcvtF32Bf16 (d : Dst) (a : Src)
  /-- FCVT_F64_F32 (R259). -/
  | fcvtF64F32 (d : Dst) (a : Src)
  /-- ICVT_TO_FLOAT (R260). -/
  | icvtToFloat (f : FW) (w : Width) (g : Sgn) (d : Dst) (a : Src)
  /-- ICVT_TO_INT (R260). -/
  | icvtToInt (f : FW) (w : Width) (g : Sgn) (d : Dst) (a : Src)
  /-- FROUND (R261). -/
  | fround (f : FW) (r : RDir) (d : Dst) (a : Src)
  /-- FCLASS (R262). -/
  | fclass (f : FW) (d : Dst) (a : Src)
  /-- IVLO (R265). -/
  | ivlo (f : FW) (d : Dst) (a : Src)
  /-- IVHI (R265). -/
  | ivhi (f : FW) (d : Dst) (a : Src)
  /-- IVMID (R265). -/
  | ivmid (f : FW) (d : Dst) (a : Src)
  /-- IVWID (R265). -/
  | ivwid (f : FW) (d : Dst) (a : Src)
  /-- LD_IV (R187). -/
  | ldIv (f : FW) (d : Dst) (a : Src)
  /-- ST_IV (R187). -/
  | stIv (f : FW) (d : Reg) (a : Src)
  /-- LDK (R188). -/
  | ldk (k : KReg) (a : Src)
  /-- SCOPE_DROP (R196). -/
  | scopeDrop (a : Src)
  /-- FENCE_REP (R197). -/
  | fenceRep
  /-- PF (R198). -/
  | pf (a : Src)
  /-- WAIT (R200). -/
  | wait (c : Byte) (m : Mask4)
  /-- ADD_16 (R61). -/
  | add16 (d : Reg) (b : Reg5)
  /-- SUB_16 (R61). -/
  | sub16 (d : Reg) (b : Reg5)
  /-- MUL24_16 (R61). -/
  | mul2416 (d : Reg) (b : Reg5)
  /-- AND_16 (R61). -/
  | and16 (d : Reg) (b : Reg5)
  /-- OR_16 (R61). -/
  | or16 (d : Reg) (b : Reg5)
  /-- XOR_16 (R61). -/
  | xor16 (d : Reg) (b : Reg5)
  /-- SHL_16 (R61). -/
  | shl16 (d : Reg) (b : Reg5)
  /-- SHR_16 (R61). -/
  | shr16 (d : Reg) (b : Reg5)
  /-- SAR_16 (R61). -/
  | sar16 (d : Reg) (b : Reg5)
  /-- MIN_16 (R61). -/
  | min16 (d : Reg) (b : Reg5)
  /-- MAX_16 (R61). -/
  | max16 (d : Reg) (b : Reg5)
  /-- MOV_16 (R61). -/
  | mov16 (d : Reg) (b : Reg5)
  /-- NOP_H (R61). -/
  | nopH (b : Reg5)
  /-- FADD_16 (R61). -/
  | fadd16 (d : Reg) (b : Reg5)
  /-- FSUB_16 (R61). -/
  | fsub16 (d : Reg) (b : Reg5)
  /-- FMUL_16 (R61). -/
  | fmul16 (d : Reg) (b : Reg5)
  /-- FMAX_16 (R61). -/
  | fmax16 (d : Reg) (b : Reg5)
  /-- COALESCER_TIMEOUT (R190). -/
  | coalescerTimeout (core : Nat) (slot : Nat)
  /-- LANE_MERGE (R49). -/
  | laneMerge (m : Nat)
  /-- LOAD_REQUEST (R107). -/
  | loadRequest (t : Nat)
  /-- LOAD_DATA_RETURN (R107). -/
  | loadDataReturn (t : Nat)
  /-- SLICE_WRITE (R298). -/
  | sliceWrite (m : Nat)
  /-- STORE_ACK (R108). -/
  | storeAck (m : Nat)
  /-- L2_ATOMIC (R117). -/
  | l2Atomic (t : Nat)
  /-- RECALL_RETURN (R109). -/
  | recallReturn (line : Nat)
  /-- WRITE_QUEUE_DRAIN (R299). -/
  | writeQueueDrain (ms : Nat)
  /-- HBM_READ (R81). -/
  | hbmRead (line : Nat) (key : Nat) (err : PhysErr)
  /-- REFRESH (R79). -/
  | refresh (ms : Nat)
  /-- RFM (R79). -/
  | rfm (ms : Nat) (bank : Nat)
  /-- PATROL_SCRUB (R82). -/
  | patrolScrub (line : Nat) (err : PhysErr)
  /-- REPLICA_UPDATE (R121). -/
  | replicaUpdate (m : Nat)
  /-- REPLICA_ACK (R123). -/
  | replicaAck (m : Nat)
  /-- REBASE (R111). -/
  | rebase
  /-- CHAIN_FLIT_CRC_FAIL (R90). -/
  | chainFlitCrcFail (dir : Nat) (group : Nat)
  /-- CHAIN_LANE_REPAIR (R90). -/
  | chainLaneRepair (dir : Nat) (group : Nat)
  /-- PAGE_WALK (R95). -/
  | pageWalk (w : Nat)
  /-- FAULT_ENTRY_RETRY (R100). -/
  | faultEntryRetry (w : Nat)
  /-- INSTRUCTION_FETCH (R126). -/
  | instructionFetch (core : Nat) (aspace : Nat) (line : Nat) (parity : Bool)
  /-- COPY_ACCEPT (R162). -/
  | copyAccept (core : Nat)
  /-- COPY_COMPLETE (R125). -/
  | copyComplete (c : Nat)
  /-- ALLOCATOR_SERVE (R139). -/
  | allocatorServe (core : Nat)
  /-- ACRE_DRAINED (R138). -/
  | acreDrained (core : Nat)
  /-- ACRE_FILLED (R138). -/
  | acreFilled (core : Nat)
  /-- ACRE_WRITEOUT_ACK (R138). -/
  | acreWriteoutAck (core : Nat)
  /-- BENCH (R141). -/
  | bench (core : Nat)
  /-- DISPATCH (R339). -/
  | dispatch
  /-- ADMIT (R341). -/
  | admitGang (core : Nat)
  /-- LIST_AVERAGING (R342). -/
  | listAveraging (cluster : Nat)
  /-- SPAN_AGE (R343). -/
  | spanAge (cluster : Nat)
  /-- PREEMPT_PRIORITY (R376). -/
  | preemptPriority (core : Nat)
  /-- PREEMPT_SLICE (R376). -/
  | preemptSlice (core : Nat)
  /-- LAUNCH_COMPLETE (R345). -/
  | launchComplete (slot : Nat)
  /-- BIN_TIMER (R338). -/
  | binTimer (slot : Nat) (node : Nat)
  /-- BIN_DRAIN (R338). -/
  | binDrain (slot : Nat)
  /-- DEADLOCK_DETECT (R361). -/
  | deadlockDetect (g : Nat)
  /-- SLEEP_END (R360). -/
  | sleepEnd (t : Nat)
  /-- LAUNCH_REPLAY (R386). -/
  | launchReplay (slot : Nat)
  /-- SCRUPLE_THRESHOLD (R390). -/
  | scrupleThreshold (u : HwUnit)
  /-- SCRUPLE_HALVING (R390). -/
  | scrupleHalving
  /-- TARGETED_TEST_DONE (R390). -/
  | targetedTestDone (u : HwUnit) (pass : Bool)
  /-- POWER_EXCURSION (R407). -/
  | powerExcursion
  /-- POWER_RECOVERY (R407). -/
  | powerRecovery
  /-- POWER_ON (R410). -/
  | powerOn
  /-- UAL_ID_ASSIGN (R404). -/
  | ualIdAssign (id : Nat)
  /-- UALINK_INGRESS_WRITE (R405). -/
  | ualinkIngressWrite (w : IngressWrite)
  /-- UALINK_INGRESS_READ (R116). -/
  | ualinkIngressRead (line : Nat) (foreign : Bool)
  /-- UALINK_INGRESS_ATOMIC (R116). -/
  | ualinkIngressAtomic (pa : Nat) (w : Width) (o : AtomOp) (v : Word) (c : Word)
  /-- REDUCE_ON_ARRIVAL (R405). -/
  | reduceOnArrival (w : IngressReduce)
  /-- UALINK_RESPONSE (R404). -/
  | ualinkResponse (m : Nat) (r : UalReply)
  /-- LAUNCH (R333). -/
  | launch (q : Nat)
  /-- WAIT_BLOCK (R327). -/
  | waitBlock (q : Nat)
  /-- SIGNAL_ADD (R327). -/
  | signalAdd (q : Nat)
  /-- SIGNAL_SET_COUNTER (R336). -/
  | signalSetCounter (q : Nat)
  /-- BRANCH_ON (R327). -/
  | branchOn (q : Nat)
  /-- SKIP (R327). -/
  | skip (q : Nat)
  /-- FENCE (R327). -/
  | fence (q : Nat)
  /-- INVALIDATE (R328). -/
  | invalidate (q : Nat)
  /-- UNMAP_X (R328). -/
  | unmapX (q : Nat)
  /-- MAP_X (R328). -/
  | mapX (q : Nat)
  /-- WRITE_CODE (R328). -/
  | writeCode (q : Nat)
  /-- WRITE (R327). -/
  | writeBlock (q : Nat)
  /-- TIMESTAMP (R327). -/
  | timestamp (q : Nat)
  /-- BLOCK_TEST_RETRY (R326). -/
  | blockTestRetry (q : Nat)
  /-- QWPTR_WRITE (R324). -/
  | qwptrWrite (q : Nat) (v : Nat)
  /-- QCFG_ENABLE (R324). -/
  | qcfgEnable (q : Nat) (v : Word)
  /-- QCFG_DISABLE (R324). -/
  | qcfgDisable (q : Nat) (v : Word)
  /-- QCFG_ERR_CLEAR (R331). -/
  | qcfgErrClear (q : Nat) (v : Word)
  /-- REGISTER_WRITE (R402). -/
  | registerWrite (off : Nat) (eight : Bool) (v : Word)
  /-- RESOLVE_RETRY (R101). -/
  | resolveRetry (die : Nat) (entry : Nat) (vpn : Nat)
  /-- RESOLVE_FAIL (R101). -/
  | resolveFail (die : Nat) (entry : Nat) (vpn : Nat)
  /-- INTSTAT_CLEAR (R402). -/
  | intstatClear (v : Word)
  /-- GSTAT_CLEAR (R403). -/
  | gstatClear (v : Word)
  /-- BAR0_UNDOCUMENTED_ACCESS (R403). -/
  | bar0UndocumentedAccess (x : BarAccess)
  /-- KEY_LOAD (R407). -/
  | keyLoad (slot : Nat) (half : Nat) (key : KeyHalf)
  /-- KEY_CLEAR (R407). -/
  | keyClear (slot : Nat)
  /-- HALT (R379). -/
  | halt (lid : Nat) (gang : Nat) (crew : Nat)
  /-- RESUME (R379). -/
  | resume (lid : Nat) (gang : Nat) (crew : Nat)
  /-- KILL (R379). -/
  | kill (lid : Nat) (gang : Nat) (crew : Nat)
  /-- BREAK (R379). -/
  | breakReq (lid : Nat) (gang : Nat) (crew : Nat)
  /-- MIGRATE (R399). -/
  | migrate (lid : Nat) (gang : Nat)
  /-- MIGRATE_READY (R399). -/
  | migrateReady (lid : Nat) (gang : Nat)
  /-- MIGRATE_TIMEOUT (R399). -/
  | migrateTimeout (lid : Nat) (gang : Nat)
  /-- MIGRATE_IN (R400). -/
  | migrateIn (lid : Nat) (gang : Nat) (same : Bool)
  /-- SENSOR (R407). -/
  | sensor
  /-- LOG_READ (R408). -/
  | logRead (n : Nat)
  /-- ATTEST (R409). -/
  | attest (nonce : KeyHalf) (page : Nat)
  /-- FW_STAGE (R409). -/
  | fwStage (p : FwPiece)
  /-- FW_ACTIVATE (R409). -/
  | fwActivate (u : Nat)
  /-- ENROLL (R409). -/
  | enroll (r : EnrollReq)
  /-- JOURNAL_CLEAR (R410). -/
  | journalClear
  /-- TILE_INSTRUCTION_COMPLETE (R273). -/
  | tileInstructionComplete (n : Nat)
  /-- DRAINED_CORE_PREEMPTION (R390). -/
  | drainedCorePreemption (core : Nat)
  deriving DecidableEq, Repr

end Sys2Proof
end

