-- ==== Sys2Proof/Config.lean ====
section
/-! DEFINITION. What an implementation fixes, and the free values: constants without a body, of which no proof can see a
value. Log entries 2, 7 to 10, 12, 73, 80, 81 and 84 name them. -/

namespace Sys2Proof.Config

/-- The production steppings (00 R1). -/
inductive Stepping where | b0 | b1
  deriving DecidableEq, Repr

/-- A free value for a word whose value the spec leaves open; applied to the counter `State.free` (log entry 2). -/
opaque freeWord : Nat → Word

/-- A free choice: the model uses it modulo the number of values the spec allows (log entry 2). -/
opaque freePick : Nat → Nat

/-- Which of the values that a dead register has held an instruction's read finds (09 R213): by the thread's counter
`Thread.deadReads`, the thread and the slot (log entry 2). -/
opaque freeHeld : Nat → Nat → Nat → Nat

/-- xval where a latch holds an uncorrectable error, by time and thread: a latch has no slot, whose VA 09 R214 would name
(log entry 73). -/
opaque latchXval : Nat → Nat → Word

/-- The special functions whose inexact results are a property of the implementation (11 R254). -/
inductive SpecialFn where | rcp | rsq | exp2 | log2 | sin | cos | tanh
  deriving DecidableEq, Repr

/-- Which of the results that 11 R254 allows a device returns for an input that neither the table nor the exact cases fix: a
choice that the model uses modulo their number (log entry 7). One fixed result for each input. -/
opaque specialBits : SpecialFn → FW → Word → Word

/-- The choices for rd' and ru' of 11 R256 at a point (log entry 7). -/
opaque specialLo : SpecialFn → FW → Word → Word
opaque specialHi : SpecialFn → FW → Word → Word

/-- What Porast's sensors read at a time (19 R407, log entry 8). -/
opaque sensorByte : Nat → Nat → Byte

/-- Whether a signature over an image or request verifies under one of the keys (19 R409, log entry 9). -/
opaque sigVerifies : List KeyHalf → List Byte → List Byte → Bool

/-- A byte of the signed attestation report (19 R409, log entry 9), by index: a function of what the report holds (the images that
the six slots measure, the active slots, the stepping, the enrolled keys, the nonce) and of the device's identity key. -/
opaque attestByte : List (List Byte) → List Bool → Stepping → List KeyHalf → KeyHalf → Nat → Byte

/-- A byte of an event-log entry (19 R408: which bytes hold its count, unit, code and detail is not stated, log entry 9). The
entry comes as its count and the numbers that tell its event. -/
opaque logByte : Nat → List Nat → Nat → Byte

/-- The bank of its memory slice in which a line lies, and the activation count at which a slice issues refresh management
(04 R79: the stack's mode registers report it; log entry 10). -/
opaque bankOf : Nat → Nat
opaque rfmThreshold : Nat

/-- The bytes to which an aligned block of four lines compresses (04 R85: the form is never visible), and their number
(log entry 13). -/
opaque compressedByte : List Byte → Nat → Byte
opaque compressedSize : List Byte → Nat

/-- AES-256-XTS under a key's two halves and a tweak (04 R83), and the check bytes of stored bytes 0 to 80 (R80: the spec
names the code and not its polynomials; log entry 81). -/
opaque aesXts : KeyHalf → KeyHalf → Nat → List Byte → List Byte
opaque checkByte : List Byte → Nat → Byte

/-- The device key that Porast generates at each power-on, by its number (04 R83, log entry 81). -/
opaque deviceKeyLo : Nat → KeyHalf
opaque deviceKeyHi : Nat → KeyHalf

/-- The word that a peer answers to a walker's load of a table entry at a PA in its window, by time; none: an error answer
(04 R95, 19 R404, log entry 80). -/
opaque peerEntry : Nat → Nat → Option Word

/-- Whether the peer with a UALink device ID is a Vilza part (02 R46, R48, log entry 84). -/
opaque vilzaPeer : Nat → Bool

/-- The spare lanes of a lane group of the Chain, by direction and group (04 R90, log entry 12). -/
opaque chainSpares : Nat → Nat → Nat

end Sys2Proof.Config
end

