-- ==== Sys2Proof/WellFormed.lean ====
section
/-! DEFINITION. Which terms of `Instr` are instructions an encoding of the spec can name: the limits of 03 R63 item 5 and
of the opcode map that the field types do not already carry. -/

namespace Sys2Proof

/-- The system registers that 17 R371 lists. -/
def sysRegListed (n : Nat) : Bool := decide (n ≤ 11 ∧ n ≠ 7 ∨ 16 ≤ n ∧ n ≤ 22)

/-- A 32-bit immediate shift has a count below 32 (03 R65, op 0x1D). -/
def cntOk : Width → Cnt6 → Bool
  | .w32, c => decide (c.val < 32)
  | .w64, _ => true

/-- The destination of a form whose result is always an interval: even for .f64 (03 R63, 02 R21). -/
def ivDstOk : FW → Reg → Bool
  | .f32, _ => true
  | .f64, r => decide (r.val % 2 = 0)

/-- A relation of the integer compares: `un` belongs to fcmp alone (03 R59). -/
def relOk : Rel → Bool
  | .un => false
  | _ => true

/-- The well-formed instructions. A step without an encoding is well formed. -/
def wellFormed : Instr → Bool
  | .shlImm w _ _ c | .shrImm w _ _ c | .sarImm w _ _ c | .rotImm w _ _ c => cntOk w c
  | .ivmk f d _ _ | .ivmkE f d _ _ | .ivhull f d _ _ | .ivhullE f d _ _ | .ivisect f d _ _
  | .ivisectE f d _ _ => ivDstOk f d.reg
  | .cmpSigned _ l _ _ _ | .cmpUnsigned _ l _ _ _ => relOk l
  | .pdec v _ _ => decide (v ≠ .u)
  | .ldB64x2 d _ _ => decide (d.reg.val % 2 = 0)
  | .ldB64x4 d _ _ => decide (d.reg.val % 4 = 0)
  | .stB64x2 d _ _ => decide (d.val % 2 = 0)
  | .stB64x4 d _ _ => decide (d.val % 4 = 0)
  | .atom _ o _ d _ => decide (o = .cas → d.reg.val % 2 = 0)
  | .mcvt _ p _ _ => decide (p.val ≤ 16)
  | .mhdrGet d _ => decide (d.reg.val % 2 = 0)
  | .mhdrSet d _ => decide (d.val % 2 = 0)
  | .call _ n => decide (n.val ≠ 0)
  | .callk _ n => decide (n.val ≠ 0)
  | .sget _ r => sysRegListed r.val
  | .sput r _ => sysRegListed r.val
  | .ldIv f d _ => ivDstOk f d.reg
  | .stIv f d _ => ivDstOk f d
  | .add16 d b => decide (d.val ≠ 0 ∨ b.val ≠ 0)
  | .mov16 d b => decide (d.val ≠ b.val)
  | _ => true

end Sys2Proof
end

