-- ==== Sys2Proof/Decode.lean ====
section
/-! DEFINITION. The decoder of Stefel-2 (03 R51 to R68), total on every run of bytes, and the encoder from the same tables.
Words are natural numbers; bit 0 is the least significant bit of the first halfword. -/

namespace Sys2Proof

/-! ## Bit fields, byte order and sign extension -/

/-- The `n` bits of `v` from bit `lo` up. -/
def fld (v lo n : Nat) : Nat := v / 2 ^ lo % 2 ^ n

/-- Bit `i` of `v`. -/
def bitAt (v i : Nat) : Bool := fld v i 1 == 1

/-- The low `n` bits of `v` as a two's-complement integer. -/
def sxInt (v n : Nat) : Int :=
  if v % 2 ^ n < 2 ^ (n - 1) then (v % 2 ^ n : Nat) else (v % 2 ^ n : Nat) - (2 ^ n : Nat)

/-- The little-endian value of a run of bytes (00 R5). -/
def leNat : List Byte → Nat
  | [] => 0
  | b :: r => b.toNat + 256 * leNat r

/-- `n` bytes of a value, least significant first (00 R5). -/
def leBytes : Nat → Nat → List Byte
  | 0, _ => []
  | n + 1, v => BitVec.ofNat 8 v :: leBytes n (v / 256)

/-! ## Fields to names and back -/

def Bool.bit (b : Bool) : Nat := if b then 1 else 0

def Width.ofBit (b : Bool) : Width := if b then .w64 else .w32
def Width.bit : Width → Nat | .w32 => 0 | .w64 => 1
def Sgn.ofBit (b : Bool) : Sgn := if b then .s else .n
def Sgn.bit : Sgn → Nat | .n => 0 | .s => 1
def FW.ofBit (b : Bool) : FW := if b then .f64 else .f32
def FW.bit : FW → Nat | .f32 => 0 | .f64 => 1
def PW.ofBit (b : Bool) : PW := if b then .f16x2 else .bf16x2
def PW.bit : PW → Nat | .bf16x2 => 0 | .f16x2 => 1

def Sense.ofCode : Nat → Sense | 0 => .t | 1 => .f | 2 => .u | _ => .nt
def Sense.code : Sense → Nat | .t => 0 | .f => 1 | .u => 2 | .nt => 3
def Rel.ofCode : Nat → Rel | 0 => .eq | 1 => .ne | 2 => .lt | 3 => .le | 4 => .gt | 5 => .ge | _ => .un
def Rel.code : Rel → Nat | .eq => 0 | .ne => 1 | .lt => 2 | .le => 3 | .gt => 4 | .ge => 5 | .un => 6
def Pred.ofCode : Nat → Pred | 0 => .f | 1 => .t | _ => .u
def Pred.code : Pred → Nat | .f => 0 | .t => 1 | .u => 2
def VoteMode.ofCode : Nat → VoteMode | 0 => .ballot | 1 => .all | _ => .any
def VoteMode.code : VoteMode → Nat | .ballot => 0 | .all => 1 | .any => 2
def ShflMode.ofBit (b : Bool) : ShflMode := if b then .xor else .idx
def ShflMode.bit : ShflMode → Nat | .idx => 0 | .xor => 1
def LshDir.ofBit (b : Bool) : LshDir := if b then .dn else .up
def LshDir.bit : LshDir → Nat | .up => 0 | .dn => 1
def Scope.ofCode : Nat → Scope | 0 => .gang | 1 => .span | 2 => .dev | _ => .sys
def Scope.code : Scope → Nat | .gang => 0 | .span => 1 | .dev => 2 | .sys => 3
def AtomOp.ofCode : Nat → AtomOp
  | 0 => .add | 1 => .minS | 2 => .minN | 3 => .maxS | 4 => .maxN | 5 => .and | 6 => .or | 7 => .xor
  | 8 => .xchg | 9 => .cas | 10 => .incw | _ => .fadd
def AtomOp.code : AtomOp → Nat
  | .add => 0 | .minS => 1 | .minN => 2 | .maxS => 3 | .maxN => 4 | .and => 5 | .or => 6 | .xor => 7
  | .xchg => 8 | .cas => 9 | .incw => 10 | .fadd => 11
def ExtKind.ofCode : Nat → ExtKind
  | 0 => .n8 | 1 => .s8 | 2 => .n16 | 3 => .s16 | 4 => .n32 | _ => .s32
def ExtKind.code : ExtKind → Nat
  | .n8 => 0 | .s8 => 1 | .n16 => 2 | .s16 => 3 | .n32 => 4 | .s32 => 5
def RDir.ofCode : Nat → RDir | 0 => .mode | 1 => .rz | 2 => .rd | _ => .ru
def RDir.code : RDir → Nat | .mode => 0 | .rz => 1 | .rd => 2 | .ru => 3

/-- EFMT codes (02 R31); none: unassigned. -/
def EFmt.ofNat? : Nat → Option EFmt
  | 0x01 => some .f32 | 0x02 => some .f16 | 0x03 => some .bf16
  | 0x08 => some .e4m3 | 0x09 => some .e5m2 | 0x0A => some .e3m2 | 0x0B => some .e2m3 | 0x0C => some .e2m1
  | 0x10 => some .s32 | 0x11 => some .s16 | 0x12 => some .s8 | 0x13 => some .n8
  | 0x14 => some .s4 | 0x15 => some .n4 | 0x16 => some .s2 | 0x17 => some .b1
  | _ => none
def EFmt.code : EFmt → Nat
  | .f32 => 0x01 | .f16 => 0x02 | .bf16 => 0x03
  | .e4m3 => 0x08 | .e5m2 => 0x09 | .e3m2 => 0x0A | .e2m3 => 0x0B | .e2m1 => 0x0C
  | .s32 => 0x10 | .s16 => 0x11 | .s8 => 0x12 | .n8 => 0x13
  | .s4 => 0x14 | .n4 => 0x15 | .s2 => 0x16 | .b1 => 0x17

/-- The special source of a code under level 0b11 (03 R55); a reserved code is refused by `specialReserved` first. -/
def Special.ofNat (c : Nat) : Special :=
  if c < 32 then .k (Fin.ofNat 32 c)
  else if c = 32 then .l0
  else if c = 33 then .l1
  else if c = 34 then .zero
  else if c = 35 then .lane
  else if c = 36 then .ones
  else .pop (Fin.ofNat 8 (c - 40))
def Special.code : Special → Nat
  | .k n => n.val | .l0 => 32 | .l1 => 33 | .zero => 34 | .lane => 35 | .ones => 36 | .pop q => 40 + q.val

/-- A source specifier: level in bits 7 and 6, reg in bits 5 to 0 (03 R55). -/
def Src.ofNat (v : Nat) : Src :=
  if v < 64 then .oc (Fin.ofNat 64 v)
  else if v < 128 then .last (Fin.ofNat 64 (v - 64))
  else if v < 192 then .direct (Fin.ofNat 64 (v - 128))
  else .special (Special.ofNat (v - 192))
def Src.code : Src → Nat
  | .oc r => r.val | .last r => 64 + r.val | .direct r => 128 + r.val | .special p => 192 + p.code

/-- The reserved codes of level 0b11: 37 to 39 and 48 to 63 (03 R55). -/
def specialReserved (v : Nat) : Bool :=
  decide (192 ≤ v ∧ (37 ≤ v - 192 ∧ v - 192 ≤ 39 ∨ 48 ≤ v - 192))

/-- A field that must name k0 to k31: level 0b11, code 0 to 31. -/
def namesK (v : Nat) : Bool := decide (192 ≤ v ∧ v < 224)

/-! ## The decoder -/

/-- Why a decoder refuses a word (03 R63). -/
inductive DecodeTrap where
  | illegalInstr | lifetime | reservedEncoding | specialOperand
  deriving DecidableEq, Repr

/-- What a decoder makes of a word. -/
inductive Decoded where
  | ok (i : Instr)
  | trap (c : DecodeTrap)
  deriving DecidableEq, Repr

/-- Items 4 to 6 of 03 R63, in order: zero fields, classes and limits, reserved special sources. -/
def checked (zeroOk classOk : Bool) (srcs : List Nat) (i : Instr) : Decoded :=
  if !zeroOk then .trap .reservedEncoding
  else if !classOk then .trap .illegalInstr
  else if srcs.any specialReserved then .trap .specialOperand
  else .ok i

/-- The fields of the 32-bit formats (03 R53), by their bits. -/
def fX (w : Nat) : Bool := bitAt w 31
def fB (w : Nat) : Nat := fld w 23 8
def fA (w : Nat) : Nat := fld w 15 8
def fK (w : Nat) : Bool := bitAt w 14
def fD (w : Nat) : Nat := fld w 8 6
def fImm9 (w : Nat) : Imm9 := BitVec.ofNat 9 (fld w 23 9)
def fImm16 (w : Nat) : Imm16 := BitVec.ofNat 16 (fld w 16 16)
def fOff19 (w : Nat) : Off19 := BitVec.ofNat 19 (fld w 13 19)
def fReg (w : Nat) : Reg := Fin.ofNat 64 (fD w)
def fDst (w : Nat) : Dst := ⟨fReg w, fK w⟩
def srcA (w : Nat) : Src := Src.ofNat (fA w)
def srcB (w : Nat) : Src := Src.ofNat (fB w)
def fP (w : Nat) : PReg := Fin.ofNat 8 (fld w 8 3)
def fMd (w : Nat) : MReg := Fin.ofNat 16 (fld w 8 4)
def fMa (w : Nat) : MReg := Fin.ofNat 16 (fld w 12 4)
def fMb (w : Nat) : MReg := Fin.ofNat 16 (fld w 16 4)
def fTok (w : Nat) : KReg := Fin.ofNat 32 (fld w 27 5)
/-- m of format RRM (03 R53). -/
def fM (w : Nat) : MReg := Fin.ofNat 16 (fld w 15 4)
/-- A k register in d[12:8]. -/
def fKd (w : Nat) : KReg := Fin.ofNat 32 (fld w 8 5)

/-- A format RR instruction without zero fields. -/
def rr (w : Nat) (i : Instr) : Decoded := checked true true [fB w, fA w] i
/-- A format RR instruction whose x is marked zero. -/
def rr0 (w : Nat) (i : Instr) : Decoded := checked (!fX w) true [fB w, fA w] i

/-- Integer and address ops 0x01 to 0x1F (03 R65). -/
def decodeInt (op w : Nat) : Decoded :=
  let x := fX w; let d := fDst w; let a := srcA w; let b := srcB w
  match op with
  | 0x01 => rr w (.add (.ofBit x) d a b)
  | 0x02 => rr w (.sub (.ofBit x) d a b)
  | 0x03 => rr w (.addc (.ofBit x) d a b)
  | 0x04 => rr w (.subb (.ofBit x) d a b)
  | 0x05 => rr w (.mul24 (.ofBit x) d a b)
  | 0x06 => rr w (.mad24 (.ofBit x) d a b)
  | 0x07 => rr w (.mul (.ofBit x) d a b)
  | 0x08 => rr w (.mulh (.ofBit x) d a b)
  | 0x09 => rr w (.div (.ofBit x) d a b)
  | 0x0A => rr w (.rem (.ofBit x) d a b)
  | 0x0B => rr w (.min (.ofBit x) d a b)
  | 0x0C => rr w (.max (.ofBit x) d a b)
  | 0x0D => rr w (.addmin (.ofBit x) d a b)
  | 0x0E => rr w (.and (.ofBit x) d a b)
  | 0x0F => rr w (.or (.ofBit x) d a b)
  | 0x10 => rr w (.xor (.ofBit x) d a b)
  | 0x11 => rr w (.andn (.ofBit x) d a b)
  | 0x12 => rr w (.shl (.ofBit x) d a b)
  | 0x13 => rr w (.shr (.ofBit x) d a b)
  | 0x14 => rr w (.sar (.ofBit x) d a b)
  | 0x15 => rr w (.rot (.ofBit x) d a b)
  | 0x16 => rr w (.bfe (.ofBit x) d a b)
  | 0x17 => rr0 w (.bfi d a b)
  | 0x18 => rr0 w (.perm d a b)
  | 0x19 => rr w (.lea (.ofBit x) d a b)
  | 0x1A => checked true true [fA w] (.addImm d a (fImm9 w))
  | 0x1B => checked true true [fA w] (.andImm d a (fImm9 w))
  | 0x1C => checked true true [fA w] (.orImm d a (fImm9 w))
  | 0x1D =>
    let wd := Width.ofBit (bitAt w 29); let c : Cnt6 := Fin.ofNat 64 (fld w 23 6)
    checked (bitAt w 29 || !bitAt w 28) true [fA w]
      (match fld w 30 2 with
       | 0 => .shlImm wd d a c
       | 1 => .shrImm wd d a c
       | 2 => .sarImm wd d a c
       | _ => .rotImm wd d a c)
  | 0x1E => checked true true [] (.movi (.ofBit (!bitAt w 15)) d (fImm16 w))
  | 0x1F => checked true true [] (.movw (fReg w) (fImm16 w) (Fin.ofNat 4 (2 * fld w 14 1 + fld w 15 1)))
  | _ => .trap .illegalInstr

/-- Floating point and interval ops 0x20 to 0x37 (03 R65). An odd d of a form that always writes an interval is outside
its class (03 R63). -/
def decodeFloat (op w : Nat) : Decoded :=
  let x := fX w; let d := fDst w; let a := srcA w; let b := srcB w; let f := FW.ofBit x
  let iv := fun (i : Instr) => checked true (ivDstOk f d.reg) [fB w, fA w] i
  match op with
  | 0x20 => rr w (.fadd f d a b)
  | 0x21 => rr w (.fsub f d a b)
  | 0x22 => rr w (.fmul f d a b)
  | 0x23 => rr w (.ffma f d a b)
  | 0x24 => rr w (.fmin f d a b)
  | 0x25 => rr w (.fmax f d a b)
  | 0x26 => rr w (.fdiv f d a b)
  | 0x27 => rr w (.faddPacked (.ofBit x) d a b)
  | 0x28 => rr w (.fmulPacked (.ofBit x) d a b)
  | 0x29 => rr w (.ffmaPacked (.ofBit x) d a b)
  | 0x2A => iv (.ivmk f d a b)
  | 0x2B => iv (.ivmkE f d a b)
  | 0x2C => iv (.ivhull f d a b)
  | 0x2D => iv (.ivhullE f d a b)
  | 0x2E => iv (.ivisect f d a b)
  | 0x2F => iv (.ivisectE f d a b)
  | 0x30 => rr w (.ibsp f d a b)
  | _ => .trap .illegalInstr

/-- Compare, predicate and select ops 0x38 to 0x3F (03 R65; log entry 11 for ivin's relation field). -/
def decodePred (op w : Nat) : Decoded :=
  let x := fX w; let d := fDst w; let a := srcA w; let b := srcB w; let rel := fld w 11 3
  let p3 := fun (lo : Nat) => (Fin.ofNat 8 (fld w lo 3) : PReg)
  match op with
  | 0x38 => if 5 < rel then .trap .illegalInstr
            else checked (!fK w) true [fB w, fA w] (.cmpSigned (.ofBit x) (.ofCode rel) (fP w) a b)
  | 0x39 => if 5 < rel then .trap .illegalInstr
            else checked (!fK w) true [fB w, fA w] (.cmpUnsigned (.ofBit x) (.ofCode rel) (fP w) a b)
  | 0x3A => if 6 < rel then .trap .illegalInstr
            else checked (!fK w) true [fB w, fA w] (.fcmp (.ofBit x) (.ofCode rel) (fP w) a b)
  | 0x3B => checked (!fK w && rel == 0) true [fB w, fA w] (.ivin (.ofBit x) (fP w) a b)
  | 0x3C => checked (!x && fld w 23 3 == 0) true [fA w] (.cmov d a (p3 28) (.ofCode (fld w 26 2)))
  | 0x3D =>
    let hi := fld w 26 6 == 0; let v := fld w 24 2
    let sels := !bitAt w 19 && !bitAt w 15 && !bitAt w 11
    match fld w 20 4 with
    | 0 => checked (hi && v == 0 && sels) true [] (.pand (p3 8) (p3 12) (p3 16))
    | 1 => checked (hi && v == 0 && sels) true [] (.por (p3 8) (p3 12) (p3 16))
    | 2 => checked (hi && v == 0 && sels) true [] (.pxor (p3 8) (p3 12) (p3 16))
    | 3 => checked (hi && v == 0 && sels && fld w 16 4 == 0) true [] (.pnot (p3 8) (p3 12))
    | 4 => checked (hi && sels && fld w 16 4 == 0) (decide (v < 2)) [] (.pdec (.ofCode v) (p3 8) (p3 12))
    | 5 => checked (hi && sels && fld w 12 8 == 0) (decide (v < 3)) [] (.pset (.ofCode v) (p3 8))
    | _ => .trap .illegalInstr
  | 0x3E =>
    if x then checked (fB w == 0 && fD w == 0 && !fK w) true [fA w] (.pput a)
    else checked (fB w == 0 && fA w == 0) true [] (.pget d)
  | 0x3F => if 2 < fld w 15 3 then .trap .illegalInstr
            else checked (!x) true [fB w] (.vote (.ofCode (fld w 15 3)) d (p3 20) (.ofCode (fld w 18 2)) b)
  | _ => .trap .illegalInstr

/-- Lane ops 0x40 to 0x4F (03 R65). -/
def decodeLane (op w : Nat) : Decoded :=
  let x := fX w; let d := fDst w; let a := srcA w; let b := srcB w
  match op with
  | 0x40 => rr w (.shfl (.ofBit x) d a b)
  | 0x41 => rr w (.lsh (.ofBit x) d a b)
  | 0x42 => checked (!x && !fK w && !bitAt w 13) true [fB w, fA w] (.bcastFirst (fKd w) a b)
  | 0x43 => rr0 w (.matchLane d a b)
  | 0x44 => rr w (.reduxAdd (.ofBit x) d a b)
  | 0x45 => rr w (.reduxMin (.ofBit x) d a b)
  | 0x46 => rr w (.reduxMax (.ofBit x) d a b)
  | 0x47 => rr w (.reduxAnd (.ofBit x) d a b)
  | 0x48 => rr w (.reduxOr (.ofBit x) d a b)
  | 0x49 => rr w (.reduxXor (.ofBit x) d a b)
  | 0x4A => rr w (.freduxAdd (.ofBit x) d a b)
  | 0x4B => rr w (.freduxMin (.ofBit x) d a b)
  | 0x4C => rr w (.freduxMax (.ofBit x) d a b)
  | 0x4D => rr w (.scanAdd (.ofBit x) d a b)
  | 0x4E => rr w (.scanMax (.ofBit x) d a b)
  | _ => .trap .illegalInstr

/-- Memory ops 0x50 to 0x5F (03 R65). -/
def decodeMem (op w : Nat) : Decoded :=
  let d := fDst w; let a := srcA w; let i := fImm9 w
  let ld := fun (m : Nat) (ins : Instr) => checked true (fD w % m == 0) [fA w] ins
  let st := fun (m : Nat) (ins : Instr) => checked (!fK w) (fD w % m == 0) [fA w] ins
  match op with
  | 0x50 => ld 1 (.ldN8 d a i)
  | 0x51 => ld 1 (.ldS8 d a i)
  | 0x52 => ld 1 (.ldN16 d a i)
  | 0x53 => ld 1 (.ldS16 d a i)
  | 0x54 => ld 1 (.ldN32 d a i)
  | 0x55 => ld 1 (.ldS32 d a i)
  | 0x56 => ld 1 (.ldB64 d a i)
  | 0x57 => ld 2 (.ldB64x2 d a i)
  | 0x58 => ld 4 (.ldB64x4 d a i)
  | 0x59 => st 1 (.stB8 (fReg w) a i)
  | 0x5A => st 1 (.stB16 (fReg w) a i)
  | 0x5B => st 1 (.stB32 (fReg w) a i)
  | 0x5C => st 1 (.stB64 (fReg w) a i)
  | 0x5D => st 2 (.stB64x2 (fReg w) a i)
  | 0x5E => st 4 (.stB64x4 (fReg w) a i)
  | 0x5F =>
    if 11 < fld w 27 4 then .trap .illegalInstr
    else checked (fld w 23 2 == 0) (fld w 27 4 != 9 || fD w % 2 == 0) [fA w]
      (.atom (.ofBit (fX w)) (.ofCode (fld w 27 4)) (.ofCode (fld w 25 2)) d a)
  | _ => .trap .illegalInstr

/-- Copy ops 0x60 to 0x67 (03 R65, 07 R170). -/
def decodeCopy (op w : Nat) : Decoded :=
  let t := fTok w; let md := fMd w; let ma := fMa w; let mb := fMb w
  match op with
  | 0x60 => checked (fld w 20 7 == 0) true [] (.cpIn t md ma mb)
  | 0x61 => checked (fld w 21 6 == 0) true [] (if bitAt w 20 then .cpOutAdd t md ma mb else .cpOut t md ma mb)
  | 0x62 => checked (fld w 24 3 == 0) true [] (.cpMc t md ma mb (Fin.ofNat 16 (fld w 20 4)))
  | 0x63 => checked (fld w 21 6 == 0) true [] (if bitAt w 20 then .cpPadOut t md ma mb else .cpPad t md ma mb)
  | 0x64 => checked (fld w 16 11 == 0) true [] (.cpFill t md ma)
  | 0x65 => checked (fld w 8 24 == 0) true [] .recFence
  | 0x66 => checked (fld w 16 16 == 0 && fld w 8 4 == 0) true [] (.recPf ma)
  | 0x67 => checked (fld w 12 20 == 0) true [] (.own md)
  | _ => .trap .illegalInstr

/-- Tile ops 0x68 to 0x6F (03 R65, 12 R283 to R293). -/
def decodeTile (op w : Nat) : Decoded :=
  let md := fMd w; let ma := fMa w; let mb := fMb w; let d := fDst w
  match op with
  | 0x68 =>
    let e : Epoch := Fin.ofNat 2048 (fld w 21 11)
    checked true true [] (if bitAt w 20 then .mmaSat e md ma mb else .mma e md ma mb)
  | 0x69 =>
    checked (fld w 16 5 == 0) ((EFmt.ofNat? (fld w 26 6)).isSome && decide (fld w 21 5 ≤ 16)) []
      (.mcvt ((EFmt.ofNat? (fld w 26 6)).getD .f32) (Fin.ofNat 32 (fld w 21 5)) md ma)
  | 0x6A =>
    let hi := fld w 24 8 == 0; let mb0 := fld w 16 4 == 0
    match fld w 20 4 with
    | 0 => checked (hi && mb0) true [] (.mrmax md ma)
    | 1 => checked (hi && mb0) true [] (.mrsum md ma)
    | 2 => checked (hi && mb0) true [] (.mexp2 md ma)
    | 3 => checked hi true [] (.mrscale md ma mb)
    | 4 => checked (hi && fld w 12 4 == 0) true [] (.mmask md mb)
    | _ => .trap .illegalInstr
  | 0x6B =>
    let z := fB w == 0 && fld w 19 4 == 0
    if fX w then checked (z && !fK w) (fD w % 2 == 0) [] (.mhdrSet (fReg w) (fM w))
    else checked z (fD w % 2 == 0) [] (.mhdrGet d (fM w))
  | 0x6C =>
    let z := fld w 19 4 == 0
    if fX w then checked (z && !fK w) true [fB w] (.mput (fReg w) (fM w) (srcB w))
    else checked z true [fB w] (.mget d (fM w) (srcB w))
  | 0x6D => checked (fld w 21 6 == 0) true []
      (if bitAt w 20 then .mdrainAdd (fTok w) md ma mb else .mdrain (fTok w) md ma mb)
  | 0x6E =>
    let hi := fld w 24 8 == 0 && fld w 16 4 == 0
    match fld w 20 4 with
    | 0 => checked (hi && fld w 12 4 == 0) true [] (.mzero md)
    | 1 => checked (hi && fld w 8 4 == 0) true [] (.tshape ma)
    | 2 => checked (hi && fld w 8 4 == 0) true [] (.mplan ma)
    | _ => .trap .illegalInstr
  | _ => .trap .illegalInstr

/-- Control ops 0x70 to 0x77 (03 R65, 14 R314, 09 R218). -/
def decodeCtl (op w : Nat) : Decoded :=
  match op with
  | 0x70 => checked true true [] (.bra (fOff19 w) (.ofCode (fld w 11 2)) (fP w))
  | 0x71 => checked (fld w 8 5 == 0) true [] (.jmp (fOff19 w))
  | 0x72 => checked (!fX w && fld w 23 3 == 0 && fD w == 0 && !fK w) (namesK (fA w)) []
      (.jmpk (Fin.ofNat 8 (fld w 28 3)) (.ofCode (fld w 26 2)) (Fin.ofNat 32 (fld w 15 5)))
  | 0x73 => checked (fld w 14 2 == 0) true [] (.meet (fImm16 w) (fReg w))
  | 0x74 => checked (!fX w && fB w == 0 && !fK w && fD w == 0) true [fA w] (.meetR (srcA w))
  | 0x75 => checked (fld w 8 24 == 0) true [] .exit
  | 0x76 => checked (!fK w && fld w 10 4 == 0) (fld w 8 2 != 3) [fA w]
      (.loop (Fin.ofNat 3 (fld w 8 2)) (srcA w) (fImm9 w))
  | 0x77 => checked (fld w 8 2 == 0) (fld w 10 3 != 0) [] (.call (fOff19 w) (Fin.ofNat 8 (fld w 10 3)))
  | _ => .trap .illegalInstr

/-- Synchronisation ops 0x78 to 0x7B (03 R65, 16 R355, R357, R359, R360). -/
def decodeSync (op w : Nat) : Decoded :=
  match op with
  | 0x78 =>
    let hi := fld w 24 8 == 0 && fld w 16 4 == 0; let ma0 := fld w 12 4 == 0
    match fld w 20 4 with
    | 0 => checked (hi && ma0) true [] (.barArr (fMd w))
    | 1 => checked (hi && ma0) true [] (.barWait (fMd w))
    | 2 => checked (hi && ma0) true [] (.barSync (fMd w))
    | 3 => checked hi true [] (.barExp (fMd w) (fMa w))
    | 4 => checked (hi && ma0 && fld w 10 2 == 0) true [] (.sbar (Fin.ofNat 4 (fld w 8 2)))
    | _ => .trap .illegalInstr
  | 0x79 =>
    let z := !fX w && fld w 23 3 == 0; let q : QReg := Fin.ofNat 8 (fld w 26 3)
    match fld w 29 2 with
    | 0 => checked (z && !fK w && fD w == 0) true [fA w] (.qput q (srcA w))
    | 1 => checked (z && fA w == 0) true [] (.qget (fDst w) q)
    | 2 => checked (z && fA w == 0) true [] (.qlen (fDst w) q)
    | _ => .trap .illegalInstr
  | 0x7A => checked (!fX w && !fK w && fD w == 0) true [fB w, fA w] (.nput (srcA w) (srcB w))
  | 0x7B => checked (!fK w && fD w == 0) true [fA w] (.sleep (srcA w) (fImm9 w))
  | _ => .trap .illegalInstr

/-- Frame and pool functions, op 0x7C (03 R67). -/
def decodePool (w : Nat) : Decoded :=
  let a := srcA w; let kd0 := !fK w && fD w == 0
  match fld w 23 9 with
  | 0x000 => checked kd0 true [fA w] (.grow a)
  | 0x001 => checked kd0 true [fA w] (.shrink a)
  | 0x002 => checked kd0 true [fA w] (.claim a)
  | 0x003 => checked kd0 true [fA w] (.release a)
  | 0x004 => checked (fA w == 0) true [] (.pinfo (fDst w))
  | 0x005 => checked (!fK w && fld w 12 2 == 0) true [fA w] (.talloc (fMd w) a)
  | 0x006 => checked (!fK w && fld w 12 2 == 0 && fA w == 0) true [] (.tfree (fMd w))
  | 0x010 => checked (!fK w && fld w 11 3 == 0) (namesK (fA w) && fld w 8 3 != 0) []
      (.callk (Fin.ofNat 32 (fld w 15 5)) (Fin.ofNat 8 (fld w 8 3)))
  | 0x011 => checked (kd0 && fA w == 0) true [] .ret
  | 0x012 => checked (kd0 && fA w == 0) true [] .ocflush
  | 0x013 => checked kd0 (fld w 21 2 == 0 || fld w 21 2 == 2) []
      (.ockeep (Fin.ofNat 64 (fld w 15 6)) (fld w 21 2 == 0))
  | _ => .trap .illegalInstr

/-- Experimental functions, op 0x7E (03 R68). -/
def decodeExp (st : Config.Stepping) (w : Nat) : Decoded :=
  match fld w 23 9 with
  | 0x001 => checked true true [fA w] (.xbrev8 (fDst w) (srcA w))
  | 0x002 =>
    match st with
    | .b0 => .trap .lifetime
    | .b1 => checked true true [fA w] (.xpopc8 (fDst w) (srcA w))
  | _ => .trap .illegalInstr

/-- The unary float functions 0x040 to 0x053 and 0x088 to 0x097 of SYS, by half the function number. -/
def unaryFloat (n : Nat) (f : FW) (d : Dst) (a : Src) : Option Instr :=
  match n with
  | 0x20 => some (.fabs f d a)
  | 0x21 => some (.fneg f d a)
  | 0x22 => some (.fsqrt f d a)
  | 0x23 => some (.frcp f d a)
  | 0x24 => some (.frsq f d a)
  | 0x25 => some (.fexp2 f d a)
  | 0x26 => some (.flog2 f d a)
  | 0x27 => some (.fsin f d a)
  | 0x28 => some (.fcos f d a)
  | 0x29 => some (.ftanh f d a)
  | 0x44 => some (.fclass f d a)
  | 0x48 => some (.ivlo f d a)
  | 0x49 => some (.ivhi f d a)
  | 0x4A => some (.ivmid f d a)
  | 0x4B => some (.ivwid f d a)
  | _ => none

/-- The unary integer functions 0x010 to 0x01D of SYS, by half the function number. -/
def unaryInt (n : Nat) (wd : Width) (d : Dst) (a : Src) : Option Instr :=
  match n with
  | 0x08 => some (.abs wd d a)
  | 0x09 => some (.neg wd d a)
  | 0x0A => some (.not wd d a)
  | 0x0B => some (.popc wd d a)
  | 0x0C => some (.clz wd d a)
  | 0x0D => some (.ctz wd d a)
  | 0x0E => some (.brev wd d a)
  | _ => none

/-- The SYS functions below 0x010 and the system, k-register and memory functions (03 R66). -/
def sysSpecial (w : Nat) : Option Decoded :=
  let a := srcA w; let d := fDst w; let kd0 := !fK w && fD w == 0
  match fld w 23 9 with
  | 0x000 => some (checked (kd0 && fA w == 0) true [] .nop)
  | 0x001 => some (checked (kd0 && fA w == 0) true [] .brk)
  | 0x002 => some (checked kd0 true [fA w] (.trap a))
  | 0x003 => some (checked (kd0 && fA w == 0) true [] .tret)
  | 0x004 => some (checked (fld w 21 2 == 0) (sysRegListed (fld w 15 6)) [] (.sget d (Fin.ofNat 64 (fld w 15 6))))
  | 0x005 => some (checked (!fK w) (sysRegListed (fD w)) [fA w] (.sput (fReg w) a))
  | 0x01E => some (checked true true [fA w] (.mov d a))
  | 0x026 => some (checked (!fK w && !bitAt w 13) true [fA w] (.movk (fKd w) a))
  | 0x027 => some (checked (!fK w && !bitAt w 13) (namesK (fA w)) [] (.kmov (fKd w) (Fin.ofNat 32 (fld w 15 5))))
  | 0x06C => some (checked true true [fA w] (.fcvtF32F16 d a))
  | 0x06D => some (checked true true [fA w] (.fcvtF32Bf16 d a))
  | 0x06E => some (checked true true [fA w] (.fcvtF64F32 d a))
  | 0x0A0 => some (checked true true [fA w] (.ldIv .f32 d a))
  | 0x0A1 => some (checked true (fD w % 2 == 0) [fA w] (.ldIv .f64 d a))
  | 0x0A2 => some (checked (!fK w) true [fA w] (.stIv .f32 (fReg w) a))
  | 0x0A3 => some (checked (!fK w) (fD w % 2 == 0) [fA w] (.stIv .f64 (fReg w) a))
  | 0x0A4 => some (checked (!fK w && !bitAt w 13) true [fA w] (.ldk (fKd w) a))
  | 0x0A5 => some (checked kd0 true [fA w] (.scopeDrop a))
  | 0x0A6 => some (checked (kd0 && fA w == 0) true [] .fenceRep)
  | 0x0A7 => some (checked kd0 true [fA w] (.pf a))
  | 0x0A8 => some (checked (!fK w && fld w 12 2 == 0) true []
      (.wait (BitVec.ofNat 8 (fA w)) (BitVec.ofNat 4 (fld w 8 4))))
  | _ => none

/-- The SYS functions with a run of numbers: ext, fcvt, icvt, fround, and the unary pairs (03 R66). -/
def sysRun (w : Nat) : Option Instr :=
  let a := srcA w; let d := fDst w; let F := fld w 23 9
  if 0x010 ≤ F ∧ F ≤ 0x01D then unaryInt (F / 2) (.ofBit (F % 2 == 1)) d a
  else if 0x020 ≤ F ∧ F ≤ 0x025 then some (.ext (.ofCode (F - 0x020)) d a)
  else if 0x060 ≤ F ∧ F ≤ 0x063 then some (.fcvtF16F32 (.ofCode (F % 4)) d a)
  else if 0x064 ≤ F ∧ F ≤ 0x067 then some (.fcvtBf16F32 (.ofCode (F % 4)) d a)
  else if 0x068 ≤ F ∧ F ≤ 0x06B then some (.fcvtF32F64 (.ofCode (F % 4)) d a)
  else if 0x070 ≤ F ∧ F ≤ 0x077 then
    some (.icvtToFloat (.ofBit (bitAt F 2)) (.ofBit (bitAt F 1)) (.ofBit (!bitAt F 0)) d a)
  else if 0x078 ≤ F ∧ F ≤ 0x07F then
    some (.icvtToInt (.ofBit (bitAt F 2)) (.ofBit (bitAt F 1)) (.ofBit (!bitAt F 0)) d a)
  else if 0x080 ≤ F ∧ F ≤ 0x087 then some (.fround (.ofBit (bitAt F 2)) (.ofCode (F % 4)) d a)
  else if F < 0x100 then unaryFloat (F / 2) (.ofBit (F % 2 == 1)) d a
  else none

/-- SYS, op 0x7F (03 R66). -/
def decodeSys (w : Nat) : Decoded :=
  match sysSpecial w with
  | some r => r
  | none =>
    match sysRun w with
    | some i => checked true true [fA w] i
    | none => .trap .illegalInstr

/-- A 32-bit word (03 R63, R65). -/
def decode32 (st : Config.Stepping) (w : Nat) : Decoded :=
  let op := fld w 1 7
  if op < 0x20 then decodeInt op w
  else if op < 0x38 then decodeFloat op w
  else if op < 0x40 then decodePred op w
  else if op < 0x50 then decodeLane op w
  else if op < 0x60 then decodeMem op w
  else if op < 0x68 then decodeCopy op w
  else if op < 0x70 then decodeTile op w
  else if op < 0x78 then decodeCtl op w
  else if op < 0x7C then decodeSync op w
  else if op = 0x7C then decodePool w
  else if op = 0x7E then decodeExp st w
  else if op = 0x7F then decodeSys w
  else .trap .illegalInstr

/-- A 16-bit halfword (03 R60, R61). A mov whose d equals its b is nop.h. -/
def decode16 (h : Nat) : Decoded :=
  let d : Reg := Fin.ofNat 64 (fld h 5 6); let b : Reg5 := Fin.ofNat 32 (fld h 11 5)
  if h = 0 then .trap .illegalInstr
  else match fld h 1 4 with
  | 0 => .ok (.add16 d b)
  | 1 => .ok (.sub16 d b)
  | 2 => .ok (.mul2416 d b)
  | 3 => .ok (.and16 d b)
  | 4 => .ok (.or16 d b)
  | 5 => .ok (.xor16 d b)
  | 6 => .ok (.shl16 d b)
  | 7 => .ok (.shr16 d b)
  | 8 => .ok (.sar16 d b)
  | 9 => .ok (.min16 d b)
  | 10 => .ok (.max16 d b)
  | 11 => .ok (if d.val = b.val then .nopH b else .mov16 d b)
  | 12 => .ok (.fadd16 d b)
  | 13 => .ok (.fsub16 d b)
  | 14 => .ok (.fmul16 d b)
  | _ => .ok (.fmax16 d b)

/-- The length of an instruction in bytes, from its first halfword (03 R51). -/
def instrLen (h : Nat) : Nat := if h % 2 = 1 then 4 else 2

/-- Decodes the instruction at the head of a run of bytes and gives its length; none where the bytes end within it. -/
def decodeBytes (st : Config.Stepping) : List Byte → Option (Decoded × Nat)
  | b0 :: b1 :: rest =>
    let h := leNat [b0, b1]
    if h % 2 = 1 then
      match rest with
      | b2 :: b3 :: _ => some (decode32 st (leNat [b0, b1, b2, b3]), 4)
      | _ => none
    else some (decode16 h, 2)
  | _ => none

/-- The instruction the decoder reads from bits `w`, laid out as the opcode table numbers them; the bits above `nbits`
are zero. The experimental functions are those of stepping B1 (log entry 4). -/
def decodeTableWord (nbits w : Nat) : Option Instr :=
  match decodeBytes .b1 (leBytes 4 (w % 2 ^ nbits)) with
  | some (.ok i, _) => some i
  | _ => none

/-! ## The encoder -/

/-- Format RR (03 R53). -/
def eRR (op x b a k d : Nat) : Nat := x * 2 ^ 31 + b * 2 ^ 23 + a * 2 ^ 15 + k * 2 ^ 14 + d * 2 ^ 8 + op * 2 + 1
/-- Formats RI and RW differ from RR only in their upper fields. -/
def eRI (op i a k d : Nat) : Nat := i * 2 ^ 23 + a * 2 ^ 15 + k * 2 ^ 14 + d * 2 ^ 8 + op * 2 + 1
def eRW (op i h k d : Nat) : Nat := i * 2 ^ 16 + h * 2 ^ 15 + k * 2 ^ 14 + d * 2 ^ 8 + op * 2 + 1
def eRRC (op x b a l p : Nat) : Nat := x * 2 ^ 31 + b * 2 ^ 23 + a * 2 ^ 15 + l * 2 ^ 11 + p * 2 ^ 8 + op * 2 + 1
def eMX (op m b a d : Nat) : Nat := m * 2 ^ 20 + b * 2 ^ 16 + a * 2 ^ 12 + d * 2 ^ 8 + op * 2 + 1
def eSYS (F a k d : Nat) : Nat := eRI 0x7F F a k d
/-- A copy: the token register in mode[31:27] (07 R170). -/
def eCP (op t m b a d : Nat) : Nat := eMX op (t * 2 ^ 7 + m) b a d
def e16 (op4 d b : Nat) : Nat := b * 2 ^ 11 + d * 2 ^ 5 + op4 * 2

def Dst.kb (d : Dst) : Nat := Bool.bit d.k
/-- RR with its operands. -/
def eBin (op x : Nat) (d : Dst) (a b : Src) : Nat := eRR op x b.code a.code d.kb d.reg.val
/-- A unary SYS function. -/
def eUn (F : Nat) (d : Dst) (a : Src) : Nat := eSYS F a.code d.kb d.reg.val
/-- RI with its operands. -/
def eImm (op i : Nat) (d : Dst) (a : Src) : Nat := eRI op i a.code d.kb d.reg.val
/-- The imm9 of an immediate shift: kind, width, count (03 R65). -/
def eSh (kind : Nat) (w : Width) (c : Cnt6) : Nat := kind * 2 ^ 7 + w.bit * 2 ^ 6 + c.val
/-- A float or integer selector of icvt. -/
def eCvt (f : FW) (w : Width) (g : Sgn) : Nat := f.bit * 4 + w.bit * 2 + (1 - g.bit)

/-- The encoding of an instruction: its width in bits and its word; none for a step without an encoding. -/
def encode : Instr → Option (Nat × Nat)
  | .add w d a b => some (32, eBin 0x01 w.bit d a b)
  | .sub w d a b => some (32, eBin 0x02 w.bit d a b)
  | .addc w d a b => some (32, eBin 0x03 w.bit d a b)
  | .subb w d a b => some (32, eBin 0x04 w.bit d a b)
  | .mul24 g d a b => some (32, eBin 0x05 g.bit d a b)
  | .mad24 g d a b => some (32, eBin 0x06 g.bit d a b)
  | .mul w d a b => some (32, eBin 0x07 w.bit d a b)
  | .mulh g d a b => some (32, eBin 0x08 g.bit d a b)
  | .div g d a b => some (32, eBin 0x09 g.bit d a b)
  | .rem g d a b => some (32, eBin 0x0A g.bit d a b)
  | .min g d a b => some (32, eBin 0x0B g.bit d a b)
  | .max g d a b => some (32, eBin 0x0C g.bit d a b)
  | .addmin g d a b => some (32, eBin 0x0D g.bit d a b)
  | .and w d a b => some (32, eBin 0x0E w.bit d a b)
  | .or w d a b => some (32, eBin 0x0F w.bit d a b)
  | .xor w d a b => some (32, eBin 0x10 w.bit d a b)
  | .andn w d a b => some (32, eBin 0x11 w.bit d a b)
  | .shl w d a b => some (32, eBin 0x12 w.bit d a b)
  | .shr w d a b => some (32, eBin 0x13 w.bit d a b)
  | .sar w d a b => some (32, eBin 0x14 w.bit d a b)
  | .rot w d a b => some (32, eBin 0x15 w.bit d a b)
  | .bfe g d a b => some (32, eBin 0x16 g.bit d a b)
  | .bfi d a b => some (32, eBin 0x17 0 d a b)
  | .perm d a b => some (32, eBin 0x18 0 d a b)
  | .lea w d a b => some (32, eBin 0x19 w.bit d a b)
  | .addImm d a i => some (32, eImm 0x1A i.toNat d a)
  | .andImm d a i => some (32, eImm 0x1B i.toNat d a)
  | .orImm d a i => some (32, eImm 0x1C i.toNat d a)
  | .shlImm w d a c => some (32, eImm 0x1D (eSh 0 w c) d a)
  | .shrImm w d a c => some (32, eImm 0x1D (eSh 1 w c) d a)
  | .sarImm w d a c => some (32, eImm 0x1D (eSh 2 w c) d a)
  | .rotImm w d a c => some (32, eImm 0x1D (eSh 3 w c) d a)
  | .movi g d i => some (32, eRW 0x1E i.toNat (1 - g.bit) d.kb d.reg.val)
  | .movw r i n => some (32, eRW 0x1F i.toNat (n.val % 2) (n.val / 2) r.val)
  | .fadd f d a b => some (32, eBin 0x20 f.bit d a b)
  | .fsub f d a b => some (32, eBin 0x21 f.bit d a b)
  | .fmul f d a b => some (32, eBin 0x22 f.bit d a b)
  | .ffma f d a b => some (32, eBin 0x23 f.bit d a b)
  | .fmin f d a b => some (32, eBin 0x24 f.bit d a b)
  | .fmax f d a b => some (32, eBin 0x25 f.bit d a b)
  | .fdiv f d a b => some (32, eBin 0x26 f.bit d a b)
  | .faddPacked p d a b => some (32, eBin 0x27 p.bit d a b)
  | .fmulPacked p d a b => some (32, eBin 0x28 p.bit d a b)
  | .ffmaPacked p d a b => some (32, eBin 0x29 p.bit d a b)
  | .ivmk f d a b => some (32, eBin 0x2A f.bit d a b)
  | .ivmkE f d a b => some (32, eBin 0x2B f.bit d a b)
  | .ivhull f d a b => some (32, eBin 0x2C f.bit d a b)
  | .ivhullE f d a b => some (32, eBin 0x2D f.bit d a b)
  | .ivisect f d a b => some (32, eBin 0x2E f.bit d a b)
  | .ivisectE f d a b => some (32, eBin 0x2F f.bit d a b)
  | .ibsp f d a b => some (32, eBin 0x30 f.bit d a b)
  | .cmpSigned w l p a b => some (32, eRRC 0x38 w.bit b.code a.code l.code p.val)
  | .cmpUnsigned w l p a b => some (32, eRRC 0x39 w.bit b.code a.code l.code p.val)
  | .fcmp f l p a b => some (32, eRRC 0x3A f.bit b.code a.code l.code p.val)
  | .ivin f p a b => some (32, eRRC 0x3B f.bit b.code a.code 0 p.val)
  | .cmov d a p se => some (32, eRR 0x3C 0 (p.val * 32 + se.code * 8) a.code d.kb d.reg.val)
  | .pand d a b => some (32, eMX 0x3D 0 b.val a.val d.val)
  | .por d a b => some (32, eMX 0x3D 1 b.val a.val d.val)
  | .pxor d a b => some (32, eMX 0x3D 2 b.val a.val d.val)
  | .pnot d a => some (32, eMX 0x3D 3 0 a.val d.val)
  | .pdec v d a => some (32, eMX 0x3D (v.code * 16 + 4) 0 a.val d.val)
  | .pset v d => some (32, eMX 0x3D (v.code * 16 + 5) 0 0 d.val)
  | .pget d => some (32, eRR 0x3E 0 0 0 d.kb d.reg.val)
  | .pput a => some (32, eRR 0x3E 1 0 a.code 0 0)
  | .vote m d p se b => some (32, eRR 0x3F 0 b.code (p.val * 32 + se.code * 8 + m.code) d.kb d.reg.val)
  | .shfl m d a b => some (32, eBin 0x40 m.bit d a b)
  | .lsh m d a b => some (32, eBin 0x41 m.bit d a b)
  | .bcastFirst k a b => some (32, eRR 0x42 0 b.code a.code 0 k.val)
  | .matchLane d a b => some (32, eBin 0x43 0 d a b)
  | .reduxAdd w d a b => some (32, eBin 0x44 w.bit d a b)
  | .reduxMin g d a b => some (32, eBin 0x45 g.bit d a b)
  | .reduxMax g d a b => some (32, eBin 0x46 g.bit d a b)
  | .reduxAnd w d a b => some (32, eBin 0x47 w.bit d a b)
  | .reduxOr w d a b => some (32, eBin 0x48 w.bit d a b)
  | .reduxXor w d a b => some (32, eBin 0x49 w.bit d a b)
  | .freduxAdd f d a b => some (32, eBin 0x4A f.bit d a b)
  | .freduxMin f d a b => some (32, eBin 0x4B f.bit d a b)
  | .freduxMax f d a b => some (32, eBin 0x4C f.bit d a b)
  | .scanAdd w d a b => some (32, eBin 0x4D w.bit d a b)
  | .scanMax g d a b => some (32, eBin 0x4E g.bit d a b)
  | .ldN8 d a i => some (32, eImm 0x50 i.toNat d a)
  | .ldS8 d a i => some (32, eImm 0x51 i.toNat d a)
  | .ldN16 d a i => some (32, eImm 0x52 i.toNat d a)
  | .ldS16 d a i => some (32, eImm 0x53 i.toNat d a)
  | .ldN32 d a i => some (32, eImm 0x54 i.toNat d a)
  | .ldS32 d a i => some (32, eImm 0x55 i.toNat d a)
  | .ldB64 d a i => some (32, eImm 0x56 i.toNat d a)
  | .ldB64x2 d a i => some (32, eImm 0x57 i.toNat d a)
  | .ldB64x4 d a i => some (32, eImm 0x58 i.toNat d a)
  | .stB8 d a i => some (32, eRI 0x59 i.toNat a.code 0 d.val)
  | .stB16 d a i => some (32, eRI 0x5A i.toNat a.code 0 d.val)
  | .stB32 d a i => some (32, eRI 0x5B i.toNat a.code 0 d.val)
  | .stB64 d a i => some (32, eRI 0x5C i.toNat a.code 0 d.val)
  | .stB64x2 d a i => some (32, eRI 0x5D i.toNat a.code 0 d.val)
  | .stB64x4 d a i => some (32, eRI 0x5E i.toNat a.code 0 d.val)
  | .atom w o sc d a => some (32, eRR 0x5F w.bit (o.code * 16 + sc.code * 4) a.code d.kb d.reg.val)
  | .cpIn t n r o => some (32, eCP 0x60 t.val 0 o.val r.val n.val)
  | .cpOut t n r o => some (32, eCP 0x61 t.val 0 o.val r.val n.val)
  | .cpOutAdd t n r o => some (32, eCP 0x61 t.val 1 o.val r.val n.val)
  | .cpMc t n r o m => some (32, eCP 0x62 t.val m.val o.val r.val n.val)
  | .cpPad t p r o => some (32, eCP 0x63 t.val 0 o.val r.val p.val)
  | .cpPadOut t p r o => some (32, eCP 0x63 t.val 1 o.val r.val p.val)
  | .cpFill t n v => some (32, eCP 0x64 t.val 0 0 v.val n.val)
  | .recFence => some (32, eMX 0x65 0 0 0 0)
  | .recPf r => some (32, eMX 0x66 0 0 r.val 0)
  | .own n => some (32, eMX 0x67 0 0 0 n.val)
  | .mma e d a b => some (32, eMX 0x68 (e.val * 2) b.val a.val d.val)
  | .mmaSat e d a b => some (32, eMX 0x68 (e.val * 2 + 1) b.val a.val d.val)
  | .mcvt f p d a => some (32, eMX 0x69 (f.code * 64 + p.val * 2) 0 a.val d.val)
  | .mrmax d a => some (32, eMX 0x6A 0 0 a.val d.val)
  | .mrsum d a => some (32, eMX 0x6A 1 0 a.val d.val)
  | .mexp2 d a => some (32, eMX 0x6A 2 0 a.val d.val)
  | .mrscale d a b => some (32, eMX 0x6A 3 b.val a.val d.val)
  | .mmask d k => some (32, eMX 0x6A 4 k.val 0 d.val)
  | .mhdrGet d m => some (32, eRR 0x6B 0 0 m.val d.kb d.reg.val)
  | .mhdrSet d m => some (32, eRR 0x6B 1 0 m.val 0 d.val)
  | .mget d m b => some (32, eRR 0x6C 0 b.code m.val d.kb d.reg.val)
  | .mput d m b => some (32, eRR 0x6C 1 b.code m.val 0 d.val)
  | .mdrain t n r o => some (32, eCP 0x6D t.val 0 o.val r.val n.val)
  | .mdrainAdd t n r o => some (32, eCP 0x6D t.val 1 o.val r.val n.val)
  | .mzero d => some (32, eMX 0x6E 0 0 0 d.val)
  | .tshape r => some (32, eMX 0x6E 1 0 r.val 0)
  | .mplan t => some (32, eMX 0x6E 2 0 t.val 0)
  | .bra o se p => some (32, o.toNat * 2 ^ 13 + se.code * 2 ^ 11 + p.val * 2 ^ 8 + 0xE1)
  | .jmp o => some (32, o.toNat * 2 ^ 13 + 0xE3)
  | .jmpk p se t => some (32, eRR 0x72 0 (p.val * 32 + se.code * 8) (192 + t.val) 0 0)
  | .meet i g => some (32, eRW 0x73 i.toNat 0 0 g.val)
  | .meetR a => some (32, eRR 0x74 0 0 a.code 0 0)
  | .exit => some (32, eRR 0x75 0 0 0 0 0)
  | .loop n a i => some (32, eRI 0x76 i.toNat a.code 0 n.val)
  | .call o n => some (32, o.toNat * 2 ^ 13 + n.val * 2 ^ 10 + 0xEF)
  | .barArr n => some (32, eMX 0x78 0 0 0 n.val)
  | .barWait n => some (32, eMX 0x78 1 0 0 n.val)
  | .barSync n => some (32, eMX 0x78 2 0 0 n.val)
  | .barExp n c => some (32, eMX 0x78 3 0 c.val n.val)
  | .sbar n => some (32, eMX 0x78 4 0 0 n.val)
  | .qput q a => some (32, eRR 0x79 0 (q.val * 8) a.code 0 0)
  | .qget d q => some (32, eRR 0x79 0 (64 + q.val * 8) 0 d.kb d.reg.val)
  | .qlen d q => some (32, eRR 0x79 0 (128 + q.val * 8) 0 d.kb d.reg.val)
  | .nput a b => some (32, eRR 0x7A 0 b.code a.code 0 0)
  | .sleep a i => some (32, eRI 0x7B i.toNat a.code 0 0)
  | .grow a => some (32, eRI 0x7C 0x000 a.code 0 0)
  | .shrink a => some (32, eRI 0x7C 0x001 a.code 0 0)
  | .claim a => some (32, eRI 0x7C 0x002 a.code 0 0)
  | .release a => some (32, eRI 0x7C 0x003 a.code 0 0)
  | .pinfo d => some (32, eRI 0x7C 0x004 0 d.kb d.reg.val)
  | .talloc m a => some (32, eRI 0x7C 0x005 a.code 0 m.val)
  | .tfree m => some (32, eRI 0x7C 0x006 0 0 m.val)
  | .callk t n => some (32, eRI 0x7C 0x010 (192 + t.val) 0 n.val)
  | .ret => some (32, eRI 0x7C 0x011 0 0 0)
  | .ocflush => some (32, eRI 0x7C 0x012 0 0 0)
  | .ockeep r pin => some (32, eRI 0x7C 0x013 ((if pin then 0 else 128) + r.val) 0 0)
  | .xbrev8 d a => some (32, eRI 0x7E 0x001 a.code d.kb d.reg.val)
  | .xpopc8 d a => some (32, eRI 0x7E 0x002 a.code d.kb d.reg.val)
  | .nop => some (32, eSYS 0x000 0 0 0)
  | .brk => some (32, eSYS 0x001 0 0 0)
  | .trap a => some (32, eSYS 0x002 a.code 0 0)
  | .tret => some (32, eSYS 0x003 0 0 0)
  | .sget d r => some (32, eSYS 0x004 r.val d.kb d.reg.val)
  | .sput r a => some (32, eSYS 0x005 a.code 0 r.val)
  | .abs w d a => some (32, eUn (0x010 + w.bit) d a)
  | .neg w d a => some (32, eUn (0x012 + w.bit) d a)
  | .not w d a => some (32, eUn (0x014 + w.bit) d a)
  | .popc w d a => some (32, eUn (0x016 + w.bit) d a)
  | .clz w d a => some (32, eUn (0x018 + w.bit) d a)
  | .ctz w d a => some (32, eUn (0x01A + w.bit) d a)
  | .brev w d a => some (32, eUn (0x01C + w.bit) d a)
  | .mov d a => some (32, eUn 0x01E d a)
  | .ext e d a => some (32, eUn (0x020 + e.code) d a)
  | .movk k a => some (32, eSYS 0x026 a.code 0 k.val)
  | .kmov k t => some (32, eSYS 0x027 (192 + t.val) 0 k.val)
  | .fabs f d a => some (32, eUn (0x040 + f.bit) d a)
  | .fneg f d a => some (32, eUn (0x042 + f.bit) d a)
  | .fsqrt f d a => some (32, eUn (0x044 + f.bit) d a)
  | .frcp f d a => some (32, eUn (0x046 + f.bit) d a)
  | .frsq f d a => some (32, eUn (0x048 + f.bit) d a)
  | .fexp2 f d a => some (32, eUn (0x04A + f.bit) d a)
  | .flog2 f d a => some (32, eUn (0x04C + f.bit) d a)
  | .fsin f d a => some (32, eUn (0x04E + f.bit) d a)
  | .fcos f d a => some (32, eUn (0x050 + f.bit) d a)
  | .ftanh f d a => some (32, eUn (0x052 + f.bit) d a)
  | .fcvtF16F32 r d a => some (32, eUn (0x060 + r.code) d a)
  | .fcvtBf16F32 r d a => some (32, eUn (0x064 + r.code) d a)
  | .fcvtF32F64 r d a => some (32, eUn (0x068 + r.code) d a)
  | .fcvtF32F16 d a => some (32, eUn 0x06C d a)
  | .fcvtF32Bf16 d a => some (32, eUn 0x06D d a)
  | .fcvtF64F32 d a => some (32, eUn 0x06E d a)
  | .icvtToFloat f w g d a => some (32, eUn (0x070 + eCvt f w g) d a)
  | .icvtToInt f w g d a => some (32, eUn (0x078 + eCvt f w g) d a)
  | .fround f r d a => some (32, eUn (0x080 + f.bit * 4 + r.code) d a)
  | .fclass f d a => some (32, eUn (0x088 + f.bit) d a)
  | .ivlo f d a => some (32, eUn (0x090 + f.bit) d a)
  | .ivhi f d a => some (32, eUn (0x092 + f.bit) d a)
  | .ivmid f d a => some (32, eUn (0x094 + f.bit) d a)
  | .ivwid f d a => some (32, eUn (0x096 + f.bit) d a)
  | .ldIv f d a => some (32, eUn (0x0A0 + f.bit) d a)
  | .stIv f d a => some (32, eSYS (0x0A2 + f.bit) a.code 0 d.val)
  | .ldk k a => some (32, eSYS 0x0A4 a.code 0 k.val)
  | .scopeDrop a => some (32, eSYS 0x0A5 a.code 0 0)
  | .fenceRep => some (32, eSYS 0x0A6 0 0 0)
  | .pf a => some (32, eSYS 0x0A7 a.code 0 0)
  | .wait c m => some (32, eSYS 0x0A8 c.toNat 0 m.toNat)
  | .add16 d b => some (16, e16 0 d.val b.val)
  | .sub16 d b => some (16, e16 1 d.val b.val)
  | .mul2416 d b => some (16, e16 2 d.val b.val)
  | .and16 d b => some (16, e16 3 d.val b.val)
  | .or16 d b => some (16, e16 4 d.val b.val)
  | .xor16 d b => some (16, e16 5 d.val b.val)
  | .shl16 d b => some (16, e16 6 d.val b.val)
  | .shr16 d b => some (16, e16 7 d.val b.val)
  | .sar16 d b => some (16, e16 8 d.val b.val)
  | .min16 d b => some (16, e16 9 d.val b.val)
  | .max16 d b => some (16, e16 10 d.val b.val)
  | .mov16 d b => some (16, e16 11 d.val b.val)
  | .nopH b => some (16, e16 11 b.val b.val)
  | .fadd16 d b => some (16, e16 12 d.val b.val)
  | .fsub16 d b => some (16, e16 13 d.val b.val)
  | .fmul16 d b => some (16, e16 14 d.val b.val)
  | .fmax16 d b => some (16, e16 15 d.val b.val)
  | _ => none

end Sys2Proof
end

