-- ==== Sys2Proof/Machine/State.lean ====
section
/-! DEFINITION. The state of the device: everything the spec gives the VZ-C160 as plain data, the reasons a step can stop,
and the state after power-on. Objects that come and go (gangs, crews, threads, copies, messages) stand in tables keyed
by a number; `Tab` is a list of pairs with ascending keys. Log entries 1 to 6 and 12 to 20 name the model's choices. -/

namespace Sys2Proof.Machine

/-- A table: pairs of a key and a value, keys ascending. -/
abbrev Tab (α : Type) := List (Nat × α)

/-! ## Values, threads -/

/-- A register value: 64 data bits and the kind bit (02 R18, R20). -/
structure Val where
  data : Word
  kind : Bool
  deriving DecidableEq, Repr

/-- An operand-cache entry of one home lane (09 R210, R214); `bad`: uncorrectable. -/
structure OcEntry where
  v : Val
  dirty : Bool
  bad : Bool
  deriving DecidableEq, Repr

/-- One thread's part of a perch that holds a value (09 R207); `bad`: poisoned by pool ECC (06 R132). -/
structure Perch where
  v : Val
  modified : Bool
  bad : Bool
  deriving DecidableEq, Repr

/-- A hardware loop level: lcN, LACT, LSN, LENN (09 R208, 14 R318). -/
structure LoopLevel where
  active : Bool
  count : U32
  start : U32
  len : Imm9
  deriving DecidableEq, Repr

/-- A slot of xpend with its held xval (17 R369, R373). -/
structure Pend where
  valid : Bool
  lost : Bool
  cause : Byte
  xval : Word
  deriving DecidableEq, Repr

/-- The trap save: metadata image bits [575:64] without FPMODE, TSTAT and WB (17 R365). -/
structure TrapSave where
  mt : Word
  l0 : Val
  l1 : Val
  /-- A saved latch that held an uncorrectable error (09 R214). -/
  l0bad : Bool
  l1bad : Bool
  preds : Vector Pred 7
  loops : Vector LoopLevel 3
  deriving DecidableEq, Repr

/-- The kind of an access as the walker and the fault buffer name it (04 R95, R100). -/
inductive AccKind where | load | store | atomic | fetch
  deriving DecidableEq, Repr

/-- Where an access goes once translated (08 R181, R182, 04 R87). -/
inductive Place where
  /-- Device memory: a physical address, and the address its grain is made for (they differ in the die 1 copy of a
  replicated page, 04 R89). -/
  | dev (pa : Nat) (gpa : Nat)
  /-- The peer window. -/
  | peer (pa : Nat)
  /-- The pad of gang `g` at an offset. -/
  | pad (g : Nat) (off : Nat)
  deriving DecidableEq, Repr

/-- A granule with its grain and POISON mark. -/
structure Gran where
  data : Word
  grain : Byte
  poison : Bool
  deriving DecidableEq, Repr

/-- How a load fills its destination (08 R185, R187). -/
inductive LoadForm where
  | zx | sx | pair | quad | iv32 | iv64
  deriving DecidableEq, Repr

/-- What the slice answered to a load request (05 R107), and when. `mixed`: granules of two requests (R106). -/
structure Reply where
  line : List Gran
  wts : Nat
  rts : Nat
  time : Nat
  mixed : Bool
  deriving DecidableEq, Repr

/-- An access issued and not yet bound (05 R106, 08 R199). -/
inductive Acc where
  /-- A load of `size` bytes into window slots from `slot`; `toK`: ldk into a k register, which stands with the crew's lowest
  live member. `held`: the thread, or for ldk the crew, waits at the instruction until the load binds, and its reads of these
  sources take effect then. -/
  | load (va : Word) (place : Place) (size : Nat) (key : Nat) (form : LoadForm) (slot : Nat) (kbit : Bool)
      (toK : Option Nat) (held : Option (List Src)) (reply : Option Reply)
  /-- An ldk of the crew, which stands with its lowest live member `lead` as a load (08 R188). -/
  | joined (lead : Nat)
  /-- A store whose bytes lie in coalescer entry or message `entry`. -/
  | store (entry : Nat) (va : Word) (size : Nat)
  /-- An atom of scope .dev or .sys, or to the peer window; the thread waits at it. -/
  | atom (va : Word) (place : Place) (w : Width) (op : AtomOp) (sc : Scope) (key : Nat) (slot : Nat) (kbit : Bool)
      (o : Word) (c : Word) (srcs : List Src)
  deriving DecidableEq, Repr

/-- Why a thread does not issue (14 R305, R310). -/
inductive Wait where
  | none
  /-- Held at its meeting point (R309). -/
  | meet
  /-- Held at a lane instruction (10 R239), with its member mask. -/
  | lane (mask : Nat)
  /-- Held at a crew-collective instruction (R311). -/
  | coll
  /-- Stalled at issue until its accesses bind (16 R349, 14 R317, 08 R195). -/
  | drain
  /-- Stalled at issue until replicated stores are acknowledged (05 R123). -/
  | reps
  /-- Stalled at issue on a class counter's limit (08 R199). -/
  | ports
  /-- Stalled at issue on a register that an unbound load will write (08 R186). -/
  | regs
  /-- Stalled at issue on a walk in progress (04 R99). -/
  | walk (w : Nat)
  /-- Blocked on a fault-buffer entry (04 R101). -/
  | fault (die entry : Nat)
  /-- Stalled at issue on tile handles (07 R164, 12 R274). -/
  | tile (hs : List Nat)
  /-- Stalled at issue on the completion of tile instructions of its gang (12 R276). -/
  | fold
  /-- Blocked in wait (08 R200). -/
  | classes (m : Mask4) (n : Nat)
  /-- Blocked at bar.wait, or (`sync`) in the wait of bar.sync (16 R352). -/
  | bar (n : Nat) (sync : Bool)
  /-- Blocked at a second arrival (16 R352). -/
  | barArr (n : Nat)
  /-- Blocked at a span barrier (16 R354). -/
  | span (n : Nat)
  /-- Waiting in qput, nput or ibsp for its accesses to bind (16 R349), in its place among the threads that push to queue `k`, or
  that send to node `k - 8`. -/
  | turn (k : Nat)
  /-- Blocked on a queue-register pop or push (16 R357). -/
  | pop (q : Nat)
  | push (q : Nat)
  /-- Blocked in claim (06 R150), grow (R149) or talloc (R152). -/
  | claim
  | grow
  | talloc
  /-- Blocked on a full copy queue (07 R162). -/
  | copyQueue
  /-- Blocked on a full bin (16 R359). -/
  | bin (node : Nat)
  /-- Blocked in sleep until a core cycle; its operand takes effect when it completes (16 R360, R357). -/
  | sleep (till : Nat) (a : Src)
  /-- Stopped at a safe point for migration (18 R399). -/
  | safePoint
  deriving DecidableEq, Repr

/-- A thread (14 R304, 17 R371, 09, 05 R105). -/
structure Thread where
  pc : Word
  mt : Word
  preds : Vector Pred 7
  loops : Vector LoopLevel 3
  l0 : Val
  l1 : Val
  /-- An uncorrectable error in a latch (09 R214). -/
  l0bad : Bool
  l1bad : Bool
  wb : Nat
  /-- Operand-cache entries by slot. -/
  oc : Tab OcEntry
  /-- When the thread last used each slot of the operand cache (09 R212). MODEL. -/
  uses : Tab Nat
  /-- Perch values by slot. -/
  perches : Tab Perch
  /-- Values each slot has held since the thread started, oldest first (09 R213). MODEL. -/
  hist : Tab (List Val)
  /-- Slots whose value is dead (09 R213). MODEL. -/
  dead : List Nat
  /-- Instructions that have read dead slots: what `Config.freeHeld` is applied to (03 R56, log entry 2). MODEL. -/
  deadReads : Nat
  fpmode : Byte
  tstat : Byte
  xpc : Word
  xcause : Word
  xval : Word
  xvec : Word
  xdepth : Bool
  step : Bool
  pend : Vector Pend 3
  save : TrapSave
  lt : Nat
  age : Nat
  live : Bool
  wait : Wait
  /-- A collective or lane instruction found due by its test, to be performed (14 R311, 10 R239). MODEL. -/
  due : Bool
  /-- Core cycles left of a sleep that a stop interrupted, with the PC of the sleep (16 R360): at depth 0, and in a handler. -/
  sleepLeft : Option (Word × Nat)
  sleepLeftX : Option (Word × Nat)
  /-- Accesses issued and not yet bound, in program order (05 R106). -/
  accs : List Acc
  /-- Replicated stores not yet acknowledged by the other copy, and the greatest ts2 of the others (05 R123). -/
  reps : List Nat
  repTs : Nat
  /-- Armed for migration: stops at the next safe point (18 R399). -/
  armed : Bool
  /-- Its metadata block is still to be read at a restore (09 R208, 17 R377): it does not issue. -/
  restoring : Bool
  deriving DecidableEq, Repr

/-! ## Crews, gangs, spans -/

/-- A crew: k registers, quota, perch map, tickets, issue state (03 R62, 06 R134, R144, 16 R351, R354, 15 R341, R344). -/
structure Crew where
  k : Vector Word 32
  /-- For a k register that holds a completion's status word: ts_c of that completion (05 R125). -/
  ktok : Tab Nat
  /-- The greatest ts_c of the crew's completed copies, for wait (05 R125, 08 R200). -/
  copyTs : Nat
  quota : Nat
  perchMap : List Nat
  tp : Vector (BitVec 16) 16
  ts : Vector (BitVec 16) 4
  slot : Nat
  passed : Nat
  /-- Pinned rows by slot index, oldest first (09 R222). -/
  pins : List Nat
  departed : Bool
  halted : Bool
  deriving DecidableEq, Repr

/-- A gang barrier (16 R351). -/
structure Bar where
  bt : Nat
  xset : Bool
  exp : Nat
  seen : U32
  ph : BitVec 16
  arr : U32
  deriving DecidableEq, Repr

/-- A span barrier (16 R354). -/
structure SpanBar where
  bt : Nat
  exp : Nat
  ph : BitVec 16
  arr : BitVec 256
  deriving DecidableEq, Repr

/-- An entry of a queue register (16 R356). -/
structure QEntry where
  data : Word
  time : Nat
  deriving DecidableEq, Repr

/-- A bound handle (06 R152, 07 R164): region in the tile store, the copy that owns the tile, ts_c of the last copy. -/
structure Handle where
  off : Nat
  kib : Nat
  owner : Option Nat
  tsc : Option Nat
  deriving DecidableEq, Repr

/-- An entry record with its placement (03 R75, 18 R394). -/
structure Kernel where
  codeBase : Nat
  codeLen : Nat
  frame : Nat
  pot : Nat
  crews : Nat
  span : Nat
  barriers : Nat
  queues : Nat
  copies : Nat
  protected_ : Bool
  replayable : Bool
  node : Bool
  pad : Nat
  tiles : Nat
  nodeCount : Nat
  nodeTimer : Nat
  recVa : Nat
  inputsVa : Nat
  inputsN : Nat
  life : Nat
  step : Nat
  liveVa : Option Nat
  safeVa : Option Nat
  woMask : Word
  deriving DecidableEq, Repr

/-- Why a gang is being stopped (17 R376, R379, 06 R141, 18 R399). -/
inductive StopWhy where
  | preempt | bench | halt | drain
  deriving DecidableEq, Repr

/-- Where a gang stands on its way (15 R339, R341, R345, 17 R377, 06 R141). -/
inductive Phase where
  /-- On a gang list, or a span member without a core: not admitted. -/
  | listed
  /-- Its admission stands at the allocator. -/
  | admitting
  /-- Its allocator serves its admission: its slots, its set and its acres are held (15 R343). -/
  | reserved
  /-- Admitted, prologue copies under way (07 R179). -/
  | prologue
  | resident
  /-- Its resumption stands at the allocator; its slots are held. -/
  | resuming
  /-- Its acres are granted: admission, or resumption, completes with its span. -/
  | ready (resumes : Bool)
  /-- Stopping: its accesses bind, copies and tile instructions complete, then it is saved. -/
  | stopping (why : StopWhy)
  /-- Pre-empted: saved, some of its acres still owned, listed as a resumption. -/
  | preempted
  /-- Written out: nothing in the pool, its slots released, listed as a resumption. -/
  | out
  /-- Halted by the debugger or for migration (17 R379, 18 R399). -/
  | halted
  | ended
  deriving DecidableEq, Repr

/-- A gang (15 R334, 17 R380). -/
structure Gang where
  slot : Nat
  lid : Nat
  index : Nat
  /-- For a node gang: its node; records taken and their greatest time. -/
  node : Option Nat
  records : List (Word × Word)
  recTime : Nat
  /-- Records that a node gang takes from its bin when it is admitted. -/
  take : Nat
  span : Nat
  spanPos : Nat
  core : Nat
  set : Nat
  kernel : Kernel
  phase : Phase
  /-- Halted by the debugger while nothing of it runs: it neither starts nor resumes (17 R379). -/
  held : Bool
  prio : Nat
  /-- Order of resumption among pre-empted gangs; none: not a resumption. -/
  resume : Option Nat
  admitTime : Nat
  /-- The 1.25 GHz count at its admission (17 R380). -/
  admit125 : Nat
  residentSince : Nat
  listedAt : Nat
  /-- Physical addresses of the 64 KiB pages of the context area (02 R45, 15 R334). -/
  pages : List Nat
  /-- Physical base addresses of the backing stacks are found through the queue's address space. -/
  stackVa : Nat
  stackN : Nat
  stackS : Nat
  crewsMax : Nat
  aspace : Nat
  padClock : Nat
  handles : Tab Handle
  bars : Vector Bar 16
  queues : Vector (List QEntry) 8
  grows : Nat
  gcols : Nat
  fit : Bool
  plan : List (List Byte)
  /-- Perch numbers in the pot and in the slack (06 R134). -/
  pot : List Nat
  slack : List Nat
  /-- Slack perches that a grow of a crew has drawn, which waits for acres that cover the rest (06 R149). -/
  drawn : Tab (List Nat)
  /-- Acres owned: frame area, pad, tile store (06 R133). -/
  frameAcres : Nat
  padAcres : Nat
  tileAcres : Nat
  /-- Those of them whose contents are written out: frame acres by number, then those of the pad, then of the tile store (17 R377, 06
  R138). -/
  gone : List Nat
  /-- Blocked claims and queue waiters in the order in which they blocked (06 R145, 16 R356): crew, count and operand; queue and thread. -/
  claims : List (Nat × Nat × Src)
  /-- Tallocs that wait, in issue order: crew, handle, size in KiB, operand. The first stands at the allocator (06 R152, R155). -/
  tallocs : List (Nat × Nat × Nat × Src)
  pops : List (Nat × Nat)
  /-- Also the threads that wait to send to a node `n`, as queue 8 + n (16 R359). -/
  pushes : List (Nat × Nat)
  /-- Prologue entries still to stage (07 R179). -/
  prologueLeft : Nat
  prologueTs : Nat
  /-- Node gangs its launch's attempt created before it (17 R371). -/
  nodeSerial : Nat
  deriving DecidableEq, Repr

/-- A span (15 R343, 16 R354); a gang launched without .span is a span of one gang. -/
structure Span where
  slot : Nat
  index : Nat
  members : List Nat
  bars : Vector SpanBar 4
  cluster : Option Nat
  chosenAt : Nat
  reserved : List Nat
  aged : Bool
  deriving DecidableEq, Repr

/-! ## Launches and queues -/

/-- A node of a launch with its bin (15 R337, R338). -/
structure Node where
  kernel : Kernel
  binVa : Nat
  binCap : Nat
  head : Nat
  count : Nat
  since : Nat
  /-- The time of each record from the head on; none: taken out of turn by a gang that was admitted before an earlier firing's. -/
  times : List (Option Nat)
  deriving DecidableEq, Repr

/-- A launch record's fields (15 R332). -/
structure LaunchRec where
  tag : Word
  succ : List Nat
  nodesN : Nat
  stackWords : Nat
  gsets : Nat
  gangs : Nat
  nodesVa : Nat
  planVa : Nat
  bitmapVa : Nat
  compVa : Nat
  ctxVa : Nat
  stackVa : Nat
  argVa : Nat
  entryVa : Nat
  deriving DecidableEq, Repr

inductive LStatus where
  /-- Waits on its predecessor counter (15 R336). -/
  | parked
  | ready
  /-- Killed, its restore and replay or completion pending (17 R383). -/
  | killed
  /-- Ended, its completion pending. -/
  | finishing
  deriving DecidableEq, Repr

/-- A launch in its slot (15 R333 to R346). -/
structure Launch where
  queue : Nat
  lid : Nat
  recVa : Nat
  record : LaunchRec
  kernel : Kernel
  nodes : List Node
  args : List Word
  plan : List (List Byte)
  tsL : Nat
  acceptT : Nat
  order : Nat
  counter : Option Nat
  status : LStatus
  /-- Halted by the debugger as a whole: its gangs to come are held (17 R379). -/
  held : Bool
  cancelled : Bool
  replays : Nat
  /-- The next regular gang or span to dispatch, and the next gang index to admit (R340). -/
  nextIndex : Nat
  nextAdmit : Nat
  done : List Nat
  nodeGangs : Nat
  /-- Node gangs created and not yet dispatched. -/
  nodeQueue : List Nat
  sets : List Nat
  trigger : Option (Nat × Nat)
  /-- The gang and the copy of the first prologue copy in list order that failed (15 R346). -/
  firstFail : Option (Nat × Nat)
  fatal : Bool
  /-- The greatest final lt and ts_c so far (R345). -/
  ct : Nat
  /-- Leaf entries whose SNAP_SLOT this launch set (04 R96). -/
  snaps : List Nat
  undoUsed : Bool
  deriving DecidableEq, Repr

/-- A command block (15 R325). -/
structure Block where
  kind : Nat
  test : Bool
  top : Nat
  onfail : Nat
  link : Bool
  after : Bool
  resv : Nat
  next : Nat
  alt : Nat
  taddr : Nat
  tval : Word
  tmask : Word
  arg0 : Word
  arg1 : Word
  deriving DecidableEq, Repr

/-- A hardware launch queue (15 R324 to R329). -/
structure Queue where
  base : Nat
  err : Byte
  state : Nat
  dies : Nat
  slice : Nat
  size : Nat
  aspace : Nat
  prio : Nat
  enable : Bool
  wptr : U32
  rptr : U32
  /-- VA of the chain block in hand; none: the ring slot. -/
  chain : Option Nat
  /-- The block read and not yet finished. -/
  block : Option Block
  /-- 1.25 GHz count of the last failed test of the block in hand; its test has passed. -/
  tested : Nat
  passed : Bool
  /-- When its halt is cleared, the queue resumes after the failed block, not at the same position (R331). -/
  skip : Bool
  qlt : Nat
  deriving DecidableEq, Repr

/-- A predecessor counter (15 R336). -/
structure Counter where
  n : BitVec 16
  f : Bool
  deriving DecidableEq, Repr

/-! ## Memory system -/

/-- Data, grains and POISON marks of a store of granules in canonical form: addresses strictly rising, no byte equal to 0,
no grain equal to the grain of zero data at its granule (04 R86, 02 R44). Grains are keyed by granule number. -/
structure Store where
  bytes : List Host.Cell
  grains : List Host.Cell
  poison : List Nat
  deriving DecidableEq, Repr

/-- What the metadata block of a stored line says beyond grains: key slot, the load generation of its key, COMP
(04 R80, R83, R85). -/
structure LineTag where
  key : Nat
  gen : Nat
  comp : Bool
  deriving DecidableEq, Repr

inductive Holder where
  | none | core (n : Nat) | cluster (n : Nat)
  deriving DecidableEq, Repr

/-- A standing scope tag and its instance: gang, span, or 0 (05 R118). -/
structure ScopeTag where
  scope : Scope
  inst : Nat
  deriving DecidableEq, Repr

/-- A line in its L2 slice (05 R104). The data of a checked-out line stand here too, as its holder has them. -/
structure L2Line where
  gr : List Gran
  key : Nat
  wts : Nat
  rts : Nat
  tag : Option ScopeTag
  holder : Holder
  /-- A recall has been asked for (05 R109). -/
  recalled : Bool
  dirty : Bool
  comp : Bool
  deriving DecidableEq, Repr

/-- A line in a memory slice's write queue (13 R299). -/
structure WqLine where
  line : Nat
  gr : List Gran
  key : Nat
  comp : Bool
  deriving DecidableEq, Repr

/-- A memory slice: its refresh state (04 R79), and whether its scheduler has turned to writes (13 R299). -/
structure MSlice where
  bank : Nat
  acts : Tab Nat
  writing : Bool
  deriving DecidableEq, Repr

/-- What an HBM stack keeps beside its lines: the error counts of the core dies' on-die ECC, and the data lanes that lane
repair has remapped to spares (04 R77). -/
structure Stack where
  eccErrors : Nat
  remapped : List Nat
  deriving DecidableEq, Repr

/-- A store to a replicated page that no fence.rep of its writers has closed yet (05 R122): the storing die, the granule, the
granule stored, its threads or its copy. MODEL. -/
structure RepMark where
  die : Nat
  gran : Nat
  gr : Gran
  threads : List Nat
  copy : Option Nat
  deriving DecidableEq, Repr

/-- Earlier contents of a line, for instruction fetch (05 R126, R127); `till`: only launches accepted before this time fetch
them. MODEL. -/
structure OldLine where
  gr : List Gran
  till : Option Nat
  deriving DecidableEq, Repr

/-- A granule that has left for a peer (19 R404): the PA in the peer window, what left, and whether Porast logged it. -/
structure PeerGran where
  pa : Nat
  gr : Gran
  marked : Bool
  deriving DecidableEq, Repr

/-- A TLB entry (04 R97): the page's base VA and size in bits, its leaf. -/
structure TlbEntry where
  aspace : Nat
  base : Nat
  bits : Nat
  leaf : Word
  deriving DecidableEq, Repr

/-- A walk-cache entry: a table entry of levels 3 to 1 (04 R97). -/
structure WalkCacheEntry where
  pa : Nat
  entry : Word
  deriving DecidableEq, Repr

/-- Who waits on a walk or on a fault-buffer entry. -/
inductive Waiter where
  | thread (t : Nat) (va : Word) (kind : AccKind)
  | copy (c : Nat) (va : Word) (kind : AccKind)
  /-- The fill/spill engine, for a thread's backing stack (09 R223). -/
  | frame (t : Nat) (va : Word) (kind : AccKind)
  deriving DecidableEq, Repr

/-- A walk in progress (04 R99). -/
structure Walk where
  die : Nat
  core : Nat
  aspace : Nat
  vpn : Nat
  waiters : List Waiter
  /-- Waiters whose failed walk found the fault buffer full, with the row each met (04 R100). -/
  held : List (Waiter × Nat)
  deriving DecidableEq, Repr

/-- A fault-buffer entry (04 R100) with its waiters and the cause each met. -/
structure FaultEntry where
  firstCycle : Nat
  aspace : Nat
  queue : Nat
  launch : Nat
  cause : Nat
  kind : AccKind
  vpn : Nat
  waiters : List (Waiter × Nat)
  deriving DecidableEq, Repr

/-- A line entry of a coalescer, and the message it becomes (08 R190, R191). -/
structure StoreEntry where
  launch : Nat
  core : Nat
  slot : Nat
  place : Place
  key : Nat
  rep : Bool
  comp : Bool
  bytes : List (Nat × Byte)
  b : Nat
  /-- Threads whose stores lie in the entry, with the VA and the time of each store, in order of entry. -/
  feeders : List (Nat × Word × Nat)
  opened : Nat
  /-- For the record of an nput or ibsp: its node (16 R359). -/
  node : Option Nat
  deriving DecidableEq, Repr

inductive MsgPhase where
  | sent
  /-- Performed at a timestamp; the failed granules of a lane merge with POISON or GRAIN_MISMATCH. -/
  | performed (ts : Nat) (bad : List (Nat × Byte))
  /-- A peer request awaiting its response. -/
  | peer
  | refused
  deriving DecidableEq, Repr

/-- A sent coalescer entry (08 R191). -/
structure Msg where
  e : StoreEntry
  phase : MsgPhase
  /-- Its place in the order of sending (13 R297). -/
  sent : Nat
  deriving DecidableEq, Repr

/-- An atom of scope .dev or .sys that was issued before its thread was killed: it still binds (17 R383, R384). -/
structure LooseAtom where
  launch : Nat
  core : Nat
  pa : Nat
  gpa : Nat
  w : Width
  op : AtomOp
  sc : Scope
  inst : Nat
  key : Nat
  o : Word
  c : Word
  b : Nat
  deriving DecidableEq, Repr

/-- A replica update on the Chain (05 R121): from a message or a copy. -/
structure Replica where
  die : Nat
  line : Nat
  gr : List (Nat × Gran)
  key : Nat
  comp : Bool
  ts1 : Nat
  ts2 : Option Nat
  threads : List Nat
  copy : Option Nat
  deriving DecidableEq, Repr

/-- A peer request of a thread or a message (19 R404). -/
inductive PeerReq where
  | load (t : Nat) (pa : Nat)
  | atom (t : Nat) (pa : Nat)
  | store (m : Nat)
  deriving DecidableEq, Repr

/-- An L1 copy (05 R107, R440). -/
structure L1Copy where
  line : Nat
  gr : List Gran
  wts : Nat
  rts : Nat
  arrived : Nat
  key : Nat
  deriving DecidableEq, Repr

/-- An instruction-cache line: address space, line of the VA, bytes, poisoned on refetch (05 R126, 17 R370). -/
structure ICacheLine where
  aspace : Nat
  line : Nat
  bytes : List Byte
  poison : Bool
  /-- A peer answered its fetch with an error (19 R404). -/
  refused : Bool
  deriving DecidableEq, Repr

/-- A record-cache line (07 R160). -/
structure RecLine where
  aspace : Nat
  va : Nat
  bytes : List Byte
  deriving DecidableEq, Repr

/-! ## Copy engine and tile units -/

inductive CopyOp where
  | cpIn | cpOut | cpOutAdd | cpMc | cpPad | cpPadOut | cpFill | mdrain | mdrainAdd
  deriving DecidableEq, Repr

inductive CopyPhase where
  /-- In a slot, not accepted. -/
  | queued
  /-- Accepted; transfer held up by a walk, or by a walk fault. -/
  | walking (w : Nat)
  | faulted (die entry row : Nat)
  | accepted
  /-- Transfer done; completion event pending with this status word. -/
  | landed (status : Word)
  deriving DecidableEq, Repr

/-- How far an accepted copy has come (07 R161, R169, R172): the image of its record, the header of an arriving tile image,
whether its receivers have been tested, the tiles that it writes, with the granules that they held before, the mask of refused
receivers, the gang of its pad range, the steps performed in box order, and the greatest timestamp. -/
structure Xfer where
  record : Option (List Byte)
  hdr : Option (BitVec 128)
  started : Bool
  dests : List (Nat × Gang × Handle)
  olds : List (List Gran)
  refused : Nat
  pad : Option (Nat × Gang)
  done : Nat
  ts : Nat
  deriving DecidableEq, Repr

/-- A copy that has performed nothing. -/
def Xfer.init : Xfer := ⟨none, none, false, [], [], 0, none, 0, 0⟩

/-- A copy from issue to completion (07 R162 to R177). -/
structure Copy where
  gang : Nat
  crew : Nat
  core : Nat
  op : CopyOp
  tok : Nat
  handle : Nat
  recVa : Word
  origin : Word
  aux : Word
  tsi : Nat
  tsc : Nat
  phase : CopyPhase
  xfer : Xfer
  /-- Its gang or launch was killed: the token write is discarded (07 R180). -/
  orphan : Bool
  prologue : Bool
  /-- The gang as it was when it was killed: what a copy still in the engine needs of it (17 R384). -/
  env : Option Gang
  deriving DecidableEq, Repr

/-- What an image of R380 whose layout is not stated stands for: a crew with the threads of it that are live, an unaccepted copy, or
the end of the copies (17 R380). -/
inductive ImageOf where
  | crew (c : Crew) (live : List Nat)
  | copy (c : Copy)
  | noCopy
  deriving DecidableEq, Repr

/-- The operations of the tile units that complete later than they issue (12 R274). -/
inductive TileOpKind where
  | mma (sat : Bool) (epoch : Nat)
  | mcvt (f : EFmt) (planes : Nat)
  | mrmax | mrsum | mexp2 | mrscale
  | mmask (k : Word)
  deriving DecidableEq, Repr

/-- A tile instruction in progress: the headers read at issue (02 R42). -/
structure TileOp where
  gang : Nat
  crew : Nat
  kind : TileOpKind
  d : Nat
  a : Nat
  b : Nat
  hd : BitVec 128
  ha : BitVec 128
  hb : BitVec 128
  deriving DecidableEq, Repr

/-! ## Cores -/

/-- A request at the allocator (06 R139). -/
inductive ReqKind where
  | resume (g : Nat)
  | grow (g crew n : Nat) (a : Src)
  | talloc (g crew handle kib : Nat) (a : Src)
  | admission (g : Nat)
  deriving DecidableEq, Repr

inductive ReqPhase where | waiting | drain | fill
  deriving DecidableEq, Repr

structure PoolReq where
  kind : ReqKind
  acres : Nat
  /-- The acres among them that go to a frame area: they are owned once drained (06 R138). -/
  frame : Nat
  phase : ReqPhase
  deriving DecidableEq, Repr

/-- A core: caches, coalescers, copy queue order, pool acres, gang list. -/
structure Core where
  icache : List ICacheLine
  l1 : List L1Copy
  recs : List RecLine
  tlb : List TlbEntry
  utlb : Tab (List TlbEntry)
  /-- Open coalescer entries by issue slot, oldest first, with their numbers. -/
  coal : Tab (List (Nat × StoreEntry))
  /-- Pool acres not owned and not chosen (06 R138); batches of acres being written out, by number. -/
  loan : Nat
  outs : Tab Nat
  reqs : List PoolReq
  lastReturn : Nat
  glist : List Nat
  drained : Bool
  drainedAt : Nat
  deriving DecidableEq, Repr

/-! ## Management -/

/-- A key slot (04 R83, 19 R407). -/
structure KeySlot where
  loaded : Bool
  gen : Nat
  lo : KeyHalf
  hi : KeyHalf
  /-- Half 0 of a key that KEY_LOAD has begun to load. -/
  pend : Option KeyHalf
  /-- The keys that the slot has held, oldest first: `gen` counts among them, so that lines written under a key that is
  loaded again decrypt again. MODEL. -/
  past : List (KeyHalf × KeyHalf)
  deriving DecidableEq, Repr

/-- A lane group of the Chain (04 R90). -/
structure LaneGroup where
  fails : Nat
  spares : Nat
  deriving DecidableEq, Repr

/-- Units that write the event log (19 R408). -/
inductive LogEvent where
  | scruple (u : HwUnit) | testPass (u : HwUnit) | testFail (u : HwUnit)
  | contained (lid : Nat) | chainRepair (dir group : Nat) | chainHalf | rebase
  | boot (step attempt : Nat) (ok : Bool) | firmware (unit : Nat) | enrolled | refusedWrite (line : Nat)
  | egressPoison (line : Nat) | power
  deriving DecidableEq, Repr

structure LogEntry where
  time : Nat
  ev : LogEvent
  deriving DecidableEq, Repr

/-- A firmware slot (19 R409). -/
structure FwSlot where
  version : Nat
  image : List Byte
  verified : Bool
  deriving DecidableEq, Repr

/-- A unit's firmware: slots A and B, the active one, and how often each has failed to boot since it last booted. -/
structure Firmware where
  a : FwSlot
  b : FwSlot
  activeB : Bool
  failsA : Nat
  failsB : Nat
  deriving DecidableEq, Repr

/-- A boot-journal entry (19 R410). -/
structure JournalEntry where
  step : Nat
  attempt : Nat
  ok : Bool
  deriving DecidableEq, Repr

/-- A migration in progress (18 R399): its gang, its deadline, the PCs of the safe points, and whether every thread has stopped in time,
so that its span halts. -/
structure Migration where
  gang : Nat
  deadline : Nat
  points : List Nat
  halting : Bool
  deriving DecidableEq, Repr

/-- Porast (19 R407 to R410, 17 R390). -/
structure Porast where
  log : List LogEntry
  journal : List JournalEntry
  fw : Vector Firmware 3
  owners : List KeyHalf
  cmd : List Byte
  resp : List Byte
  busy : Bool
  /-- The command block as it stood when the doorbell began the command that runs (19 R407). -/
  run : List Byte
  /-- Power-ons before this one: each has its own device key (04 R83). -/
  boots : Nat
  coreScr : Tab Nat
  sliceScr : Tab Nat
  stackScr : Tab Nat
  uncached : List Nat
  swept : List Nat
  /-- Units whose targeted test has failed, and the count at the last halving (17 R390). -/
  failed : List HwUnit
  halvedAt : Nat
  /-- Consecutive failures of each required boot step, across boots; whether step 7 failed at the last boot (R410). -/
  bootFails : Tab Nat
  portsFailed : Bool
  migrating : Option Migration
  deriving DecidableEq, Repr

/-- Host-visible registers not held elsewhere (19 R402, R403). -/
structure HostRegs where
  /-- The UALink ports are trained (19 R410, step 7). -/
  ports : Bool
  ualValid : Bool
  ualId : Nat
  errOff : Nat
  recovery : Bool
  rsvdWr : Bool
  accessErr : Bool
  intstat : BitVec 5
  aspaces : Tab Word
  resolveLow : Vector U32 2
  deriving DecidableEq, Repr

/-! ## The device -/

/-- A cached thing that its unit may drop at a time of its own choosing (05 R103, R107, 04 R97, 17 R370). -/
inductive EvictTarget where
  | l2 (line : Nat)
  | l1 (core line : Nat)
  | icache (core aspace line : Nat)
  | utlb (core slot : Nat)
  | tlb (core : Nat)
  | dieTlb (die : Nat)
  | walkCache (die : Nat)
  deriving DecidableEq, Repr

/-- A physical event that the spec counts or repairs, and that no row of the opcode table names. -/
inductive PhysTurn where
  /-- The stored bytes of a line in HBM are damaged (04 R81); `none` ends the damage. -/
  | hbm (line : Nat) (err : PhysErr)
  /-- On-die ECC of a stack has corrected an error (04 R77). -/
  | onDie (stack : Nat)
  /-- Pool ECC at an offset of a gang's context area, which backs its pad and its tile store (06 R132). -/
  | pool (gang off : Nat) (err : PhysErr)
  /-- Pool ECC in a perch, SECDED in an operand-cache entry, SECDED in a latch of a thread (06 R132, 09 R214). -/
  | perch (t slot : Nat) (err : PhysErr)
  | entry (t slot : Nat) (err : PhysErr)
  | latch (t n : Nat) (err : PhysErr)
  /-- SECDED of a granule in L2, or pool ECC where the line is checked out; pool ECC of a granule of an L1 copy (13 R298,
  06 R132). -/
  | l2 (line k : Nat) (err : PhysErr)
  | l1 (core line k : Nat) (err : PhysErr)
  /-- A granule's data or grain changes unnoticed, by the given differences: on its way to or in L2, in a write queue, or on its
  way over the Chain, in an L1 copy (13 R302, R303, 04 R90). -/
  | alter (line k : Nat) (d : Word) (g : Byte)
  | alterQueued (line k : Nat) (d : Word) (g : Byte)
  | alterL1 (core line k : Nat) (d : Word) (g : Byte)
  /-- A flit passes its link CRC in a lane group of the Chain; an error that the CRC misses alters granule `k` of a replica
  update, or of a load's answer, on its way over the Chain (04 R90). -/
  | flitPass (dir group : Nat)
  | flitUpdate (m k : Nat) (d : Word)
  | flitLoad (t k : Nat) (d : Word)
  deriving DecidableEq, Repr

/-- What acts next, where the order of agents is open: an event, an issue slot, an eviction, a translation held earlier that
serves a core (or one issue slot) again (04 R98), a physical event, the command processor's answer to a fault entry of CAUSE
0b100 (04 R96), the next step of a copy's transfer, or nothing for a number of core cycles (log entry 1). -/
inductive Turn where
  | event (i : Instr)
  | slot (core slot : Nat)
  | evict (t : EvictTarget)
  | oldTlb (core : Nat) (slot : Option Nat) (n : Nat)
  | phys (p : PhysTurn)
  | snap (die entry : Nat)
  | transfer (c : Nat)
  | idle (cycles : Nat)
  deriving DecidableEq, Repr

/-- The bundle that an instruction is performed for (14 R305): gang, crew, home lanes, PC, length, instruction word. -/
structure Cur where
  gang : Nat
  crew : Nat
  lanes : List Nat
  pc : Word
  len : Nat
  word : Word
  deriving DecidableEq, Repr

/-- The device. -/
structure State where
  stepping : Config.Stepping
  /-- Core cycles since power-on. -/
  time : Nat
  /-- 1.25 GHz cycles since power-on, in units of 1/94 cycle. -/
  t125 : Nat
  halfClock : Bool
  turns : List Turn
  free : Nat
  nextId : Nat
  cur : Cur
  threads : Tab Thread
  crews : Tab Crew
  gangs : Tab Gang
  spans : Tab Span
  launches : Tab Launch
  accepted : Nat
  counters : Tab Counter
  queues : Tab Queue
  cores : Tab Core
  /-- The 256-cycle period in which each cluster last compared its gang lists (15 R342). MODEL. -/
  averaged : Tab Nat
  hbm : Store
  /-- Lines whose stored bytes are damaged (04 R81). -/
  hbmErrs : Tab PhysErr
  tags : Tab LineTag
  l2 : Tab L2Line
  mts : Tab Nat
  wqs : Tab (List WqLine)
  mslices : Tab MSlice
  hbmStacks : Tab Stack
  /-- Earlier contents of lines (05 R126). MODEL. -/
  codeHist : Tab (List OldLine)
  pool : Store
  dieTlb : Tab (List TlbEntry)
  /-- Translations that a TLB has held since the last invalidation of their pages: until then an access may use any (04 R98). MODEL. -/
  oldTlb : List TlbEntry
  walkCache : Tab (List WalkCacheEntry)
  walks : Tab Walk
  faults : Tab FaultEntry
  msgs : Tab Msg
  /-- Atoms of killed threads, by thread. -/
  loose : Tab LooseAtom
  replicas : Tab Replica
  repMarks : List RepMark
  peers : Tab PeerReq
  /-- The granules that left for peers last, newest first. -/
  peerOut : List PeerGran
  copies : Tab Copy
  tileOps : Tab TileOp
  /-- The words that the device has written as images of crews and copies, newest first, with what they stand for (log entry 21).
  MODEL. -/
  images : List (List Word × ImageOf)
  keys : Tab KeySlot
  chain : Tab LaneGroup
  chainHalf : Bool
  host : HostRegs
  porast : Porast
  deriving DecidableEq, Repr

/-! ## Why a step can stop -/

/-- Why the machine stops with a fault. -/
inductive Fault where
  /-- Raised by no instruction of a well-formed state: a bundle names a thread, crew or gang that does not exist. Safe: the
  device has no such state. -/
  | noSuchObject
  deriving DecidableEq, Repr

/-- Why a step is refused. -/
inductive Refusal where
  /-- An instruction without a meaning yet. Safe. -/
  | notModelled (mnemonic : String)
  /-- An event among the turns whose conditions do not hold, so that the device does not perform it now. Safe: it removes
  no behaviour of the device. Raised by the events of the memory system, the schedulers and the management units. -/
  | notEnabled (mnemonic : String)
  /-- An encoded instruction placed among the turns as an event: instructions come by fetch only. Safe. -/
  | notAnEvent
  deriving DecidableEq, Repr

/-! ## Power-on -/

/-- The empty store: every byte 0, every grain the grain of zero data, no poison (04 R86). -/
def Store.empty : Store := ⟨[], [], []⟩

/-- A core at power-on: 768 acres in LOAN (06 R138), everything else empty (log entry 5). -/
def Core.init : Core :=
  { icache := [], l1 := [], recs := [], tlb := [], utlb := [], coal := [], loan := 768, outs := [],
    reqs := [], lastReturn := 0, glist := [], drained := false, drainedAt := 0 }

/-- A queue at power-on (15 R324; QBASE: log entry 5). -/
def Queue.init : Queue :=
  { base := 0, err := 0, state := 0, dies := 3, slice := 8, size := 4, aspace := 0, prio := 0, enable := false,
    wptr := 0, rptr := 0, chain := none, block := none, tested := 0,
    passed := false, skip := false, qlt := 0 }

/-- Firmware at power-on (log entry 5): slot A active, version 0, verified. -/
def Firmware.init : Firmware := ⟨⟨0, [], true⟩, ⟨0, [], false⟩, false, 0, 0⟩

/-- Porast at power-on (log entry 5). -/
def Porast.init : Porast :=
  { log := [], journal := [], fw := Vector.replicate 3 Firmware.init, owners := [], cmd := List.replicate 64 0,
    resp := List.replicate 64 0, busy := false, run := List.replicate 64 0, boots := 0, coreScr := [], sliceScr := [], stackScr := [], uncached := [],
    swept := [], failed := [], halvedAt := 0, bootFails := [], portsFailed := false, migrating := none }

/-- Host registers at power-on (19 R403; INTSTAT, the address-space table and RESOLVE: log entry 5). -/
def HostRegs.init : HostRegs :=
  { ports := true, ualValid := false, ualId := 0, errOff := 0, recovery := false, rsvdWr := false, accessErr := false, intstat := 0,
    aspaces := [], resolveLow := Vector.replicate 2 0 }

/-- Slot 0 holds the device key, which Porast generates at power-on number `n` (04 R83). -/
def KeySlot.device (n : Nat) : KeySlot :=
  ⟨true, 0, Config.deviceKeyLo n, Config.deviceKeyHi n, none, [(Config.deviceKeyLo n, Config.deviceKeyHi n)]⟩

/-- A slot that holds no key yet. -/
def KeySlot.empty : KeySlot := ⟨false, 0, 0, 0, none, []⟩

/-- A memory slice and a stack at power-on. -/
def MSlice.init : MSlice := ⟨0, [], false⟩
def Stack.init : Stack := ⟨0, []⟩

/-- The machine right after power-on (00 R6, 04 R86, 05 R105, 19 R410). Stepping B1: log entry 4. -/
def State.reset : State :=
  { stepping := .b1, time := 0, t125 := 0, halfClock := false, turns := [], free := 0, nextId := 0,
    cur := ⟨0, 0, [], 0, 0, 0⟩,
    threads := [], crews := [], gangs := [], spans := [], launches := [], accepted := 0, counters := [], queues := [],
    cores := [], averaged := [],
    hbm := .empty, hbmErrs := [], tags := [], l2 := [], mts := [], wqs := [], mslices := [], hbmStacks := [], codeHist := [],
    pool := .empty,
    dieTlb := [], oldTlb := [], walkCache := [], walks := [], faults := [], msgs := [], loose := [], replicas := [], repMarks := [],
    peers := [], peerOut := [],
    copies := [], tileOps := [], images := [],
    keys := [(0, .device 0)], chain := [], chainHalf := false, host := .init, porast := .init }

end Sys2Proof.Machine
end

