-- ==== Sys2Proof/Machine/Tab.lean ====
section
/-! DEFINITION. Operations on tables and on sorted lists of cells. -/

namespace Sys2Proof.Machine

/-- The value at a key. -/
def Tab.get? : Tab α → Nat → Option α
  | [], _ => none
  | (k, v) :: r, i => if k = i then some v else Tab.get? r i

/-- Sets the value at a key, keeping keys ascending. -/
def Tab.set : Tab α → Nat → α → Tab α
  | [], i, v => [(i, v)]
  | (k, w) :: r, i, v =>
    if i < k then (i, v) :: (k, w) :: r
    else if i = k then (i, v) :: r
    else (k, w) :: Tab.set r i v

/-- Removes a key. -/
def Tab.erase : Tab α → Nat → Tab α
  | [], _ => []
  | (k, w) :: r, i => if k = i then Tab.erase r i else (k, w) :: Tab.erase r i

/-- The value at a key, or a default. -/
def Tab.getD (t : Tab α) (i : Nat) (d : α) : α := (t.get? i).getD d

/-- Changes the value at a key that is present. -/
def Tab.modify (t : Tab α) (i : Nat) (f : α → α) : Tab α :=
  match t.get? i with
  | some v => t.set i (f v)
  | none => t

/-- The keys whose values satisfy a test, ascending. -/
def Tab.keysWhere (t : Tab α) (p : Nat → α → Bool) : List Nat :=
  (t.filter fun e => p e.1 e.2).map (·.1)

/-- Keeps the entries that satisfy a test. -/
def Tab.keep (t : Tab α) (p : Nat → α → Bool) : Tab α := t.filter fun e => p e.1 e.2

/-- Changes every value. -/
def Tab.mapVals (t : Tab α) (f : Nat → α → β) : Tab β := t.map fun e => (e.1, f e.1 e.2)

/-- The byte of a sorted list of cells at an address; `d` for an unlisted address. -/
def cellGet : List Host.Cell → Byte → Nat → Byte
  | [], d, _ => d
  | (k, v) :: r, d, a => if k = a then v else cellGet r d a

/-- Writes a byte, in canonical form: a value equal to `d` is not listed. -/
def cellSet : List Host.Cell → Byte → Nat → Byte → List Host.Cell
  | [], d, a, v => if v = d then [] else [(a, v)]
  | (k, w) :: r, d, a, v =>
    if a < k then (if v = d then (k, w) :: r else (a, v) :: (k, w) :: r)
    else if a = k then (if v = d then r else (a, v) :: r)
    else (k, w) :: cellSet r d a v

/-- Puts a number into a strictly rising list, or takes it out. -/
def markSet : List Nat → Nat → Bool → List Nat
  | [], a, b => if b then [a] else []
  | k :: r, a, b =>
    if a < k then (if b then a :: k :: r else k :: r)
    else if a = k then (if b then k :: r else r)
    else k :: markSet r a b

/-- Appends what is not yet in a list. -/
def addNew [DecidableEq α] (l : List α) (n : α) : List α := if l.contains n then l else l ++ [n]

/-- The least number from `n` on, among `fuel` many, for which a test holds. -/
def leastFrom (p : Nat → Bool) : Nat → Nat → Option Nat
  | _, 0 => none
  | n, fuel + 1 => if p n then some n else leastFrom p (n + 1) fuel

/-- The element of a list with the greatest measure, the first among equals. -/
def maxBy (f : α → Nat) : List α → Option α
  | [] => none
  | a :: r =>
    match maxBy f r with
    | none => some a
    | some b => if f b ≤ f a then some a else some b

/-- The element of a list with the least measure, the first among equals. -/
def minBy (f : α → Nat) : List α → Option α
  | [] => none
  | a :: r =>
    match minBy f r with
    | none => some a
    | some b => if f a ≤ f b then some a else some b

/-- The greatest number of a list, 0 for none. -/
def maxOf (l : List Nat) : Nat := l.foldl Nat.max 0

end Sys2Proof.Machine
end

