-- ==== Sys2Proof/Machine/Memory.lean ====
section
/-! DEFINITION. Grains (02 R44 to R47) and stores of granules with their canonical form. -/

namespace Sys2Proof.Machine

/-! ## Grains -/

/-- One bit step of CRC-8 with polynomial 0x2F (02 R44). -/
def crc8Bit (c : Byte) : Byte := if c.msb then (c <<< 1) ^^^ 0x2F else c <<< 1

def crc8Byte (c b : Byte) : Byte :=
  crc8Bit (crc8Bit (crc8Bit (crc8Bit (crc8Bit (crc8Bit (crc8Bit (crc8Bit (c ^^^ b))))))))

def crc8 (init : Byte) (l : List Byte) : Byte := l.foldl crc8Byte init

/-- The 7 address bytes of a grain: A[51:3], least significant first (02 R44). -/
def grainAddrBytes (a : Nat) : List Byte := leBytes 7 (a / 8 % 2 ^ 49)

/-- The grain of 8 data bytes at a grain address (02 R44). -/
def grainOf (d : Word) (a : Nat) : Byte := crc8 0xFF (leBytes 8 d.toNat ++ grainAddrBytes a)

/-- L of 02 R47: what re-basing from one address to another adds to a grain. -/
def grainRebase (a b : Nat) : Byte := crc8 0 (leBytes 8 0 ++ grainAddrBytes (a ^^^ b))

/-- A granule produced at a grain address (02 R46, producer). -/
def Gran.mk' (d : Word) (a : Nat) : Gran := ⟨d, grainOf d a, false⟩

/-- A relocated granule (02 R47). -/
def Gran.rebase (g : Gran) (a b : Nat) : Gran := { g with grain := g.grain ^^^ grainRebase a b }

/-- What a checker finds: nothing, POISON (0x31) or GRAIN_MISMATCH (0x18) (02 R50). -/
def Gran.check (g : Gran) (a : Nat) : Option Byte :=
  if g.poison then some 0x31 else if g.grain = grainOf g.data a then none else some 0x18

/-- Byte `i` of a granule. -/
def Gran.byte (g : Gran) (i : Nat) : Byte := BitVec.ofNat 8 (g.data.toNat / 256 ^ i)

/-- A word with byte `i` replaced. -/
def setByte (w : Word) (i : Nat) (b : Byte) : Word :=
  BitVec.ofNat 64 (w.toNat - w.toNat / 256 ^ i % 256 * 256 ^ i + b.toNat * 256 ^ i)

/-- The bytes of a list of granules in order. -/
def granBytes (l : List Gran) : List Byte := l.flatMap fun g => leBytes 8 g.data.toNat

/-! ## Stores -/

/-- The byte at an address. -/
def Store.byte (m : Store) (a : Nat) : Byte := cellGet m.bytes 0 a

/-- The word of granule number `n`, bytes `8n` to `8n + 7`. -/
def Store.word (m : Store) (n : Nat) : Word :=
  BitVec.ofNat 64 (leNat ((List.range 8).map fun i => m.byte (8 * n + i)))

/-- Granule number `n`. -/
def Store.gran (m : Store) (n : Nat) : Gran :=
  ⟨m.word n, cellGet m.grains (grainOf 0 (8 * n)) n, m.poison.contains n⟩

/-- Writes one byte. -/
def Store.setByte (m : Store) (a : Nat) (b : Byte) : Store := { m with bytes := cellSet m.bytes 0 a b }

/-- Writes bytes from an address up. -/
def Store.setBytes (m : Store) (a : Nat) : List Byte → Store
  | [] => m
  | b :: r => (m.setByte a b).setBytes (a + 1) r

/-- Writes granule number `n` with its grain and POISON mark. -/
def Store.setGran (m : Store) (n : Nat) (g : Gran) : Store :=
  let m' := m.setBytes (8 * n) (leBytes 8 g.data.toNat)
  { m' with grains := cellSet m.grains (grainOf 0 (8 * n)) n g.grain, poison := markSet m.poison n g.poison }

/-- Writes granules from number `n` up. -/
def Store.setGrans (m : Store) (n : Nat) : List Gran → Store
  | [] => m
  | g :: r => (m.setGran n g).setGrans (n + 1) r

/-- The eight granules of line number `l`. -/
def Store.line (m : Store) (l : Nat) : List Gran := (List.range 8).map fun i => m.gran (8 * l + i)

/-- Strictly rising addresses. -/
def rising : List Host.Cell → Bool
  | [] => true
  | [_] => true
  | a :: b :: r => decide (a.1 < b.1) && rising (b :: r)

def risingNat : List Nat → Bool
  | [] => true
  | [_] => true
  | a :: b :: r => decide (a < b) && risingNat (b :: r)

/-- The canonical form of a store. -/
def Store.wf (m : Store) : Bool :=
  rising m.bytes && m.bytes.all (fun c => c.2 != 0) &&
  rising m.grains && m.grains.all (fun c => c.2 != grainOf 0 (8 * c.1)) && risingNat m.poison

/-- The canonical form of the device's memories. -/
def Memory.wf (s : State) : Bool := s.hbm.wf && s.pool.wf

end Sys2Proof.Machine
end

