-- ==== Sys2Proof/Machine/L2.lean ====
section
/-! DEFINITION. HBM, memory slices' write queues and L2 slices (04 R77 to R90, 05 R102 to R121, R440, 13 R296 to R300). A line
is named by its number PA / 64. -/

namespace Sys2Proof.Machine

/-! ## Homing -/

/-- The size of one die's HBM in bytes (04 R87). -/
def dieBytes : Nat := 0x48_0000_0000

/-- The die whose range holds a PA. -/
def dieOf (pa : Nat) : Nat := if pa < dieBytes then 0 else 1

/-- Whether a PA lies in HBM. -/
def isHbm (pa : Nat) : Bool := decide (pa < 2 * dieBytes)

/-- Whether a PA lies in the peer window (04 R87). -/
def isPeer (pa : Nat) : Bool := decide (2 ^ 51 ≤ pa ∧ pa < 2 ^ 52)

/-- The die-relative address (04 R88). -/
def dieRel (pa : Nat) : Nat := pa - dieOf pa * dieBytes

/-- The home L2 slice of a line (05 R102). -/
def sliceOf (ln : Nat) : Nat :=
  let l := dieRel (64 * ln) / 64
  128 * dieOf (64 * ln) +
    (l ^^^ (l / 2 ^ 7) ^^^ (l / 2 ^ 14) ^^^ (l / 2 ^ 21) ^^^ (l / 2 ^ 28)) % 128

/-- The HBM stack of a line (04 R88). -/
def stackOf (ln : Nat) : Nat := 6 * dieOf (64 * ln) + dieRel (64 * ln) / 256 % 6

/-- The memory slice of a line: its stack and slice number (04 R88). -/
def msliceOf (ln : Nat) : Nat :=
  let j := dieRel (64 * ln) / 256 / 6
  512 * stackOf ln + (j ^^^ (j / 2 ^ 9) ^^^ (j / 2 ^ 18)) % 512

/-- The cluster and the die of a core (00 R3, 01 R12). -/
def clusterOf (core : Nat) : Nat := core / 8
def coreDie (core : Nat) : Nat := core / 80

/-! ## Shared helpers -/

/-- Adds scruples to a unit (17 R390). -/
def State.addScruples (s : State) (u : HwUnit) (n : Nat) : State :=
  let p := s.porast
  let p := match u with
    | .core c => { p with coreScr := p.coreScr.set c (p.coreScr.getD c 0 + n) }
    | .slice c => { p with sliceScr := p.sliceScr.set c (p.sliceScr.getD c 0 + n) }
    | .stack c => { p with stackScr := p.stackScr.set c (p.stackScr.getD c 0 + n) }
  { s with porast := p }

/-- A free choice among `n` allowed values; a single value is no choice (log entry 2). -/
def State.pick (s : State) (n : Nat) : Nat × State :=
  if n ≤ 1 then (0, s) else (Config.freePick s.free % n, { s with free := s.free + 1 })

/-! ## Stored lines -/

def poisonAll (l : List Gran) : List Gran := l.map fun g => { g with poison := true }

/-- Whether a key slot is loaded, and its load generation (04 R83). -/
def State.keyLoaded (s : State) (k : Nat) : Bool := match s.keys.get? k with | some e => e.loaded | none => false
def State.keyGen (s : State) (k : Nat) : Nat := match s.keys.get? k with | some e => e.gen | none => 0

/-- A key loaded into a slot, and a cleared one (04 R83): a key that the slot has held before is the same key again. -/
def KeySlot.load (k : KeySlot) (lo hi : KeyHalf) : KeySlot :=
  let past := if k.past.contains (lo, hi) then k.past else k.past ++ [(lo, hi)]
  ⟨true, past.idxOf (lo, hi), lo, hi, none, past⟩
def KeySlot.clear (k : KeySlot) : KeySlot := { k with loaded := false, lo := 0, hi := 0, pend := none }

/-- The tag of a stored line; memory is initialised under slot 0 (04 R86). -/
def State.lineTag (s : State) (ln : Nat) : LineTag := s.tags.getD ln ⟨0, 0, false⟩

/-- The four lines of an aligned 256-byte block, and its bytes (04 R85). -/
def blockLines (ln : Nat) : List Nat := (List.range 4).map (ln / 4 * 4 + ·)
def State.blockBytes (s : State) (ln : Nat) : List Byte := (blockLines ln).flatMap fun l => granBytes (s.hbm.line l)

/-- The 88 bytes as which a line is stored (04 R80, R83, R85): encrypted data, or the line's share of its compressed block;
the encrypted metadata block; the POISON byte; check bytes. The tweak of the data is PA[51:6], and the metadata's has bit 127
set. The other definitions work on what these bytes stand for. -/
def State.storedLine (s : State) (ln : Nat) : List Byte :=
  let t := s.lineTag ln
  let k := ((s.keys.getD t.key .empty).past)[t.gen]?.getD (0, 0)
  let gr := s.hbm.line ln
  let data := if t.comp then (List.range 64).map fun i => Config.compressedByte (s.blockBytes ln) (64 * (ln % 4) + i)
    else granBytes gr
  let block := gr.map (·.grain) ++ [BitVec.ofNat 8 t.key, if t.comp then 1 else 0] ++ List.replicate 6 0
  let poison := BitVec.ofNat 8 ((gr.zipIdx.map fun g => if g.1.poison then 2 ^ g.2 else 0).foldl (· + ·) 0)
  let b := Config.aesXts k.1 k.2 ln data ++ Config.aesXts k.1 k.2 (ln + 2 ^ 127) block ++ [poison]
  b ++ (List.range 7).map (Config.checkByte b)

/-- The lines that a read of a stored line fetches (04 R85): of a compressed block the occupied ones, and the line itself for
its metadata block. -/
def State.fetched (s : State) (ln : Nat) : List Nat :=
  if (s.lineTag ln).comp then addNew ((blockLines ln).take ((Config.compressedSize (s.blockBytes ln) + 63) / 64)) ln
  else [ln]

/-- The worse of two findings of the check code (04 R81). -/
def worse : PhysErr → PhysErr → PhysErr
  | .uncorrectable, _ | _, .uncorrectable => .uncorrectable
  | .miscorrected, _ | _, .miscorrected => .miscorrected
  | .corrected, _ | _, .corrected => .corrected
  | .none, .none => .none

/-- The damage of what a read of a line fetches. -/
def State.lineDamage (s : State) (ln : Nat) : PhysErr :=
  ((s.fetched ln).map fun l => s.hbmErrs.getD l .none).foldl worse .none

/-- A stored line without damage as the memory controller delivers it under a key index (04 R81, R83). -/
def State.hbmLine (s : State) (ln key : Nat) : List Gran :=
  let t := s.lineTag ln
  let l := s.hbm.line ln
  if t.key = key && t.gen = s.keyGen key && s.keyLoaded key then l else poisonAll l

/-- The youngest entry of a line in its write queue (13 R299). -/
def State.wqLine (s : State) (ln : Nat) : Option WqLine :=
  ((s.wqs.getD (msliceOf ln) []).reverse.find? fun e => e.line == ln)

/-- A line below L2 under a key index: from the write queue if it waits there, else from HBM (13 R299), poisoned by an
uncorrectable error (04 R81). -/
def State.belowLine (s : State) (ln key : Nat) : List Gran :=
  match s.wqLine ln with
  | some e => if e.key = key && s.keyLoaded key then e.gr else poisonAll e.gr
  | none => if s.lineDamage ln = .uncorrectable then poisonAll (s.hbmLine ln key) else s.hbmLine ln key

/-! ## Coherent contents -/

/-- A line as an access with a key index is answered, changing nothing (05 R440). -/
def State.peekLine (s : State) (ln key : Nat) : List Gran :=
  match s.l2.get? ln with
  | some e => if e.key = key then e.gr else poisonAll e.gr
  | none => s.belowLine ln key

/-- Granule number `n` (PA / 8) as an access with a key index is answered. -/
def State.peekGran (s : State) (n key : Nat) : Gran :=
  (s.peekLine (n / 8) key).getD (n % 8) ⟨0, 0, true⟩

/-- The data byte at a PA, whatever key and checks say: the memory's coherent contents. -/
def State.memByte (s : State) (pa : Nat) : Byte :=
  match s.l2.get? (pa / 64) with
  | some e => ((e.gr.getD (pa / 8 % 8) ⟨0, 0, false⟩).byte (pa % 8))
  | none =>
    match s.wqLine (pa / 64) with
    | some e => ((e.gr.getD (pa / 8 % 8) ⟨0, 0, false⟩).byte (pa % 8))
    | none => s.hbm.byte pa

/-! ## Filling and evicting -/

/-- MTS of a slice (05 R104). -/
def State.sliceMts (s : State) (ln : Nat) : Nat := s.mts.getD (sliceOf ln) 0

/-- The key index under which a line stands below L2. -/
def State.storedKey (s : State) (ln : Nat) : Nat :=
  match s.wqLine ln with | some e => e.key | none => (s.lineTag ln).key

/-- A line filled from below, with WTS and RTS from MTS (05 R110). It keeps the key index under which it is stored: an access
that names another finds the same as at a line that was in L2 before (05 R440, log entry 34). -/
def State.freshLine (s : State) (ln : Nat) : L2Line :=
  let key := s.storedKey ln
  { gr := s.belowLine ln key, key, wts := s.sliceMts ln, rts := s.sliceMts ln, tag := none, holder := .none,
    recalled := false, dirty := false, comp := (s.lineTag ln).comp }

/-- An activation of the bank of a line (04 R79). -/
def State.activate (s : State) (ln : Nat) : State :=
  let m := msliceOf ln
  let x := s.mslices.getD m .init
  { s with mslices := s.mslices.set m { x with acts := x.acts.set (Config.bankOf ln) (x.acts.getD (Config.bankOf ln) 0 + 1) } }

/-- Scruples of an error that a stack finds (17 R390); a miscorrection counts as the correction it is taken for. -/
def State.stackError (s : State) (ln : Nat) (err : PhysErr) : State :=
  match err with
  | .none => s
  | .corrected | .miscorrected => s.addScruples (.stack (stackOf ln)) 1
  | .uncorrectable => s.addScruples (.stack (stackOf ln)) 16

/-- Writes one queued line to HBM (04 R79, R80, R83): under the key that its slot holds now. -/
def State.storeLine (s : State) (e : WqLine) : State :=
  let gr := if s.keyLoaded e.key then e.gr else poisonAll e.gr
  let s := s.activate e.line
  { s with
    hbm := s.hbm.setGrans (8 * e.line) gr
    hbmErrs := s.hbmErrs.erase e.line
    tags := s.tags.set e.line ⟨e.key, s.keyGen e.key, false⟩ }

/-- COMP in the four metadata blocks of a line's block (04 R85). -/
def State.setComp (s : State) (ln : Nat) (b : Bool) : State :=
  { s with tags := (blockLines ln).foldl (fun t l =>
      let g := t.getD l ⟨0, 0, false⟩
      if g.comp = b then t else t.set l { g with comp := b }) s.tags }

/-- Free granules in the place of others (04 R81: a miscorrected line decrypts to unrelated bytes). `grains`: whether the
grains are altered too. -/
def State.unrelated (s : State) (l : List Gran) (grains : Bool) : List Gran × State :=
  (l.zipIdx.map fun g =>
    { g.1 with data := Config.freeWord (s.free + g.2)
               grain := if grains then (Config.freeWord (s.free + 8 + g.2)).setWidth 8 else g.1.grain },
    { s with free := s.free + 16 })

/-- A stored line as a read delivers it whose check code finds `found` (04 R81). -/
def State.delivered (s : State) (gr : List Gran) : PhysErr → List Gran × State
  | .none | .corrected => (gr, s)
  | .uncorrectable => (poisonAll gr, s)
  | .miscorrected =>
    let (c, s) := s.pick 3
    if c = 0 then (poisonAll gr, s) else s.unrelated gr (c == 2)

/-- Reads a stored line (04 R79, R81, R85): an activation for each line fetched, what the check codes find (in the line itself
`err`, or the damage that its stored bytes have), and what the controller delivers under the stored key index. -/
def State.readStored (s : State) (ln : Nat) (err : PhysErr) : List Gran × State :=
  let finds := (s.fetched ln).map fun l => (l, if l = ln ∧ err ≠ .none then err else s.hbmErrs.getD l .none)
  let gr := s.hbmLine ln (s.storedKey ln)
  (finds.foldl (fun s f => (s.activate f.1).stackError f.1 f.2) s).delivered gr ((finds.map (·.2)).foldl worse .none)

/-- The scheduler of a memory slice turns to writes when 48 lines wait, and returns to reads at 16 (13 R299). -/
def State.turnSlice (s : State) (m : Nat) : State :=
  let n := (s.wqs.getD m []).length
  let x := s.mslices.getD m .init
  if 48 ≤ n && !x.writing then { s with mslices := s.mslices.set m { x with writing := true } }
  else if n ≤ 16 && x.writing then { s with mslices := s.mslices.set m { x with writing := false } }
  else s

/-- The controller reads a compressed block for a merge (13 R300): the errors of its lines are found, and what it delivers of the
lines `others` stays in their places. -/
def State.unpackBlock (s : State) (ln : Nat) (others : List Nat) : State :=
  let finds := (blockLines ln).map fun l => (l, s.hbmErrs.getD l .none)
  let s := finds.foldl (fun s f => (s.activate f.1).stackError f.1 f.2) s
  others.foldl (fun s l =>
    let key := (s.lineTag l).key
    let (gr, s) := s.delivered (s.hbmLine l key) ((finds.map (·.2)).foldl worse .none)
    { s with
      hbm := s.hbm.setGrans (8 * l) gr
      hbmErrs := s.hbmErrs.erase l
      tags := s.tags.set l ⟨key, s.keyGen key, true⟩ }) s

/-- The oldest queued line `e` of a memory slice's queue, `r` the others, goes to HBM (13 R299, R300, 04 R80, R85). If its stored
block is compressed, or its page has COMP set and all four lines of the block wait, the block's queued lines are written together
and the block is compressed if it comes to 192 bytes or less; the other lines of a compressed block are read first. Otherwise the
line is written uncompressed. -/
def State.writeOldest (s : State) (m : Nat) (e : WqLine) (r : List WqLine) : State :=
  let mine := (e :: r).filter fun x => x.line / 4 == e.line / 4
  if (s.lineTag e.line).comp || (e.comp && (blockLines e.line).all fun l => mine.any (·.line == l)) then
    let rest := (e :: r).filter fun x => x.line / 4 != e.line / 4
    let s := { s with wqs := s.wqs.set m rest }
    let s := if (s.lineTag e.line).comp then
      s.unpackBlock e.line ((blockLines e.line).filter fun l => !mine.any (·.line == l)) else s
    let s := mine.foldl State.storeLine s
    s.setComp e.line (e.comp && decide (Config.compressedSize (s.blockBytes e.line) ≤ 192))
  else { s with wqs := s.wqs.set m r }.storeLine e

/-- Writes the oldest line of a memory slice's write queue to HBM. -/
def State.drainOne (s : State) (m : Nat) : State :=
  match s.wqs.getD m [] with
  | [] => s.turnSlice m
  | e :: r => (s.writeOldest m e r).turnSlice m

/-- A read waits until the scheduler of its memory slice returns to reads (13 R299). -/
def State.toReads (s : State) (m : Nat) : Nat → State
  | 0 => s
  | n + 1 => if (s.mslices.getD m .init).writing then (s.drainOne m).toReads m n else s

/-- A dirty line enters its memory slice's write queue of 64 lines; under an unloaded slot all granules are poisoned
(13 R299, 04 R83). A full queue first writes its oldest line. -/
def State.enqueueWrite (s : State) (ln : Nat) (e : L2Line) : State :=
  let m := msliceOf ln
  let gr := if s.keyLoaded e.key then e.gr else poisonAll e.gr
  let s := if 64 ≤ (s.wqs.getD m []).length then s.drainOne m else s
  let w : WqLine := ⟨ln, gr, e.key, e.comp⟩
  { s with wqs := s.wqs.set m (s.wqs.getD m [] ++ [w]) }.turnSlice m

/-- L2_EVICTION: raises MTS and queues a dirty line (05 R103, R110). -/
def State.evictL2 (s : State) (ln : Nat) : State :=
  match s.l2.get? ln with
  | none => s
  | some e =>
    let s := if e.dirty then s.enqueueWrite ln e else s
    { s with l2 := s.l2.erase ln, mts := s.mts.set (sliceOf ln) (Nat.max (s.sliceMts ln) e.rts) }

/-- A recall completed: the holder has returned the line (05 R109). The data of a checked-out line stand in the slice's
entry, so only the checkout ends. -/
def State.recallLine (s : State) (ln : Nat) : State :=
  { s with l2 := s.l2.modify ln fun e => { e with holder := .none, recalled := false } }

/-- The slice and the set of a line (05 R102, R103; which address bits number the sets is not stated: log entry 38). -/
def l2Set (ln : Nat) : Nat × Nat := (sliceOf ln, dieRel (64 * ln) / 64 / 128 % 1024)

/-- Makes room for a line in the 16 ways of its set (05 R103): a victim that is checked out is recalled first. -/
def State.makeRoom (s : State) (ln : Nat) : State :=
  let set := s.l2.filter fun e => l2Set e.1 == l2Set ln
  if set.length < 16 then s
  else
    let (c, s) := s.pick set.length
    match set[c]? with
    | some e => (s.recallLine e.1).evictL2 e.1
    | none => s

/-- Reads a stored line from HBM, once its memory slice serves reads. -/
def State.readHbm (s : State) (ln : Nat) (err : PhysErr) : List Gran × State :=
  (s.toReads (msliceOf ln) 64).readStored ln err

/-- Brings a line into L2 if it is absent: from the write queue if it waits there, else by a read of HBM that finds `err`. -/
def State.fillWith (s : State) (ln : Nat) (err : PhysErr) : State :=
  match s.l2.get? ln with
  | some _ => s
  | none =>
    let s := s.makeRoom ln
    match s.wqLine ln with
    | some _ => { s with l2 := s.l2.set ln (s.freshLine ln) }
    | none =>
      let (gr, s) := s.readHbm ln err
      { s with l2 := s.l2.set ln { s.freshLine ln with gr } }

def State.fillLine (s : State) (ln : Nat) : State := s.fillWith ln .none

/-! ## Timestamped accesses at the home slice -/

/-- The entry of a line in L2. -/
def State.line (s : State) (ln : Nat) : L2Line :=
  match s.l2.get? ln with
  | some e => e
  | none => s.freshLine ln

/-- A load with lower bound `b` at a line present in L2: what the slice answers and the line after (05 R107, R440). -/
def L2Line.load (e : L2Line) (key b : Nat) : Reply × L2Line :=
  let rts := Nat.max e.rts (Nat.max b e.wts + 63)
  (⟨if e.key = key then e.gr else poisonAll e.gr, e.wts, rts, 0, false⟩, { e with rts })

/-- A load of a line with lower bound `b`, filling it if absent. -/
def State.lineLoad (s : State) (ln key b : Nat) : Reply × State :=
  let s := (s.fillLine ln).recallLine ln
  let (r, e) := (s.line ln).load key b
  ({ r with time := s.time }, { s with l2 := s.l2.set ln e })

/-- Readies a line for a write under a key: a write of the whole line needs no read and allocates an absent line; a partial
write needs the line, and under another key writes it back if dirty and refills it with every granule poisoned (05 R440, 04 R84,
13 R298). DESIGN CHOICE: such a refill keeps the line's WTS and RTS (log entry 34). -/
def State.readyLine (s : State) (ln key : Nat) (comp whole : Bool) : State :=
  match s.l2.get? ln, whole with
  | none, true =>
    let s := s.makeRoom ln
    { s with l2 := s.l2.set ln { s.freshLine ln with gr := poisonAll (s.hbm.line ln), key, comp } }
  | _, _ =>
    let s := s.fillLine ln
    let e := s.line ln
    if e.key = key then { s with l2 := s.l2.set ln { e with comp } }
    else
      let s := if e.dirty && !whole then s.enqueueWrite ln e else s
      let s := if whole || (s.wqLine ln).isSome then s else (s.readHbm ln .none).2
      { s with l2 := s.l2.set ln { e with gr := poisonAll e.gr, key, comp, dirty := e.dirty && whole } }

/-- What a line held before it changed stays among the contents that a fetch may find (05 R126). -/
def State.noteOld (s : State) (ln : Nat) (old new : List Gran) : State :=
  if old = new then s else { s with codeHist := s.codeHist.set ln (s.codeHist.getD ln [] ++ [⟨old, none⟩]) }

/-- Puts a line into L2. -/
def State.putLine (s : State) (ln : Nat) (e : L2Line) : State :=
  { s with l2 := s.l2.set ln e }.noteOld ln (s.line ln).gr e.gr

/-- Replaces granules of a line. -/
def putGrans (l : List Gran) (w : List (Nat × Gran)) : List Gran := w.foldl (fun l g => l.set g.1 g.2) l

/-- A store of granules to a line at ts := max(b, RTS + 1) (05 R108). A covered granule takes the arriving data, grain and
POISON mark (13 R298). -/
def State.lineStore (s : State) (ln key : Nat) (comp : Bool) (w : List (Nat × Gran)) (b : Nat) : Nat × State :=
  let old := (s.line ln).gr
  let s := (s.readyLine ln key comp (w.length == 8)).recallLine ln
  let e := s.line ln
  let ts := Nat.max b (e.rts + 1)
  let gr := putGrans e.gr w
  (ts, { s with l2 := s.l2.set ln { e with gr, wts := ts, rts := ts, dirty := true } }.noteOld ln old gr)

/-- Writes granules without a timestamp: the fill/spill engine, UALink-free internal writes (09 R207, 17 R377). -/
def State.pokeGrans (s : State) (ln key : Nat) (w : List (Nat × Gran)) : State :=
  let old := (s.line ln).gr
  let s := s.readyLine ln key (s.lineTag ln).comp (w.length == 8)
  let e := s.line ln
  let gr := putGrans e.gr w
  { s with l2 := s.l2.set ln { e with gr, dirty := true } }.noteOld ln old gr

/-- Writes one word of memory at an 8-byte aligned PA as a producer, without a timestamp. -/
def State.pokeWord (s : State) (pa key : Nat) (v : Word) : State :=
  s.pokeGrans (pa / 64) key [(pa / 8 % 8, Gran.mk' v pa)]

/-- Reads an 8-byte aligned word as a checker: the word, or POISON or GRAIN_MISMATCH. -/
def State.peekWord (s : State) (pa gpa key : Nat) : Except Byte Word :=
  let g := s.peekGran (pa / 8) key
  match g.check gpa with
  | none => .ok g.data
  | some c => .error c

/-- The scruples of a failed check: +16 against the core, and for a grain mismatch +16 against the home slice and stack
(17 R390). -/
def State.checkScruples (s : State) (cause : Byte) (core : Option Nat) (pa : Nat) : State :=
  let s := match core with | some c => s.addScruples (.core c) 16 | none => s
  if cause = 0x18 then
    (s.addScruples (.slice (sliceOf (pa / 64))) 16).addScruples (.stack (stackOf (pa / 64))) 16
  else s

/-- The scruples of a damaged page-table entry (04 R441): against the core whose access needed the walk, and the entry's home
slice and stack. -/
def State.walkScruples (s : State) (core : Option Nat) (pa : Nat) : State :=
  let s := match core with | some c => s.addScruples (.core c) 16 | none => s
  (s.addScruples (.slice (sliceOf (pa / 64))) 16).addScruples (.stack (stackOf (pa / 64))) 16

/-- The 1.25 GHz cycle count since power-on (15 R327). -/
def State.count125 (s : State) : Nat := s.t125 / 94

/-- Porast logs an event and vector 4 fires; the log keeps the newest 4,096 entries (19 R402, R408). -/
def State.logEvent (s : State) (ev : LogEvent) : State :=
  let log := s.porast.log ++ [⟨s.count125, ev⟩]
  { s with
    porast := { s.porast with log := if 4096 < log.length then log.drop 1 else log }
    host := { s.host with intstat := s.host.intstat ||| 0x10 } }

/-- Fires interrupt vector `n` (19 R402). -/
def State.interrupt (s : State) (n : Nat) : State :=
  { s with host := { s.host with intstat := s.host.intstat ||| BitVec.ofNat 5 (2 ^ n) } }

/-! ## Replicated pages (05 R122) -/

/-- Keeps in mind a store to a replicated page. -/
def State.markRep (s : State) (m : RepMark) : State :=
  { s with repMarks := m :: s.repMarks.filter fun x => !(x.die == m.die && x.gran == m.gran) }

/-- Granule `k` of a line that a die has just stored to: where the other die has stored to it without a fence since, the copy
keeps an arbitrary one of the two values. -/
def State.unfenced (s : State) (die ln gran k : Nat) : State :=
  match s.repMarks.find? fun m => m.die != die && m.gran == gran with
  | none => s
  | some m =>
    let (c, s) := s.pick 2
    if c = 0 then s else s.putLine ln { s.line ln with gr := (s.line ln).gr.set k m.gr }

/-- A thread has executed fence.rep (R123), or a copy has completed: their stores are closed. -/
def State.closeReps (s : State) (p : RepMark → RepMark) : State :=
  { s with repMarks := (s.repMarks.map p).filter fun m => !m.threads.isEmpty || m.copy.isSome }
def RepMark.dropThread (t : Nat) (m : RepMark) : RepMark := { m with threads := m.threads.filter (· != t) }
def RepMark.dropCopy (c : Nat) (m : RepMark) : RepMark := if m.copy = some c then { m with copy := none } else m

end Sys2Proof.Machine
end

