-- ==== Sys2Proof/Machine/Translate.lean ====
section
/-! DEFINITION. Address translation: page-table walks, TLBs, and where an address of a gang lies (04 R91 to R99, R441,
08 R181, 15 R334). -/

namespace Sys2Proof.Machine

/-- What a walk ends with: a translation, a failing row of 04 R95 by its CAUSE, or a damaged entry (R441) at a PA. -/
inductive WalkRes where
  | ok (e : TlbEntry)
  | fail (cause : Nat)
  | damaged (cause : Byte) (pa : Nat)
  deriving DecidableEq, Repr

/-- Fields of a leaf (04 R94). -/
def leafKey (l : Word) : Nat := fld l.toNat 8 7
def leafTrk (l : Word) : Bool := bitAt l.toNat 7
def leafComp (l : Word) : Bool := bitAt l.toNat 6
def leafRep (l : Word) : Bool := bitAt l.toNat 5
def leafX (l : Word) : Bool := bitAt l.toNat 4
def leafW (l : Word) : Bool := bitAt l.toNat 3
def leafSnap (l : Word) : Nat := fld l.toNat 56 7
def leafPage (l : Word) : Nat := fld l.toNat 16 36 * 2 ^ 16

/-- Address bits below a leaf of a level (04 R92). -/
def levelBits : Nat → Nat | 2 => 30 | 1 => 21 | _ => 16

/-- The index of a VA at a level (04 R92). -/
def levelIndex (level va : Nat) : Nat :=
  match level with
  | 3 => fld va 43 14
  | 2 => fld va 30 13
  | 1 => fld va 21 9
  | _ => fld va 16 5

/-- The alignment of the table that an entry of a level names (04 R92). -/
def nextAlign : Nat → Nat | 3 => 2 ^ 16 | 2 => 2 ^ 12 | _ => 2 ^ 8

/-- Whether a PA is assigned: HBM, or a peer window of another device (04 R87, R95). -/
def State.paAssigned (s : State) (pa : Nat) : Bool :=
  isHbm pa || (isPeer pa && !(s.host.ualValid && fld pa 41 10 == s.host.ualId))

/-- A leaf that 04 R95 calls malformed, at a level. -/
def State.leafBad (s : State) (level : Nat) (l : Word) : Bool :=
  bitAt l.toNat 63 || fld l.toNat 52 4 != 0 || bitAt l.toNat 15 || bitAt l.toNat 2
  || level == 3 || leafPage l % 2 ^ levelBits level != 0 || (leafW l && leafX l)
  || (leafRep l && dieBytes ≤ leafPage l) || !s.keyLoaded (leafKey l) || !s.paAssigned (leafPage l)

/-- A table entry that 04 R95 calls malformed, at a level. -/
def State.tableBad (s : State) (level : Nat) (e : Word) : Bool :=
  fld e.toNat 60 4 != 0 || fld e.toNat 2 14 != 0 || level == 0
  || (fld e.toNat 16 44 * 2 ^ 8) % nextAlign level != 0 || !s.paAssigned (fld e.toNat 16 44 * 2 ^ 8)

/-- The permission rows of 04 R95 for an access through a leaf; `repl`: the launch slot of a replayable launch. -/
def permRow (l : Word) (k : AccKind) (repl : Option Nat) : Option Nat :=
  let writes := decide (k = .store ∨ k = .atomic)
  if writes && !leafW l then some 2
  else if decide (k = .fetch) && !leafX l then some 3
  else match repl with
    | some slot => if writes && leafTrk l && leafSnap l != slot + 1 then some 4 else none
    | none => none

/-- A table entry as a walker loads it. One in a peer window is what that peer answers; an error answer is taken as a row
that is malformed (log entry 80). -/
def State.tableEntry (s : State) (pa : Nat) : Except Byte Word :=
  if isPeer pa then
    .ok ((if s.host.ualValid then Config.peerEntry s.time pa else none).getD (BitVec.ofNat 64 (2 ^ 63 + 3)))
  else s.peekWord pa pa 0

/-- One level of a walk: its end, or the next-level table; walkers read entries under slot 0 and check their grains
(04 R95, R99, R441). An entry of levels 3 to 1 in the walk cache `wc` is used as it stands there (R98). -/
def State.walkEntry (s : State) (wc : List WalkCacheEntry) (aspace va : Nat) (k : AccKind) (repl : Option Nat)
    (level table : Nat) : WalkRes ⊕ Nat :=
  let pa := table + 8 * levelIndex level va
  match (match wc.find? fun e => e.pa == pa && level != 0 with
    | some e => .ok e.entry
    | none => s.tableEntry pa : Except Byte Word) with
  | .error c => .inl (.damaged c pa)
  | .ok e =>
    if !bitAt e.toNat 0 then .inl (.fail 0)
    else if bitAt e.toNat 1 then
      if s.leafBad level e then .inl (.fail 1)
      else match permRow e k repl with
        | some c => .inl (.fail c)
        | none => .inl (.ok ⟨aspace, va / 2 ^ levelBits level * 2 ^ levelBits level, levelBits level, e⟩)
    else if s.tableBad level e then .inl (.fail 1)
    else .inr (fld e.toNat 16 44 * 2 ^ 8)

/-- The walk from a level down. -/
def State.walkFrom (s : State) (wc : List WalkCacheEntry) (aspace va : Nat) (k : AccKind) (repl : Option Nat) :
    Nat → Nat → WalkRes
  | 0, table =>
    match s.walkEntry wc aspace va k repl 0 table with
    | .inl r => r
    | .inr _ => .fail 1
  | l + 1, table =>
    match s.walkEntry wc aspace va k repl (l + 1) table with
    | .inl r => r
    | .inr t => s.walkFrom wc aspace va k repl l t

/-- The table entries of levels 3 to 1 that a walk passes through, for the walk cache (04 R97). -/
def State.walkTables (s : State) (wc : List WalkCacheEntry) (va : Nat) : Nat → Nat → List WalkCacheEntry
  | 0, _ => []
  | l + 1, table =>
    let pa := table + 8 * levelIndex (l + 1) va
    match s.walkEntry wc 0 va .load none (l + 1) table with
    | .inl _ => []
    | .inr t => ⟨pa, BitVec.ofNat 64 (t / 2 ^ 8 * 2 ^ 16 + 1)⟩ :: s.walkTables wc va l t

/-- The VA region of pad windows (08 R181). -/
def windowBase : Nat := 0x01FF_FFFF_0000_0000

/-- The root table of an address space (04 R92). -/
def State.rootOf (s : State) (aspace : Nat) : Nat := fld (s.host.aspaces.getD aspace 0).toNat 17 35 * 2 ^ 17

/-- A whole walk from the address-space table (04 R92). A leaf that maps part of the window region is never used (08 R181). A
root in a peer window, for which the spec names no row, is taken as malformed (log entry 80). -/
def State.walk (s : State) (wc : List WalkCacheEntry) (aspace va : Nat) (k : AccKind) (repl : Option Nat) : WalkRes :=
  let e := s.host.aspaces.getD aspace 0
  if windowBase ≤ va || !bitAt e.toNat 0 then .fail 0
  else if fld e.toNat 52 12 != 0 || fld e.toNat 1 16 != 0 || !isHbm (fld e.toNat 17 35 * 2 ^ 17) then .fail 1
  else s.walkFrom wc aspace va k repl 3 (fld e.toNat 17 35 * 2 ^ 17)

/-- The load of one entry by a walker: an ordinary load under slot 0 at its home slice (04 R99), unless the walk cache has it. -/
def State.loadEntry (s : State) (wc : List WalkCacheEntry) (level pa : Nat) : State :=
  if (level != 0 && wc.any (·.pa == pa)) || !isHbm pa then s else (s.lineLoad (pa / 64) 0 0).2

/-- The loads of a walk from a level down. -/
def State.loadsFrom (s : State) (wc : List WalkCacheEntry) (va : Nat) : Nat → Nat → State
  | 0, table => s.loadEntry wc 0 (table + 8 * levelIndex 0 va)
  | l + 1, table =>
    let s := s.loadEntry wc (l + 1) (table + 8 * levelIndex (l + 1) va)
    match s.walkEntry wc 0 va .load none (l + 1) table with
    | .inl _ => s
    | .inr t => s.loadsFrom wc va l t

/-- The loads of a walk: with the entries in L2, the walk reads them there. -/
def State.walkLoads (s : State) (wc : List WalkCacheEntry) (aspace va : Nat) : State :=
  if !bitAt (s.host.aspaces.getD aspace 0).toNat 0 || windowBase ≤ va || !isHbm (s.rootOf aspace) then s
  else s.loadsFrom wc va 3 (s.rootOf aspace)

/-- The PA of the leaf entry that maps a VA, found by the tables alone. -/
def State.leafPaFrom (s : State) (va : Nat) : Nat → Nat → Option Nat
  | 0, table =>
    let pa := table + 8 * levelIndex 0 va
    let e := (s.peekGran (pa / 8) 0).data
    if bitAt e.toNat 0 && bitAt e.toNat 1 then some pa else none
  | l + 1, table =>
    let pa := table + 8 * levelIndex (l + 1) va
    let e := (s.peekGran (pa / 8) 0).data
    if !bitAt e.toNat 0 then none
    else if bitAt e.toNat 1 then some pa
    else s.leafPaFrom va l (fld e.toNat 16 44 * 2 ^ 8)

def State.leafPa (s : State) (aspace va : Nat) : Option Nat :=
  let e := s.host.aspaces.getD aspace 0
  if bitAt e.toNat 0 then s.leafPaFrom va 3 (fld e.toNat 17 35 * 2 ^ 17) else none

/-- The TLB entry that covers a VA. -/
def tlbFind (l : List TlbEntry) (aspace va : Nat) : Option TlbEntry :=
  l.find? fun e => e.aspace == aspace && va / 2 ^ e.bits * 2 ^ e.bits == e.base

/-- Puts an entry in front of a TLB that holds `n` (04 R97; which entry leaves is timing). -/
def tlbPut (l : List TlbEntry) (n : Nat) (e : TlbEntry) : List TlbEntry :=
  (e :: l.filter fun x => !(x.aspace == e.aspace && x.base == e.base)).take n

/-- A core, at power-on contents if it has none yet. -/
def State.core (s : State) (c : Nat) : Core := s.cores.getD c Core.init

def State.setCore (s : State) (c : Nat) (f : Core → Core) : State := { s with cores := s.cores.set c (f (s.core c)) }

/-- A usable cached translation: in the micro-TLB of an issue slot (if one is named), the core TLB or the die TLB. An entry
whose leaf does not permit the access is looked up again by a walk (04 R97, R98). -/
def State.tlbLook (s : State) (core : Nat) (slot : Option Nat) (aspace va : Nat) (k : AccKind) (repl : Option Nat) :
    Option TlbEntry :=
  let c := s.core core
  let u := match slot with | some i => tlbFind (c.utlb.getD i []) aspace va | none => none
  let r := match u with
    | some e => some e
    | none => match tlbFind c.tlb aspace va with
      | some e => some e
      | none => tlbFind (s.dieTlb.getD (coreDie core) []) aspace va
  match r with
  | some e => if (permRow e.leaf k repl).isNone then some e else none
  | none => none

/-- A translation enters the TLBs of the issue slot (if one is named), the core and the die, and the table entries of its walk
the walk cache (R97, R98). -/
def State.fillTlb (s : State) (core aspace va : Nat) (slot : Option Nat) (e : TlbEntry) : State :=
  let die := coreDie core
  let wc := s.walkCache.getD die []
  let new := s.walkTables wc va 3 (s.rootOf aspace)
  let s := s.setCore core fun c => { c with
    tlb := tlbPut c.tlb 1024 e
    utlb := match slot with | some i => c.utlb.set i (tlbPut (c.utlb.getD i []) 32 e) | none => c.utlb }
  { s with
    oldTlb := addNew s.oldTlb e
    dieTlb := s.dieTlb.set die (tlbPut (s.dieTlb.getD die []) 32768 e)
    walkCache := s.walkCache.set die ((new ++ wc.filter fun x => !new.any (·.pa == x.pa)).take 256) }

/-- A translation for a unit that walks on its own account (reads of an entry record's lists, prefetches), with the loads of the
walk, the entries that it leaves in the TLBs and the walk cache, and the scruples of a damaged entry (R441). -/
def State.xlateFill (s : State) (core : Nat) (aspace va : Nat) (k : AccKind) (repl : Option Nat) : WalkRes × State :=
  match s.tlbLook core none aspace va k repl with
  | some e => (.ok e, s)
  | none =>
    let wc := s.walkCache.getD (coreDie core) []
    let s := s.walkLoads wc aspace va
    match s.walk wc aspace va k repl with
    | .ok e => (.ok e, s.fillTlb core aspace va none e)
    | .damaged c pa => (.damaged c pa, s.walkScruples (some core) pa)
    | r => (r, s)

/-- The physical address that a TLB entry gives a VA. -/
def TlbEntry.pa (e : TlbEntry) (va : Nat) : Nat := leafPage e.leaf + va % 2 ^ e.bits

/-- Where a translated access of a core goes: a replicated page is read and written on the core's own die (04 R89). -/
def TlbEntry.place (e : TlbEntry) (va core : Nat) : Place :=
  let pa := e.pa va
  if isPeer pa then .peer pa
  else if leafRep e.leaf && coreDie core == 1 then .dev (pa + dieBytes) pa
  else .dev pa pa

/-! ## Addresses of a gang -/

/-- The key of a thread in the table: gang, crew, home lane. -/
def tkey (g c l : Nat) : Nat := g * 1024 + c * 32 + l
def ckey (g c : Nat) : Nat := g * 32 + c
def gangOf (t : Nat) : Nat := t / 1024
def crewOf (t : Nat) : Nat := t / 32 % 32
def laneOf (t : Nat) : Nat := t % 32
def ckOf (t : Nat) : Nat := t / 32

/-- The offset of the tile-store backing in a context area: after the pad backing, in whole acres (15 R334, log
entry 14). -/
def Gang.tileBase (g : Gang) : Nat := 0x10_0000 + (g.kernel.pad + 4095) / 4096 * 4096

/-- The PA of an offset in a gang's context area (02 R45). -/
def Gang.ctxPa (g : Gang) (off : Nat) : Nat := g.pages.getD (off / 65536) 0 + off % 65536

/-- The PA of a pad offset's backing, and of a tile-store offset's. -/
def Gang.padPa (g : Gang) (off : Nat) : Nat := g.ctxPa (0x10_0000 + off)
def Gang.tilePa (g : Gang) (off : Nat) : Nat := g.ctxPa (g.tileBase + off)

/-- The base VA of a thread's backing stack (15 R334). -/
def Gang.stackBase (g : Gang) (crew lane : Nat) : Nat :=
  g.stackVa + (g.set * g.crewsMax * 32 + 32 * crew + lane) * g.stackS

/-- The VA of slot `i` and of its kind word in a backing stack at `b` (09 R204, R209). -/
def Gang.slotVa (g : Gang) (crew lane i : Nat) : Nat := g.stackBase crew lane + 128 + g.stackN / 8 + 8 * i
def Gang.kindVa (g : Gang) (crew lane i : Nat) : Nat := g.stackBase crew lane + 128 + 8 * (i / 64)

/-- The launch slot of a gang whose launch is replayable (04 R95). -/
def State.replSlot (s : State) (g : Gang) : Option Nat :=
  match s.launches.get? g.slot with
  | some l => if l.kernel.replayable then some g.slot else none
  | none => none

/-- The granule of a gang's pad or tile store at a backing PA, in the pool. -/
def State.poolGran (s : State) (pa : Nat) : Gran := s.pool.gran (pa / 8)

end Sys2Proof.Machine
end

