-- ==== Sys2Proof/Machine/Control.lean ====
section
/-! DEFINITION. The control state of one thread: completing an instruction, the end-of-body step, arrival at a meeting
point (14 R304 to R320), and access to the tables of threads, crews, gangs, spans and launches. -/

namespace Sys2Proof.Machine

/-! ## Tables -/

def State.setT (s : State) (t : Nat) (x : Thread) : State := { s with threads := s.threads.set t x }
def State.modT (s : State) (t : Nat) (f : Thread → Thread) : State := { s with threads := s.threads.modify t f }
def State.modC (s : State) (c : Nat) (f : Crew → Crew) : State := { s with crews := s.crews.modify c f }
def State.modG (s : State) (g : Nat) (f : Gang → Gang) : State := { s with gangs := s.gangs.modify g f }
def State.modS (s : State) (n : Nat) (f : Span → Span) : State := { s with spans := s.spans.modify n f }
def State.modL (s : State) (l : Nat) (f : Launch → Launch) : State := { s with launches := s.launches.modify l f }

/-- The keys of a gang's threads, of a crew's threads, and of a crew's live threads in home-lane order. -/
def State.gangThreads (s : State) (g : Nat) : List Nat := s.threads.keysWhere fun k _ => gangOf k == g
def State.crewThreads (s : State) (c : Nat) : List Nat := s.threads.keysWhere fun k _ => ckOf k == c
def State.liveThreads (s : State) (c : Nat) : List Nat := s.threads.keysWhere fun k t => ckOf k == c && t.live

/-- A function on each thread of a list. -/
def State.onThreads (s : State) (l : List Nat) (f : Thread → Thread) : State := l.foldl (fun s t => s.modT t f) s

/-- The greatest lt of a list of threads. -/
def State.maxLt (s : State) (l : List Nat) : Nat :=
  maxOf (l.map fun t => match s.threads.get? t with | some x => x.lt | none => 0)

/-- The code base of a thread's kernel (18 R394). -/
def State.codeBase (s : State) (t : Nat) : Nat :=
  match s.gangs.get? (gangOf t) with | some g => g.kernel.codeBase | none => 0

/-! ## Walks (04 R99) -/

/-- A walk for a page: joins the one in progress or starts one. -/
def State.joinWalk (s : State) (core aspace : Nat) (va : Nat) (w : Waiter) : Nat × State :=
  let die := coreDie core
  let vpn := va / 65536
  match s.walks.find? fun e => e.2.die == die && e.2.aspace == aspace && e.2.vpn == vpn with
  | some e => (e.1, { s with walks := s.walks.modify e.1 fun x => { x with waiters := x.waiters ++ [w] } })
  | none => (s.nextId, { s with
      nextId := s.nextId + 1, walks := s.walks.set s.nextId ⟨die, core, aspace, vpn, [w], []⟩ })

/-! ## Loops -/

/-- start(N) and end(N) of a loop level (14 R319). -/
def LoopLevel.first (l : LoopLevel) (cb : Nat) : Nat := cb + 2 * l.start.toNat
def LoopLevel.last (l : LoopLevel) (cb : Nat) : Nat := l.first cb + 2 * (l.len.toNat + 1)

/-- The active level that ends at `n` with its body around `i`: greatest start, on a tie the greatest N (14 R319). -/
def endingLevel (ls : Vector LoopLevel 3) (cb i n : Nat) : Option (Fin 3) :=
  maxBy (fun k : Fin 3 => ls[k].first cb * 4 + k.val)
    (([0, 1, 2] : List (Fin 3)).filter fun k =>
      ls[k].active && ls[k].last cb == n && decide (ls[k].first cb ≤ i))

/-- The end-of-body step after the instruction at `i`, followed by address `n` (14 R319): the PC and the levels. -/
def endOfBodyFuel (cb i n : Nat) : Nat → Vector LoopLevel 3 → Nat × Vector LoopLevel 3
  | 0, ls => (n, ls)
  | fuel + 1, ls =>
    match endingLevel ls cb i n with
    | none => (n, ls)
    | some k =>
      let l := ls[k]
      let c := l.count - 1
      if c != 0 then (l.first cb, ls.set k { l with count := c })
      else endOfBodyFuel cb i n fuel (ls.set k { l with count := c, active := false })

def endOfBody (cb i n : Nat) (ls : Vector LoopLevel 3) : Nat × Vector LoopLevel 3 := endOfBodyFuel cb i n 3 ls

/-- A taken transfer to `pc` ends the levels whose body does not hold it (14 R320). -/
def leaveLoops (cb pc : Nat) (ls : Vector LoopLevel 3) : Vector LoopLevel 3 :=
  ls.map fun l =>
    if l.active && !decide (l.first cb ≤ pc ∧ pc < l.last cb) then { l with active := false, count := 0 } else l

/-! ## Completing an instruction -/

/-- The thread's PC becomes `pc`: it arrives at its meeting point when the two are equal (14 R309). -/
def Thread.goto (t : Thread) (pc : Word) : Thread :=
  { t with pc, wait := if pc = t.mt then .meet else .none, due := false }

/-- An arrival in slot `n` of xpend (17 R369): kept, or dropped with LOST if the slot is valid. -/
def Thread.arrive (t : Thread) (n : Fin 3) (cause : Byte) (xval : Word) : Thread :=
  let p := t.pend[n]
  { t with pend := t.pend.set n (if p.valid then { p with lost := true } else ⟨true, p.lost, cause, xval⟩) }

/-- SINGLE_STEP after an instruction completed at depth 0 with XCTL.STEP (17 R369). -/
def Thread.stepped (t : Thread) (depth : Bool) : Thread :=
  if t.step && !depth then t.arrive 2 0x2A 0 else t

/-- Completes an instruction that does not transfer control, at the thread's PC, of `len` bytes (14 R319). -/
def Thread.finish (t : Thread) (cb len : Nat) : Thread :=
  let r := endOfBody cb t.pc.toNat (t.pc.toNat + len) t.loops
  ({ t with loops := r.2 }.goto (BitVec.ofNat 64 r.1)).stepped t.xdepth

/-- Completes an instruction that transfers control to `pc`. -/
def Thread.transfer (t : Thread) (pc : Word) : Thread := (t.goto pc).stepped t.xdepth

/-- Completes a 4-byte instruction for a thread that waits in it. -/
def State.finishT (s : State) (t : Nat) : State := s.modT t fun x => x.finish (s.codeBase t) 4

/-- Completes a crew-collective 4-byte instruction for every live thread of a crew. -/
def State.finishCrew (s : State) (c : Nat) : State := (s.liveThreads c).foldl (fun s t => s.finishT t) s

end Sys2Proof.Machine
end

