-- ==== Sys2Proof/Machine/Regs.lean ====
section
/-! DEFINITION. Reading registers: the window, the operand cache, perches and backing stacks (09 R204 to R214), and the sources
of an instruction with the effects of their reads (03 R55, R56, R58). -/

namespace Sys2Proof.Machine

/-- Why an instruction of a thread does not complete now. -/
inductive Stop where
  /-- A cause with its xval, and the PA of a failing granule (17 R367). -/
  | trap (cause : Byte) (xval : Word) (pa : Option Nat)
  /-- An access needs a walk: the VA, and whether it is the frame engine's (04 R99, 09 R223). -/
  | walk (va : Word) (kind : AccKind) (frame : Bool)
  /-- The fill/spill engine needs a line that is absent from L2: it is filled, and the instruction goes on (09 R207). -/
  | line (ln : Nat)
  /-- It stalls or blocks. -/
  | block (w : Wait)
  deriving DecidableEq, Repr

/-! ## The window -/

/-- Whether slot `i` lies in the resident range of a thread with window base `wb` and quota `f` (09 R206). -/
def residentIn (wb f i : Nat) : Bool :=
  let lo := if f ≤ 64 then wb else wb - (f - 64)
  decide (lo ≤ i ∧ i < lo + f)

def State.quota (s : State) (t : Nat) : Nat := match s.crews.get? (ckOf t) with | some c => c.quota | none => 0

def State.resident (s : State) (t : Nat) (x : Thread) (i : Nat) : Bool := residentIn x.wb (s.quota t) i

/-! ## The backing stack -/

/-- The VA of a thread's slot and of its kind word. -/
def State.slotVa (s : State) (t i : Nat) : Nat :=
  match s.gangs.get? (gangOf t) with | some g => g.slotVa (crewOf t) (laneOf t) i | none => 0
def State.kindVa (s : State) (t i : Nat) : Nat :=
  match s.gangs.get? (gangOf t) with | some g => g.kindVa (crewOf t) (laneOf t) i | none => 0

/-- Where a word of a backing stack lies: its PA, its grain address, and the copy on the other die if its page is replicated (04
R89). -/
structure FramePlace where
  pa : Nat
  gpa : Nat
  other : Option Nat
  deriving DecidableEq, Repr

/-- The place of a backing-stack VA, translated for the fill/spill engine of the thread's core (09 R204, log entry 15). What no TLB
of the core holds waits for a walk, which fills them or reports what it finds (04 R97, R99). -/
def State.framePa (s : State) (t va : Nat) (k : AccKind) : Except Stop FramePlace :=
  match s.gangs.get? (gangOf t) with
  | none => .error (.block .none)
  | some g =>
    match s.tlbLook g.core none g.aspace va k none with
    | some e =>
      let pa := e.pa va
      if !leafRep e.leaf then .ok ⟨pa, pa, none⟩
      else if coreDie g.core = 1 then .ok ⟨pa + dieBytes, pa, some pa⟩
      else .ok ⟨pa, pa, some (pa + dieBytes)⟩
    | none => .error (.walk (BitVec.ofNat 64 va) k true)

/-- A checked word of a backing stack, under key slot 0 (09 R207, R223), in a line that L2 holds. -/
def State.frameWord (s : State) (t va : Nat) : Except Stop Word := do
  let p ← s.framePa t va .load
  if (s.l2.get? (p.pa / 64)).isNone then .error (.line (p.pa / 64))
  else match s.peekWord p.pa p.gpa 0 with
    | .ok w => .ok w
    | .error c => .error (.trap c (BitVec.ofNat 64 va) (some p.gpa))

/-- Does what the fill/spill engine needs lines for, each filled when it is found absent. -/
def State.withLines (f : State → Except Stop α) : Nat → State → State × Except Stop α
  | 0, s => (s, f s)
  | n + 1, s =>
    match f s with
    | .error (.line ln) => State.withLines f n (s.fillLine ln)
    | r => (s, r)

/-- More lines than one instruction of a thread reads. -/
def lineFuel : Nat := 32

/-- The value of a slot in the backing stack: data and kind bit (09 R209). -/
def State.memVal (s : State) (t i : Nat) : Except Stop Val := do
  let d ← s.frameWord t (s.slotVa t i)
  let k ← s.frameWord t (s.kindVa t i)
  .ok ⟨d, k.getLsbD (i % 64)⟩

/-! ## Reading a slot -/

/-- Whether an unbound load will write a slot (08 R186). -/
def slotPending (accs : List Acc) (i : Nat) : Bool :=
  accs.any fun a => match a with
    | .load _ _ _ _ f j _ none _ _ =>
      decide (j ≤ i ∧ i < j + (match f with | .pair => 2 | .quad => 4 | .iv64 => 2 | _ => 1))
    | .atom _ _ _ _ _ _ j _ _ _ _ => i == j
    | _ => false

/-- Whether an unbound ldk of a crew will write k register `k`. The ldk stands with the crew's lowest live member. -/
def State.kPending (s : State) (c k : Nat) : Bool :=
  (s.liveThreads c).any fun t => match s.threads.get? t with
    | some x => x.accs.any fun a => match a with | .load _ _ _ _ _ _ _ (some j) _ _ => j == k | _ => false
    | none => false

/-- The accesses that a thread's registers wait for: its own and, for a shadow, its even thread's (17 R388). -/
def State.accsOf (s : State) (t : Nat) : List Acc :=
  let own := match s.threads.get? t with | some x => x.accs | none => []
  match s.gangs.get? (gangOf t) with
  | some g =>
    if g.kernel.protected_ && t % 2 == 1 then
      own ++ (match s.threads.get? (t - 1) with | some x => x.accs | none => [])
    else own
  | none => own

/-- The value of a slot where it now stands: operand cache, perch or backing stack (09 R211). A dead slot gives one of the
values it has held, the backing stack's among them (09 R213, log entry 2), the same to every source of one instruction (03
R56). -/
def State.slotVal (s : State) (t : Nat) (x : Thread) (i : Nat) : Except Stop Val :=
  if slotPending (s.accsOf t) i then .error (.block .regs)
  else
    let va := BitVec.ofNat 64 (s.slotVa t i)
    if x.dead.contains i then
      let cs := x.hist.getD i []
      match cs[Config.freeHeld x.deadReads t i % (cs.length + 1)]? with
      | some v => .ok v
      | none => s.memVal t i
    else match x.oc.get? i with
      | some e => if e.bad then .error (.trap 0x31 va none) else .ok e.v
      | none =>
        match x.perches.get? i with
        | some p => if p.bad then .error (.trap 0x31 va none) else .ok p.v
        | none => s.memVal t i

/-! ## Sources -/

/-- The slot that a source names, if it is a window register. -/
def srcSlot (x : Thread) : Src → Option Nat
  | .oc r | .last r | .direct r => some (x.wb + r.val)
  | .special _ => none

/-- How often a queue is popped by the sources before position `n`. -/
def popsBefore (srcs : List Src) (n : Nat) (q : QReg) : Nat := (srcs.take n).countP fun s => s == .special (.pop q)

/-- The visible lane index of a thread (03 R55, 17 R387). -/
def State.visLane (s : State) (t : Nat) : Nat :=
  match s.gangs.get? (gangOf t) with
  | some g => if g.kernel.protected_ then laneOf t / 2 else laneOf t
  | none => laneOf t

/-- Entry `n` of a queue register. -/
def State.qEntry (s : State) (t : Nat) (q : QReg) (n : Nat) : Option QEntry :=
  match s.gangs.get? (gangOf t) with | some g => (g.queues[q])[n]? | none => none

/-- The number of queue registers of a thread's gang (16 R356). -/
def State.queueCount (s : State) (t : Nat) : Nat :=
  match s.gangs.get? (gangOf t) with | some g => g.kernel.queues | none => 0

/-- Whether a thread is the shadow of a pair (17 R387), and the thread that stands for it in the queues: the even one. -/
def State.isShadow (s : State) (t : Nat) : Bool :=
  t % 2 == 1 && (match s.gangs.get? (gangOf t) with | some g => g.kernel.protected_ | none => false)
def State.lead (s : State) (t : Nat) : Nat := if s.isShadow t then t - 1 else t

/-- The bits of a member mask that name live threads of a crew: the others are ignored (10 R238, R240). -/
def State.memberBits (s : State) (ck m : Nat) : Nat :=
  (s.liveThreads ck).foldl (fun n u => if bitAt m (s.visLane u) then n ||| 2 ^ s.visLane u else n) 0

/-- Whether two threads of a crew are held in one lane group: at one PC with the same members (10 R238). -/
def State.sameGroup (s : State) (ck : Nat) (x y : Thread) : Bool :=
  match x.wait, y.wait with
  | .lane m, .lane n => x.pc == y.pc && s.memberBits ck m == s.memberBits ck n
  | _, _ => false

/-- The queue registers of a gang. -/
def State.queuesOf (s : State) (g : Nat) : Vector (List QEntry) 8 :=
  match s.gangs.get? g with | some x => x.queues | none => Vector.replicate 8 []
def State.setQueues (s : State) (g : Nat) (q : Vector (List QEntry) 8) : State := s.modG g fun x => { x with queues := q }

/-- Whether no other thread waits ahead of this one on a queue (16 R356): the waiters are served in order. A shadow takes what its
even thread takes (R357). -/
def State.popTurn (s : State) (t : Nat) (q : QReg) : Bool :=
  if s.isShadow t then true else match s.gangs.get? (gangOf t) with
  | some g => match g.pops.find? (·.1 == q.val) with | some e => e.2 == s.lead t | none => true
  | none => true

/-- The value of source number `n` of an instruction (03 R55). -/
def State.srcVal (s : State) (t : Nat) (x : Thread) (srcs : List Src) (n : Nat) (src : Src) : Except Stop Val :=
  match src with
  | .oc r | .last r | .direct r => s.slotVal t x (x.wb + r.val)
  | .special (.k k) =>
    if s.kPending (ckOf t) k.val then .error (.block .regs)
    else .ok ⟨match s.crews.get? (ckOf t) with | some c => c.k[k] | none => 0, false⟩
  | .special .l0 => if x.l0bad then .error (.trap 0x31 (Config.latchXval s.time t) none) else .ok ⟨x.l0.data, false⟩
  | .special .l1 => if x.l1bad then .error (.trap 0x31 (Config.latchXval s.time t) none) else .ok ⟨x.l1.data, false⟩
  | .special .zero => .ok ⟨0, false⟩
  | .special .lane => .ok ⟨BitVec.ofNat 64 (s.visLane t), false⟩
  | .special .ones => .ok ⟨BitVec.allOnes 64, false⟩
  | .special (.pop q) =>
    if s.queueCount t ≤ q.val then .error (.trap 0x05 s.cur.word none)
    else if !s.popTurn t q then .error (.block (.pop q.val))
    else match s.qEntry t q (popsBefore srcs n q) with
      | some e => .ok ⟨e.data, false⟩
      | none => .error (.block (.pop q.val))

/-- The order in which several stops of one instruction count (17 R368): decode causes, then POISON and other causes,
then stalls. -/
def Stop.rank : Stop → Nat
  | .trap 0x05 _ _ => 0
  | .trap _ _ _ => 1
  | .walk _ _ _ | .line _ => 2
  | .block _ => 3

/-- Reads every source, from position `n` on; of several stops the first in rank counts. -/
def State.readFrom (s : State) (t : Nat) (x : Thread) (srcs : List Src) : Nat → List Src → Except Stop (List Val)
  | _, [] => .ok []
  | n, a :: r =>
    match s.srcVal t x srcs n a, s.readFrom t x srcs (n + 1) r with
    | .ok v, .ok vs => .ok (v :: vs)
    | .error e, .ok _ => .error e
    | .ok _, .error e => .error e
    | .error e, .error f => .error (if e.rank ≤ f.rank then e else f)

/-- Reads the sources of an instruction (03 R56). -/
def State.readAll (s : State) (t : Nat) (srcs : List Src) : Except Stop (List Val) :=
  match s.threads.get? t with
  | some x => s.readFrom t x srcs 0 srcs
  | none => .error (.block .none)

/-- After its reads, one source takes effect on the caches (09 R211): level 0b00 fills the entry. The first read of a resident
slot fills its perch (09 R207). -/
def Thread.touch (x : Thread) (resident : Bool) (src : Src) (v : Val) : Thread :=
  match src with
  | .oc r =>
    let i := x.wb + r.val
    match x.oc.get? i with
    | some _ => x
    | none => { x with
        oc := x.oc.set i ⟨v, false, false⟩, dead := markSet x.dead i false
        perches := if resident && (x.perches.get? i).isNone then x.perches.set i ⟨v, false, false⟩ else x.perches }
  | .direct r | .last r =>
    let i := x.wb + r.val
    if resident && (x.oc.get? i).isNone && (x.perches.get? i).isNone && !x.dead.contains i then
      { x with perches := x.perches.set i ⟨v, false, false⟩ }
    else x
  | .special _ => x

/-- A last-use source frees its entry after all reads: the value is dead (03 R56, 09 R213). -/
def Thread.lastUse (x : Thread) (src : Src) : Thread :=
  match src with
  | .last r =>
    let i := x.wb + r.val
    match x.oc.get? i with
    | some _ => { x with oc := x.oc.erase i, dead := markSet x.dead i true }
    | none => x
  | _ => x

/-- The time that reading a source brings to a thread: of a popped entry, or of the completion that wrote a token
(16 R350, 05 R125). -/
def State.srcTime (s : State) (t : Nat) (srcs : List Src) (n : Nat) (src : Src) : Nat :=
  match src with
  | .special (.pop q) => match s.qEntry t q (popsBefore srcs n q) with | some e => e.time | none => 0
  | .special (.k k) => match s.crews.get? (ckOf t) with | some c => c.ktok.getD k.val 0 | none => 0
  | _ => 0

def State.srcTimes (s : State) (t : Nat) (srcs : List Src) : Nat → List Src → Nat
  | _, [] => 0
  | n, a :: r => Nat.max (s.srcTime t srcs n a) (s.srcTimes t srcs (n + 1) r)

/-- Removes what the sources pop, and the thread from the waiters of those queues. -/
def State.popAll (s : State) (t : Nat) (srcs : List Src) : State :=
  srcs.foldl (fun s a => match a with
    | .special (.pop q) => s.modG (gangOf t) fun g =>
        { g with queues := g.queues.set q ((g.queues[q]).drop 1), pops := g.pops.filter fun e => !(e.2 == s.lead t) }
    | _ => s) s

/-- The effects of an instruction's reads, when it completes: fills, frees, pops, observed times (03 R56, R58). -/
def State.commit (s : State) (t : Nat) (srcs : List Src) (vals : List Val) : State :=
  match s.threads.get? t with
  | none => s
  | some x =>
    let lt := Nat.max x.lt (s.srcTimes t srcs 0 srcs)
    let dead := srcs.any fun a => match srcSlot x a with | some i => x.dead.contains i | none => false
    let y := (srcs.zip vals).foldl (fun y p =>
      y.touch (match srcSlot x p.1 with | some i => s.resident t x i | none => false) p.1 p.2) x
    let y := srcs.foldl Thread.lastUse y
    let uses := srcs.foldl (fun (u : Tab Nat) a => match srcSlot x a with
      | some i => if (x.oc.get? i).isSome || (y.oc.get? i).isSome then u.set i s.time else u
      | none => u) x.uses
    (s.setT t { y with lt, uses, deadReads := if dead then y.deadReads + 1 else y.deadReads }).popAll t srcs

/-! ## Sources of blocked instructions -/

/-- A thread whose queue pops take effect only when its instruction completes stands first among the queue's waiters. -/
def State.holdPops (s : State) (t : Nat) (srcs : List Src) : State :=
  srcs.foldl (fun s a => match a with
    | .special (.pop q) =>
      if s.isShadow t then s else s.modG (gangOf t) fun g => { g with pops := (q.val, t) :: g.pops }
    | _ => s) s

/-- Reads the sources of a member of a crew-collective instruction, with the effects of the reads. A shadow reads the queue
entries that its even thread has taken (16 R357); `before`: the queues as that one found them. -/
def State.readFor (s : State) (before : Vector (List QEntry) 8) (t : Nat) (srcs : List Src) :
    Except Stop (List Val × State) :=
  let g := gangOf t
  let s0 := if s.isShadow t then s.setQueues g before else s
  match s0.readAll t srcs with
  | .error e => .error e
  | .ok vs =>
    let s1 := s0.commit t srcs vs
    .ok (vs, if s.isShadow t then s1.setQueues g (s.queuesOf g) else s1)

/-- The sources of an instruction that waited take effect. -/
def State.commitHeld (s : State) (t : Nat) (srcs : List Src) : State :=
  match State.withLines (fun s => s.readAll t srcs) lineFuel s with
  | (s, .ok vs) => s.commit t srcs vs
  | (s, .error _) => s

/-- The same for threads in ascending home-lane order. A shadow reads the queue entries that its even thread has taken
(16 R357); `before`: the queues as that one found them. -/
def State.commitAll (srcs : List Src) (before : Vector (List QEntry) 8) : List Nat → State → State
  | [], s => s
  | t :: r, s =>
    let now := s.queuesOf (gangOf t)
    let s' := if s.isShadow t then ((s.setQueues (gangOf t) before).commitHeld t srcs).setQueues (gangOf t) now
      else s.commitHeld t srcs
    State.commitAll srcs now r s'

/-- A crew-collective instruction that waited completes for every live member. -/
def State.finishReq (s : State) (ck : Nat) (a : Src) : State :=
  let l := s.liveThreads ck
  l.foldl (fun s t => s.finishT t) (State.commitAll [a] (s.queuesOf (ck / 32)) l s)

end Sys2Proof.Machine
end

