-- ==== Sys2Proof/Machine/Contain.lean ====
section
/-! DEFINITION. Leaving and ending: coalescer entries sent, barriers and claims after a departure, crew departure, gang end,
kills and containment (08 R190, 16 R352, R353, 06 R145, R146, 15 R345, 17 R382 to R384, 05 R119). -/

namespace Sys2Proof.Machine

/-! ## Coalescer entries -/

/-- Sends one open entry of a core's issue slot: it becomes a message (08 R191). -/
def State.sendEntry (s : State) (core slot id : Nat) : State :=
  let l := (s.core core).coal.getD slot []
  match l.find? (·.1 == id) with
  | none => s
  | some e =>
    { s.setCore core fun c => { c with coal := c.coal.set slot (l.filter (·.1 != id)) } with
      msgs := s.msgs.set id ⟨e.2, .sent, s.nextId⟩, nextId := s.nextId + 1 }

/-- The entries of a list, oldest first, that satisfy a test or that bind before one of these: an older entry that shares a
thread with it, since a thread's stores bind in program order (05 R106). With them, their threads. -/
def withOlder (p : Nat → StoreEntry → Bool) (l : List (Nat × StoreEntry)) : List Nat × List Nat :=
  l.foldr (fun e acc =>
    if p e.1 e.2 || e.2.feeders.any (fun f => acc.2.contains f.1) then (e.1 :: acc.1, e.2.feeders.map (·.1) ++ acc.2)
    else acc) ([], [])

/-- Sends the entries of an issue slot that satisfy a test, and those that bind before them, oldest first. -/
def State.sendWhere (s : State) (core slot : Nat) (p : Nat → StoreEntry → Bool) : State :=
  (withOlder p ((s.core core).coal.getD slot [])).1.foldl (fun s i => s.sendEntry core slot i) s

/-- The core and issue slot of a crew. -/
def State.whereCrew (s : State) (c : Nat) : Nat × Nat :=
  match s.gangs.get? (c / 32), s.crews.get? c with
  | some g, some x => (g.core, x.slot % 4)
  | _, _ => (0, 0)

/-- Sends every open entry that holds a store of a thread (08 R190). -/
def State.sendThread (s : State) (t : Nat) : State :=
  let (core, slot) := s.whereCrew (ckOf t)
  s.sendWhere core slot fun _ e => e.feeders.any (·.1 == t)

/-- Sends every open entry of a gang's threads. -/
def State.sendGang (s : State) (g : Nat) : State :=
  match s.gangs.get? g with
  | none => s
  | some x =>
    [0, 1, 2, 3].foldl (fun s i => s.sendWhere x.core i fun _ e => e.feeders.any fun f => gangOf f.1 == g) s

/-! ## Barriers -/

/-- The number of set bits. -/
def popc (v : BitVec w) : Nat := (List.range w).countP fun i => v.getLsbD i

/-- An arrival of crew `j` (16 R352): ARR, SEEN, the ticket and BT. -/
def State.barArrive (s : State) (g j n : Nat) : State :=
  match s.gangs.get? g with
  | none => s
  | some x =>
    if h : n < 16 then
      let b := x.bars[n]
      let bt := Nat.max b.bt (s.maxLt (s.liveThreads (ckey g j)))
      let m : U32 := BitVec.ofNat 32 (2 ^ j)
      let s := s.modG g fun x => { x with bars := x.bars.set n { b with arr := b.arr ||| m, seen := b.seen ||| m, bt } }
      s.modC (ckey g j) fun c => { c with tp := c.tp.set n b.ph }
    else s

/-- A bar.wait that finds the phase complete: ticket, lt, completion (16 R352, R350). -/
def State.barLeave (s : State) (g j n : Nat) : State :=
  match s.gangs.get? g with
  | none => s
  | some x =>
    if h : n < 16 then
      let b := x.bars[n]
      let s := s.modC (ckey g j) fun c => { c with tp := c.tp.set n b.ph }
      let s := s.onThreads (s.liveThreads (ckey g j)) fun t => { t with lt := Nat.max t.lt b.bt }
      s.finishCrew (ckey g j)
    else s

/-- The crews of a gang whose live threads wait in `w`. -/
def State.crewsWaiting (s : State) (g : Nat) (w : Wait) : List Nat :=
  (List.range 32).filter fun j =>
    (s.liveThreads (ckey g j)).any fun t => match s.threads.get? t with | some x => x.wait == w | none => false

/-- One test of complete(N) (16 R352): a complete phase ends, and the crews that wait for it leave. -/
def State.barTest (s : State) (g n : Nat) : State :=
  match s.gangs.get? g with
  | none => s
  | some x =>
    if h : n < 16 then
      let b := x.bars[n]
      if b.exp ≤ popc b.arr then
        let s := s.modG g fun x => { x with bars := x.bars.set n { b with ph := b.ph + 1, arr := 0 } }
        (s.crewsWaiting g (.bar n false) ++ s.crewsWaiting g (.bar n true)).foldl (fun s j => s.barLeave g j n) s
      else s
    else s

/-- The first crew held at a second bar.arr of barrier `n` whose arrival no longer stands. -/
def State.heldArrival (s : State) (g n : Nat) : Option Nat :=
  match s.gangs.get? g with
  | some x => if h : n < 16 then (s.crewsWaiting g (.barArr n)).find? fun j => !(x.bars[n]).arr.getLsbD j else none
  | none => none

/-- complete(N) of 16 R352, tested after a change; the crews whose second arrivals a phase change releases arrive one after
another, and it is tested after each. -/
def State.barComplete (s : State) (g n : Nat) : Nat → State
  | 0 => s
  | fuel + 1 =>
    let s := s.barTest g n
    match s.heldArrival g n with
    | none => s
    | some j => ((s.barArrive g j n).finishCrew (ckey g j)).barComplete g n fuel

/-- complete(N) for a span barrier (16 R354). -/
def State.spanComplete (s : State) (sp n : Nat) : State :=
  match s.spans.get? sp with
  | none => s
  | some x =>
    if h : n < 4 then
      let b := x.bars[n]
      if b.exp ≤ popc b.arr then
        let ph := b.ph + 1
        let s := s.modS sp fun x => { x with bars := x.bars.set n { b with ph, arr := 0 } }
        x.members.foldl (fun s g => (s.crewsWaiting g (.span n)).foldl (fun s j =>
          let s := s.modC (ckey g j) fun c => { c with ts := c.ts.set n ph }
          let s := s.onThreads (s.liveThreads (ckey g j)) fun t => { t with lt := Nat.max t.lt b.bt }
          s.finishCrew (ckey g j)) s) s
      else s
    else s

/-! ## Claims -/

/-- Serves waiting claims in arrival order (06 R145). -/
def State.serveClaims (s : State) (g : Nat) : Nat → State
  | 0 => s
  | fuel + 1 =>
    match s.gangs.get? g with
    | none => s
    | some x =>
      match x.claims with
      | [] => s
      | (j, n, a) :: r =>
        if n ≤ x.pot.length then
          let s := s.modG g fun x => { x with claims := r, pot := x.pot.drop n }
          let s := s.modC (ckey g j) fun c => { c with quota := c.quota + n, perchMap := c.perchMap ++ x.pot.take n }
          (s.finishReq (ckey g j) a).serveClaims g fuel
        else s

/-! ## Waiters -/

/-- Takes waiters that satisfy a test out of walks and fault-buffer entries; an entry without waiters is freed
(04 R101). -/
def State.dropWaiters (s : State) (p : Waiter → Bool) : State :=
  { s with
    walks := (s.walks.mapVals fun _ w => { w with
      waiters := w.waiters.filter fun x => !p x, held := w.held.filter fun x => !p x.1 }).keep
      fun _ w => !(w.waiters.isEmpty && w.held.isEmpty)
    faults := (s.faults.mapVals fun _ f => { f with waiters := f.waiters.filter fun x => !p x.1 }).keep
      fun _ f => !f.waiters.isEmpty }

/-- The instance of a scope that contains a thread (05 R117). -/
def State.scopeInst (s : State) (t : Nat) (sc : Scope) : Nat :=
  match sc with
  | .gang => gangOf t
  | .span => match s.gangs.get? (gangOf t) with | some g => g.span | none => 0
  | .dev | .sys => 0

/-- The atom at which a thread waits, to bind without it (17 R383, R384). -/
def State.looseAtom (s : State) (t : Nat) : Option LooseAtom :=
  match s.threads.get? t, s.gangs.get? (gangOf t) with
  | some x, some g => x.accs.findSome? fun a => match a with
    | .atom _ (.dev pa gpa) w op sc key _ _ o c srcs =>
      some ⟨g.slot, g.core, pa, gpa, w, op, sc, s.scopeInst t sc, key, o, c, Nat.max x.lt (s.srcTimes t srcs 0 srcs)⟩
    | _ => none
  | _, _ => none

/-- The issued atoms of threads that are killed stay to be bound. -/
def State.loosen (s : State) (ts : List Nat) : State :=
  { s with loose := ts.foldl (fun l t => match s.looseAtom t with | some a => l.set t a | none => l) s.loose }

/-- Whether a waiter is a thread of a gang, or of a crew. -/
def Waiter.ofGang (g : Nat) : Waiter → Bool
  | .thread t _ _ | .frame t _ _ => gangOf t == g
  | .copy _ _ _ => false
def Waiter.ofCrew (c : Nat) : Waiter → Bool
  | .thread t _ _ | .frame t _ _ => ckOf t == c
  | .copy _ _ _ => false
def Waiter.ofCopy (c : Nat) : Waiter → Bool
  | .copy x _ _ => x == c
  | _ => false
def Waiter.ofThread (t : Nat) : Waiter → Bool
  | .thread x _ _ | .frame x _ _ => x == t
  | .copy _ _ _ => false

/-! ## Pool acres -/

/-- Acres return to the loan (06 R138). -/
def State.freeAcres (s : State) (core n : Nat) : State :=
  if n = 0 then s else s.setCore core fun c => { c with loan := c.loan + n, lastReturn := s.time }

/-- The gang that a request serves. -/
def ReqKind.gang : ReqKind → Nat
  | .resume g => g | .grow g _ _ _ => g | .talloc g _ _ _ _ => g | .admission g => g

/-- Withdraws requests that satisfy a test; their acres in DRAIN or FILL return to LOAN (06 R143). That is no
return of an acre for the benching test (log entry 83). -/
def State.withdraw (s : State) (core : Nat) (p : ReqKind → Bool) : State :=
  let back := (((s.core core).reqs.filter fun r => p r.kind && r.phase != .waiting).map (·.acres)).foldl (· + ·) 0
  s.setCore core fun c => { c with reqs := c.reqs.filter fun r => !p r.kind, loan := c.loan + back }

/-! ## Tags and checkouts of a gang that stops running -/

/-- Returns the lines checked out for a gang at .gang scope, and for its span at .span scope if no gang of the span runs
on, and clears their tags (05 R119). -/
def State.stopTags (s : State) (g : Nat) : State :=
  let spanStops := match s.gangs.get? g with
    | some x => match s.spans.get? x.span with
      | some sp => if sp.members.all fun m => m == g ||
          (match s.gangs.get? m with | some y => y.phase != .resident | none => true) then some x.span else none
      | none => none
    | none => none
  { s with l2 := s.l2.mapVals fun _ e =>
      match e.tag with
      | some ⟨.gang, i⟩ => if i == g then { e with tag := none, holder := .none, recalled := false } else e
      | some ⟨.span, i⟩ => if some i == spanStops then { e with tag := none, holder := .none, recalled := false } else e
      | _ => e }

/-! ## Departures and ends -/

/-- A crew leaves: barriers, span barriers, perches, rows (16 R353, R354, 06 R146, 09 R212). -/
def State.departCrew (s : State) (g j : Nat) : State :=
  match s.gangs.get? g, s.crews.get? (ckey g j) with
  | some x, some c =>
    if c.departed then s else
    let s := s.modC (ckey g j) fun c => { c with departed := true, quota := 0, perchMap := [], pins := [] }
    let s := s.onThreads (s.crewThreads (ckey g j)) fun t =>
      { t with live := false, oc := [], perches := [], wait := .none, due := false }
    let m : U32 := BitVec.ofNat 32 (2 ^ j)
    let s := s.modG g fun x => { x with
      pot := x.pot ++ c.perchMap
      claims := x.claims.filter fun e => e.1 != j
      pops := x.pops.filter fun e => ckOf e.2 != ckey g j
      pushes := x.pushes.filter fun e => ckOf e.2 != ckey g j
      bars := x.bars.map fun b =>
        { b with
          exp := if !b.xset || b.seen &&& m != 0 then b.exp - 1 else b.exp
          arr := b.arr &&& ~~~m, seen := b.seen &&& ~~~m } }
    let sm : BitVec 256 := BitVec.ofNat 256 (2 ^ (32 * x.spanPos + j))
    let s := s.modS x.span fun sp => { sp with bars := sp.bars.map fun b =>
      { b with exp := b.exp - 1, arr := b.arr &&& ~~~sm } }
    let s := (List.range 16).foldl (fun s n => s.barComplete g n 40) s
    let s := (List.range 4).foldl (fun s n => s.spanComplete x.span n) s
    s.serveClaims g 40
  | _, _ => s

/-- A grow of a crew gives back the slack perches that it has drawn (06 R143, R149). -/
def Gang.undraw (g : Gang) (j : Nat) : Gang :=
  { g with slack := g.slack ++ g.drawn.getD j [], drawn := g.drawn.erase j }

/-- The acres that a gang owns: what of its regions stands in the pool (06 R138). -/
def Gang.owned (g : Gang) : Nat := g.frameAcres + g.padAcres + g.tileAcres - g.gone.length

/-- Whether a gang in a phase stands on its core with its slots (17 R377). -/
def Phase.onCore : Phase → Bool
  | .listed | .admitting | .out | .ended => false
  | _ => true

/-- Whether a gang in a phase holds its gang set. -/
def Phase.hasSet (p : Phase) : Bool := p.onCore || p == .out

/-- What a gang gives back when it ends or is killed: acres, requests, list place, set, tags, its objects (15 R345,
17 R384). The launch keeps the greatest lt. -/
def State.releaseGang (s : State) (g : Nat) : State :=
  match s.gangs.get? g with
  | none => s
  | some x =>
    let lt := Nat.max x.padClock (s.maxLt (s.gangThreads g))
    let s := (s.loosen (s.gangThreads g)).stopTags g
    let s := s.withdraw x.core fun r => r.gang == g
    let s := s.freeAcres x.core x.owned
    let s := s.setCore x.core fun c => { c with glist := c.glist.filter (· != g) }
    let s := s.dropWaiters (Waiter.ofGang g)
    let s := s.modL x.slot fun l => { l with
      ct := Nat.max l.ct lt, sets := if x.phase.hasSet then l.sets.filter (· != x.set) else l.sets
      nodeQueue := l.nodeQueue.filter (· != g) }
    let s := s.modS x.span fun sp => { sp with members := sp.members.filter (· != g) }
    { s with
      spans := s.spans.keep fun _ sp => !sp.members.isEmpty
      threads := s.threads.keep fun k _ => gangOf k != g
      crews := s.crews.keep fun k _ => k / 32 != g
      gangs := s.gangs.erase g
      tileOps := s.tileOps.keep fun _ o => o.gang != g }

/-- A phase in which a gang can end: it has started, whether or not it runs now. -/
def Phase.canEnd : Phase → Bool
  | .prologue | .resident | .resuming | .ready true | .stopping _ | .preempted | .out | .halted => true
  | _ => false

/-- GANG_END: a gang that has crews, all of them departed, and whose copies have completed ends (15 R345). -/
def State.checkGangEnd (s : State) (g : Nat) : State :=
  match s.gangs.get? g with
  | none => s
  | some x =>
    if x.phase.canEnd && s.crews.any (fun c => c.1 / 32 == g)
        && ((s.crews.keysWhere fun k _ => k / 32 == g).all fun k =>
          match s.crews.get? k with | some c => c.departed | none => true)
        && (s.copies.keysWhere fun _ (c : Copy) => c.gang == g && !c.orphan).isEmpty then
      let s := s.releaseGang g
      s.modL x.slot fun l => if x.node.isNone then { l with done := l.done ++ [x.index] } else l
    else s

/-- The accepted copies of a killed gang wait for no fault entry: they leave the fault buffers, and the walks that found one full,
each with the row that it met (17 R384). -/
def State.leaveFaults (s : State) (g : Nat) : State :=
  let mine (w : Waiter) : Bool := match w with
    | .copy c _ _ => (match s.copies.get? c with | some x => x.gang == g | none => true)
    | _ => false
  let out := (s.faults.flatMap fun f => f.2.waiters) ++ s.walks.flatMap fun w => w.2.held
  let copies := s.copies.mapVals fun c x => match out.find? fun w => mine w.1 && w.1.ofCopy c with
    | some w => { x with phase := .faulted 0 0 w.2 }
    | none => x
  { s with
    copies
    walks := (s.walks.mapVals fun _ w => { w with held := w.held.filter fun x => !mine x.1 }).keep
      fun _ w => !(w.waiters.isEmpty && w.held.isEmpty)
    faults := (s.faults.mapVals fun _ f => { f with waiters := f.waiters.filter fun x => !mine x.1 }).keep
      fun _ f => !f.waiters.isEmpty }

/-- The copies of a gang that is killed: unaccepted ones are discarded, accepted ones left without their token and without their wait
for the driver (17 R384). -/
def State.orphanCopies (s : State) (g : Nat) : State :=
  { s with copies := (s.copies.keep fun _ (c : Copy) => !(c.gang == g && decide (c.phase = CopyPhase.queued))).mapVals fun _ c =>
      if c.gang == g then { c with orphan := true, env := s.gangs.get? g } else c }.leaveFaults g

/-- Kills a gang: entries sent, copies left, everything it holds released (17 R384). -/
def State.killGang (s : State) (g : Nat) : State := ((s.sendGang g).orphanCopies g).releaseGang g

/-- DETAIL of a trigger: the gang index, all ones for a node gang (17 R386). -/
def Gang.detail (g : Gang) : Nat := if g.node.isSome then 0xFFFF_FFFF else g.index

/-- CONTAINMENT: kills the launch in a slot (17 R383 step 1). Later triggers count only as the last trigger: the first decides
whether the launch is killed by a fatal one. -/
def State.contain (s : State) (slot : Nat) (cause : Nat) (detail : Nat) (fatal : Bool) : State :=
  match s.launches.get? slot with
  | none => s
  | some l =>
    let s := s.modL slot fun l => { l with
      trigger := some (cause, detail), fatal := if l.status == .killed then l.fatal else fatal }
    if l.status == .killed then s
    else
      let s := (s.gangs.keysWhere fun _ g => g.slot == slot).foldl (fun s g => s.killGang g) s
      let s := s.modL slot fun l => { l with
        status := .killed, nodeQueue := []
        nodes := l.nodes.map fun n => { n with head := 0, count := 0, times := [] } }
      s.logEvent (.contained l.lid)

/-- Kills one crew: its threads stop, entries are sent, it departs (17 R384). -/
def State.killCrew (s : State) (g j : Nat) : State :=
  let s := (s.crewThreads (ckey g j)).foldl (fun s t => s.sendThread t) s
  let s := s.dropWaiters (Waiter.ofCrew (ckey g j))
  let s := match s.gangs.get? g with
    | some x => s.withdraw x.core fun r => match r with
        | .grow a b _ _ => a == g && b == j
        | .talloc a b _ _ _ => a == g && b == j
        | _ => false
    | none => s
  let s := s.modG g fun y => { y.undraw j with tallocs := y.tallocs.filter (·.1 != j) }
  let s := (s.loosen (s.crewThreads (ckey g j))).onThreads (s.crewThreads (ckey g j)) fun t => { t with accs := [] }
  (s.departCrew g j).checkGangEnd g

/-- A whole gang that the debugger kills: its copies are left, each crew departs, and it has ended (17 R379, R384, 15 R345); one that
has not started goes as it is. -/
def State.killWhole (s : State) (g : Nat) : State :=
  let s := (s.sendGang g).orphanCopies g
  match s.gangs.get? g with
  | none => s
  | some x =>
    if x.phase.canEnd then
      ((s.crews.keysWhere fun k c => k / 32 == g && !c.departed).foldl (fun s k => s.killCrew g (k % 32)) s).checkGangEnd g
    else (s.releaseGang g).modL x.slot fun l => if x.node.isNone then { l with done := l.done ++ [x.index] } else l

end Sys2Proof.Machine
end

