-- ==== Sys2Proof/Machine/Frames.lean ====
section
/-! DEFINITION. Writing registers and moving them between the operand cache, perches and backing stacks, with the reports of
the fill/spill engine (03 R57, 09 R207 to R223). -/

namespace Sys2Proof.Machine

/-! ## The context area -/

/-- Writes words to a context area, as the processors and engines do: under key slot 0, without a timestamp. -/
def State.ctxWrite (s : State) (g : Gang) (off : Nat) (l : List Word) : State :=
  (l.zipIdx).foldl (fun s w => s.pokeWord (g.ctxPa (off + 8 * w.2)) 0 w.1) s

/-- A delivered cause and its value enter the thread's trap record in the context area (17 R365, R381). -/
def State.recordTrap (s : State) (g : Gang) (t : Nat) (v xcause : Word) : State :=
  s.ctxWrite g (0x1_0000 + 256 * (t % 1024) + 8) [v, xcause]

/-! ## Spills -/

/-- FRAME causes that reach threads at one moment (17 R369), as thread, cause and xval: held at depth 1; delivered at depth 0, where
each thread's trap record takes the first of its causes, and the launch is contained (R382). -/
def State.frameCauses (s : State) (l : List (Nat × Byte × Word)) : State :=
  let top (e : Nat × Byte × Word) : Bool := match s.threads.get? e.1 with | some x => !x.xdepth | none => false
  let s1 := l.foldr (fun e s => match s.gangs.get? (gangOf e.1) with
    | some g => if top e then s.recordTrap g e.1 e.2.2 (BitVec.ofNat 64 (e.2.1.toNat + 256)) else s
    | none => s) s
  let s2 := l.foldl (fun s e => if top e then s else s.modT e.1 fun x => x.arrive 0 e.2.1 e.2.2) s1
  (l.filter top).foldl (fun s2 e => match s.gangs.get? (gangOf e.1) with
    | some g => s2.contain g.slot e.2.1.toNat g.detail false
    | none => s2) s2

/-- A FRAME cause of a thread; `pa`: the failing granule. -/
def State.asyncFrame (s : State) (t : Nat) (cause : Byte) (xval : Word) (pa : Option Nat) : State :=
  match s.gangs.get? (gangOf t) with
  | some g => (match pa with | some p => s.checkScruples cause (some g.core) p | none => s).frameCauses [(t, cause, xval)]
  | none => s

/-- Writes a granule of a backing stack, in both copies of a replicated page (04 R89, log entry 15). -/
def State.pokeFrame (s : State) (p : FramePlace) (v : Word) (bad : Bool) : State :=
  let g : Gran := { Gran.mk' v p.gpa with poison := bad }
  let s := s.pokeGrans (p.pa / 64) 0 [(p.pa / 8 % 8, g)]
  match p.other with
  | some o => s.pokeGrans (o / 64) 0 [(o / 8 % 8, g)]
  | none => s

/-- The value that a slot's place in the backing stack holds until it is overwritten stays among those that the slot has held (09
R213). -/
def State.keepInitial (s : State) (t i : Nat) : State :=
  match State.withLines (fun s => s.memVal t i) lineFuel s with
  | (s, .ok v) => s.modT t fun x => { x with hist := x.hist.set i (addNew (x.hist.getD i []) v) }
  | (s, .error _) => s

/-- Writes a slot to the backing stack and merges its kind bit (09 R209). A bad value is written as a poisoned granule
(09 R214, 06 R153). -/
def State.spillSlot (s : State) (t i : Nat) (v : Val) (bad : Bool) : Except Stop State := do
  let p ← s.framePa t (s.slotVa t i) .store
  let k ← s.framePa t (s.kindVa t i) .store
  let s := ((s.keepInitial t i).pokeFrame p v.data bad).fillLine (k.pa / 64)
  match s.peekWord k.pa k.gpa 0 with
  | .ok w =>
    let b := BitVec.ofNat 64 (2 ^ (i % 64))
    .ok (s.pokeFrame k (if v.kind then w ||| b else w &&& ~~~b) false)
  | .error c => .ok (s.asyncFrame t c (BitVec.ofNat 64 (s.kindVa t i)) (some k.gpa))

/-- A move of the fill/spill engine that needs a walk (09 R223, 04 R99, R101): the walk reports what it finds to the thread
that owns the frame, and the thread does not issue meanwhile. -/
def State.frameStop (s : State) (t : Nat) (st : Stop) : State :=
  match st, s.gangs.get? (gangOf t) with
  | .walk va k _, some g =>
    let r := s.joinWalk g.core g.aspace va.toNat (.frame t va k)
    r.2.modT t fun x => if x.wait = .none then { x with wait := .walk r.1 } else x
  | .trap c v pa, _ => s.asyncFrame t c v pa
  | .line ln, _ => s.fillLine ln
  | _, _ => s

/-! ## Destinations -/

/-- Writes a slot as K directs (03 R57, 09 R211). The value joins those that the slot has held (09 R213). -/
def State.writeSlot (s : State) (t i : Nat) (v : Val) (k : Bool) : Except Stop State :=
  match s.threads.get? t with
  | none => .ok s
  | some x =>
    if slotPending (s.accsOf t) i then .error (.block .regs)
    else
      let held := x.hist.getD i [] ++ [v]
      let note (y : Thread) : Thread := { y with hist := y.hist.set i held, dead := markSet y.dead i false }
      if k then .ok (s.setT t (note { x with oc := x.oc.set i ⟨v, true, false⟩, uses := x.uses.set i s.time }))
      else if s.resident t x i then
        .ok (s.setT t (note { x with oc := x.oc.erase i, perches := x.perches.set i ⟨v, true, false⟩ }))
      else do
        let s ← s.spillSlot t i v false
        .ok (s.modT t fun x => { x with
          oc := x.oc.erase i, perches := x.perches.erase i, hist := x.hist.set i (x.hist.getD i [] ++ [v]), dead := markSet x.dead i false })

/-- Writes values to window registers from `r` up. -/
def State.writeRegs (s : State) (t : Nat) (r : Nat) (k : Bool) : List Val → Except Stop State
  | [] => .ok s
  | v :: vs =>
    match s.threads.get? t with
    | none => .ok s
    | some x => do
      let s ← s.writeSlot t (x.wb + r) v k
      s.writeRegs t (r + 1) k vs

/-- Shifts a result into the latches (09 R215). -/
def Thread.latch (x : Thread) (v : Val) : Thread :=
  { x with l1 := x.l0, l1bad := x.l0bad, l0 := v, l0bad := false }

/-! ## Moves of the resident range -/

/-- Spills and drops the perches of a thread that lie outside its resident range; a perch whose spill faults keeps its
value (09 R207, R223). Answers the first such stop. -/
def State.rangeMove (s : State) (t : Nat) : State × Option Stop :=
  match s.threads.get? t with
  | none => (s, none)
  | some x =>
    let outs := x.perches.keysWhere fun i _ => !s.resident t x i
    outs.foldl (fun (s, e) i =>
      match x.perches.get? i with
      | none => (s, e)
      | some p =>
        if p.modified then
          match s.spillSlot t i p.v p.bad with
          | .ok s' => (s'.modT t fun x => { x with perches := x.perches.erase i }, e)
          | .error st => (s, match e with | some _ => e | none => some st)
        else (s.modT t fun x => { x with perches := x.perches.erase i }, e)) (s, none)

/-- The moves of a thread whose window or quota has changed. Those that a fault on the backing stack holds up stay to be made:
their perches lie outside the resident range with values to spill (R207, R223). -/
def State.moveRange (s : State) (t : Nat) : State :=
  match s.rangeMove t with
  | (s, none) => s
  | (s, some st) => s.frameStop t st

/-- Whether a thread has moves to be made. -/
def State.movesLeft (s : State) (t : Nat) : Bool :=
  match s.threads.get? t with
  | some x => x.perches.any fun e => !s.resident t x e.1
  | none => false

/-- Frees the entries above the window without write-back (09 R212): their values are dead. -/
def Thread.freeAbove (x : Thread) : Thread :=
  let gone := x.oc.keysWhere fun i _ => decide (x.wb + 63 < i)
  { x with
    oc := x.oc.keep fun i _ => !decide (x.wb + 63 < i)
    dead := gone.foldl (fun d i => markSet d i true) x.dead }

/-- Writes one entry back if it is dirty, to its perch if the slot is resident, else to the backing stack, and frees it
(09 R212, R221). -/
def State.writeBack (s : State) (t i : Nat) : Except Stop State :=
  match s.threads.get? t with
  | none => .ok s
  | some x =>
    match x.oc.get? i with
    | none => .ok s
    | some e =>
      if !e.dirty then .ok (s.setT t { x with oc := x.oc.erase i })
      else if s.resident t x i then
        .ok (s.setT t { x with
          perches := x.perches.set i ⟨e.v, true, e.bad⟩, oc := x.oc.erase i })
      else do
        let s ← s.spillSlot t i e.v e.bad
        .ok (s.modT t fun x => { x with oc := x.oc.erase i, perches := x.perches.erase i })

end Sys2Proof.Machine
end

