-- ==== Sys2Proof/Machine/Ops.lean ====
section
/-! DEFINITION. The shared operations of instructions: taking a trap and returning from one (17 R365, R374), blocking and
withdrawing, and how a bundle performs an instruction thread by thread, pair by pair (17 R387 to R389) or once for the
crew (14 R311). -/

namespace Sys2Proof.Machine

/-! ## Causes (17 R367) -/

def cILLEGAL : Byte := 0x01
def cRESERVED : Byte := 0x02
def cLIFETIME : Byte := 0x03
def cCONVERGENCE : Byte := 0x04
def cSPECIAL : Byte := 0x05
def cFETCH_BOUND : Byte := 0x08
def cFETCH_FAULT : Byte := 0x09
def cTRANSLATION : Byte := 0x10
def cPROTECTION : Byte := 0x11
def cALIGNMENT : Byte := 0x12
def cSCOPE : Byte := 0x13
def cOWNER : Byte := 0x14
def cGRAIN : Byte := 0x18
def cHDR_INTEGRITY : Byte := 0x19
def cHDR_MISMATCH : Byte := 0x1A
def cUNSUPPORTED : Byte := 0x1B
def cEMPTY : Byte := 0x1C
def cNO_PLAN : Byte := 0x1D
def cDEADLOCK : Byte := 0x20
def cPOOL_LIMIT : Byte := 0x21
def cSTACK_LIMIT : Byte := 0x22
def cBREAKPOINT : Byte := 0x28
def cSOFTWARE : Byte := 0x29
def cSINGLE_STEP : Byte := 0x2A
def cSHADOW : Byte := 0x30
def cPOISON : Byte := 0x31

/-- The data triggers (17 R382). -/
def isData (c : Byte) : Bool := c == cFETCH_FAULT || c == cGRAIN || c == cSHADOW || c == cPOISON

/-! ## Waiting lists -/

/-- Takes a thread out of the queue waiters of its gang. -/
def State.leaveQueues (s : State) (t : Nat) : State :=
  s.modG (gangOf t) fun g => { g with
    pops := g.pops.filter (·.2 != s.lead t), pushes := g.pushes.filter (·.2 != s.lead t) }

/-- Puts threads among the waiters of a queue, `n` places each, unless they stand there. -/
def State.joinPops (s : State) (g q n : Nat) (ts : List Nat) : State :=
  s.modG g fun x => { x with
    pops := x.pops ++ (ts.filter fun t => !s.isShadow t && !x.pops.contains (q, t)).flatMap fun t => List.replicate n (q, t) }
def State.joinPushes (s : State) (q t : Nat) : State :=
  if s.isShadow t then s
  else s.modG (gangOf t) fun g => if g.pushes.contains (q, t) then g else { g with pushes := g.pushes ++ [(q, t)] }

/-! ## Trap entry (17 R365) -/

/-- The thread's part of trap entry: `xpc` and `xcause` as given. -/
def Thread.enterTrap (x : Thread) (cb : Nat) (xcause xval xpc : Word) : Thread :=
  { x with
    xpc, xcause, xval, xdepth := true
    save := ⟨x.mt, x.l0, x.l1, x.l0bad, x.l1bad, x.preds, x.loops⟩
    mt := 1
    loops := x.loops.map fun l => { l with active := false }
    wb := x.wb + 64
    pc := BitVec.ofNat 64 (cb + 2 * (x.xvec.toNat % 2 ^ 32))
    wait := .none, due := false }

/-- Whether a thread can take a trap in its handler: depth 0, a handler set, room for the handler window (17 R365). -/
def Thread.canHandle (x : Thread) (n : Nat) : Bool :=
  !x.xdepth && x.xvec.toNat % 2 ^ 32 != 0 && decide (x.wb + 128 ≤ n)

/-- deliver(c, v, i) of 17 R365, with xpc as the caller gives it; `async`: from an xpend slot; `pa`: the failing granule.
-/
def State.deliver (s : State) (t : Nat) (c : Byte) (v : Word) (xpc : Word) (async : Bool) (pa : Option Nat) : State :=
  match s.threads.get? t, s.gangs.get? (gangOf t) with
  | some x, some g =>
    let xcause := BitVec.ofNat 64 (c.toNat + if async then 256 else 0)
    let s := s.recordTrap g t v xcause
    if isData c then
      let s := match pa with | some p => s.checkScruples c (some g.core) p | none => s
      let s := if c = cSHADOW then s.addScruples (.core g.core) 64 else s
      s.contain g.slot c.toNat g.detail false
    else if x.canHandle g.stackN then
      ((s.leaveQueues t).setT t (x.enterTrap g.kernel.codeBase xcause v xpc)).moveRange t
    else s.contain g.slot c.toNat g.detail true
  | _, _ => s

/-- A precise cause at the thread's instruction; SOFTWARE returns after the trap instruction (17 R365, log entry 16). -/
def State.trapT (s : State) (t : Nat) (c : Byte) (v : Word) (pa : Option Nat) : State :=
  match s.threads.get? t with
  | some x => s.deliver t c v (if c = cSOFTWARE then x.pc + 4 else x.pc) false pa
  | none => s

/-! ## Return from a trap (17 R374) -/

/-- The thread's part of tret at depth 1: window, trap save, depth, PC. What is left of a sleep stays only where the thread returns to
it (16 R360). -/
def Thread.leaveTrap (x : Thread) : Thread :=
  ({ { x with wb := x.wb - 64 }.freeAbove with
      mt := x.save.mt, l0 := x.save.l0, l1 := x.save.l1, l0bad := x.save.l0bad, l1bad := x.save.l1bad, preds := x.save.preds, loops := x.save.loops
      xdepth := false, sleepLeftX := none, sleepLeft := x.sleepLeft.filter fun e => e.1 == x.xpc }).goto x.xpc

/-- The first valid slot of xpend, FRAME first. -/
def Thread.firstPend (x : Thread) : Option (Fin 3) := ([0, 1, 2] : List (Fin 3)).find? fun n => x.pend[n].valid

/-- Delivers the first held cause, at the thread's PC (17 R369, R374). -/
def State.deliverPend (s : State) (t : Nat) : State :=
  match s.threads.get? t with
  | none => s
  | some x =>
    match x.firstPend with
    | none => s
    | some n =>
      let p := x.pend[n]
      (s.setT t { x with pend := x.pend.set n { p with valid := false } }).deliver t p.cause p.xval x.pc true none

/-- tret for a thread at depth 1. -/
def State.tretT (s : State) (t : Nat) : State :=
  match s.threads.get? t with
  | none => s
  | some x => ((s.setT t x.leaveTrap).moveRange t).deliverPend t

/-! ## Stops -/

/-- Records that a thread does not complete its instruction now. -/
def State.stopT (s : State) (t : Nat) (st : Stop) : State :=
  match st with
  | .trap c v pa => s.trapT t c v pa
  | .block w =>
    let s := s.modT t fun x => { x with wait := w }
    match w with
    | .pop q => s.joinPops (gangOf t) q 1 [t]
    | .push q => s.joinPushes q t
    | .turn k => (s.sendThread t).joinPushes k t
    | .bin n => s.joinPushes (8 + n) t
    | .drain | .classes _ _ | .ports => s.sendThread t
    | _ => s
  | .line ln => s.fillLine ln
  | .walk va k frame =>
    match s.gangs.get? (gangOf t) with
    | none => s
    | some g =>
      let r := s.joinWalk g.core g.aspace va.toNat (if frame then .frame t va k else .thread t va k)
      r.2.modT t fun x => { x with wait := .walk r.1 }

/-- Stops of several threads at one moment, in order: every cause stands in its thread's trap record before the first of them can
contain the launch (17 R365, R382). -/
def State.stopAll (s : State) (l : List (Nat × Stop)) : State :=
  let s := if l.length ≤ 1 then s else l.foldr (fun e s => match e.2, s.gangs.get? (gangOf e.1) with
    | .trap c v _, some g => s.recordTrap g e.1 v (BitVec.ofNat 64 c.toNat)
    | _, _ => s) s
  l.foldl (fun s e => s.stopT e.1 e.2) s

/-- What is left of a sleep at the thread's depth, with its PC; of the sleep at which the thread stands (16 R360). -/
def Thread.sleepKept (x : Thread) : Option (Word × Nat) :=
  (if x.xdepth then x.sleepLeftX else x.sleepLeft).filter fun e => e.1 == x.pc
def Thread.sleepRest (x : Thread) : Option Nat := x.sleepKept.map (·.2)

/-- Sets what is left of a sleep at the thread's depth. -/
def Thread.setSleep (x : Thread) (r : Option (Word × Nat)) : Thread :=
  if x.xdepth then { x with sleepLeftX := r } else { x with sleepLeft := r }

/-- Withdraws a thread's blocked instruction (17 R369, R377): requests, claims and waiting places are given up, a sleep
keeps its remainder, crew-mates at a crew-collective instruction are held again. -/
def State.withdrawT (s : State) (t : Nat) : State :=
  match s.threads.get? t with
  | none => s
  | some x =>
    let g := gangOf t
    let j := crewOf t
    let s := (s.leaveQueues t).dropWaiters (Waiter.ofThread t)
    let s := match x.wait with
      | .claim => s.modG g fun y => { y with claims := y.claims.filter (·.1 != j) }
      | .grow | .talloc =>
        let s := s.modG g fun y => { y.undraw j with tallocs := y.tallocs.filter (·.1 != j) }
        match s.gangs.get? g with
        | some y => s.withdraw y.core fun r => match r with
            | .grow a b _ _ => a == g && b == j
            | .talloc a b _ _ _ => a == g && b == j
            | _ => false
        | none => s
      | _ => s
    let left (y : Thread) : Thread := match x.wait with
      | .sleep till _ => y.setSleep (some (x.pc, till - s.time))
      | _ => y
    let mates := (s.liveThreads (ckOf t)).filter fun u => match s.threads.get? u with
      | some y => y.due && (match x.wait with | .lane _ => s.sameGroup (ckOf t) x y | _ => true)
      | none => false
    let s := if x.due then mates.foldl (fun s u => (s.leaveQueues u).modT u fun y =>
        { y with wait := (match y.wait with | .lane m => .lane m | _ => .coll), due := false }) s
      else s
    s.modT t fun y => { left y with wait := .none, due := false }

/-- Whether a thread waits at an instruction that has already issued its access: it cannot be withdrawn (17 R369,
08 R201). -/
def Thread.inAccess (x : Thread) : Bool :=
  x.accs.any fun a => match a with
    | .load _ _ _ _ _ _ _ _ held _ => held.isSome
    | .atom _ _ _ _ _ _ _ _ _ _ _ => true
    | .store _ _ _ | .joined _ => false

/-- A cause that arrives asynchronously in slot `n` (17 R369): at depth 0 the thread's instruction is withdrawn and the cause
waits for the next boundary; at depth 1 it is held. -/
def State.asyncCause (s : State) (t : Nat) (n : Fin 3) (c : Byte) (v : Word) : State :=
  match s.threads.get? t with
  | none => s
  | some x =>
    let s := if x.xdepth || x.wait == .none || x.inAccess then s else s.withdrawT t
    s.modT t fun y => y.arrive n c v

/-! ## One bundle, thread by thread -/

/-- What one thread does with an instruction: the state after, or why not. -/
abbrev LaneOp := State → Nat → Except Stop State

/-- An instruction performed per thread, with what a protected launch compares (17 R388): the operands that leave the
pair, the VA of an access, and whether the even thread performs it for both. -/
structure LaneInstr where
  op : LaneOp
  srcs : List Src
  sig : State → Nat → List Word
  va : State → Nat → Option Word
  once : Bool
  /-- What the shadow does instead, where that differs. -/
  shadow : Option LaneOp := none

/-- A thread's attempt at an instruction, with the lines that the fill/spill engine needs for it. -/
def State.tryLane (s : State) (op : LaneOp) (t : Nat) : State × Except Stop State :=
  State.withLines (fun s => op s t) lineFuel s

def Stop.isTrap : Stop → Bool | .trap _ _ _ => true | _ => false

/-- Performs an instruction for one thread; a cause is left to be taken when the other lanes of the bundle have completed (02 R50). -/
def State.runLane (s : State) (op : LaneOp) (t : Nat) : State × List (Nat × Stop) :=
  match s.threads.get? t with
  | none => (s, [])
  | some x =>
    if x.live then
      match s.tryLane op t with
      | (_, .ok s') => (s', [])
      | (s', .error st) => if st.isTrap then (s', [(t, st)]) else (s'.stopT t st, [])
    else (s, [])

/-- Reads and frees sources and completes: what the shadow of a pair does when its even thread acted for both. -/
def shadowOp (srcs : List Src) : LaneOp := fun s t =>
  match s.readAll t srcs with
  | .error e => .error e
  | .ok vs => .ok ((s.commit t srcs vs).modT t fun x => x.finish (s.codeBase t) s.cur.len)

/-- SHADOW_MISMATCH of both threads of the pair of even thread `t` (17 R389): of the pair's core, once. -/
def State.mismatchStops (s : State) (va : Option Word) (t : Nat) : List (Nat × Stop) :=
  let v := va.getD (match s.threads.get? t with | some x => x.pc | none => 0)
  [(t, .trap cSHADOW v none), (t + 1, .trap cSHADOW v none)]

def State.mismatch (s : State) (va : Option Word) (t : Nat) : State := s.stopAll (s.mismatchStops va t)

/-- Performs an instruction for the pair whose even thread is `t` (17 R387 to R389). -/
def State.runPair (s0 : State) (i : LaneInstr) (t : Nat) : State × List (Nat × Stop) :=
  match s0.threads.get? t with
  | none => (s0, [])
  | some x =>
    if !x.live then (s0, [])
    else
      let s := ((s0.tryLane i.op t).1.tryLane i.op (t + 1)).1
      match i.op s t, i.op s (t + 1) with
      | .error a, .error b =>
        if a.isTrap && b.isTrap then
          match a, b with
          | .trap c v _, .trap c' v' _ =>
            if c = c' && v = v' then (s, [(t, a), (t + 1, b)]) else (s, s.mismatchStops (i.va s t) t)
          | _, _ => (s, [])
        else if a.isTrap then ((s.stopT t b).modT (t + 1) fun y => { y with wait := .regs }, [])
        else ((s.stopT t a).stopT (t + 1) (if b.isTrap then .block .regs else b), [])
      | .error a, .ok _ =>
        if a.isTrap then (s, s.mismatchStops (i.va s t) t) else ((s.stopT t a).stopT (t + 1) (.block .regs), [])
      | .ok _, .error b =>
        if b.isTrap then (s, s.mismatchStops (i.va s t) t) else ((s.stopT t (.block .regs)).stopT (t + 1) b, [])
      | .ok s1, .ok _ =>
        if i.sig s t != i.sig s (t + 1) then (s, s.mismatchStops (i.va s t) t)
        else
          let g := gangOf t
          let after := s1.queuesOf g
          let s1 := s1.modG g fun y => { y with queues := s.queuesOf g }
          let r := s1.runLane (i.shadow.getD (if i.once then shadowOp i.srcs else i.op)) (t + 1)
          (r.1.modG g fun y => { y with queues := after }, r.2)

/-- Performs an instruction for the lanes of the current bundle, in ascending home-lane order (14 R305, 03 R58); causes are taken when
every lane has had its turn. -/
def State.runLanes (s : State) (i : LaneInstr) : State :=
  let ts := s.cur.lanes.map (tkey s.cur.gang s.cur.crew)
  let run (f : State → Nat → State × List (Nat × Stop)) (ts : List Nat) : State :=
    let r := ts.foldl (fun r t => let q := f r.1 t; (q.1, r.2 ++ q.2)) (s, [])
    r.1.stopAll r.2
  match s.gangs.get? s.cur.gang with
  | some g =>
    if g.kernel.protected_ then run (fun s t => s.runPair i t) (ts.filter (· % 2 == 0)) else run (fun s t => s.runLane i.op t) ts
  | none => s

/-- An instruction performed per thread. -/
def perLane (i : LaneInstr) (s : State) : Host.Outcome State Fault Refusal :=
  match s.gangs.get? s.cur.gang with
  | some _ => .next (s.runLanes i)
  | none => .fault .noSuchObject

/-! ## Once for the crew (14 R311) -/

/-- What a crew-collective instruction does for crew `ck`: the state after, or each member's stop. -/
abbrev CrewOp := State → Nat → Except (Nat → Stop) State

/-- The crew of the current bundle. -/
def State.curCrew (s : State) : Nat := ckey s.cur.gang s.cur.crew

/-- The lowest live member of a crew (06 R147). -/
def State.lowest (s : State) (ck : Nat) : Nat := (s.liveThreads ck).headD 0

/-- Whether the test of 14 R311 has found the crew's instruction due. -/
def State.crewDue (s : State) (ck : Nat) : Bool :=
  let l := s.liveThreads ck
  !l.isEmpty && l.all fun t => match s.threads.get? t with | some x => x.due | none => false

/-- The cause that comes before every test of a collective or lane instruction (17 R368): a pop source that names no queue register
of the gang (03 R63, 16 R357), or an uncorrectable error in an operand-cache entry or latch that it reads. -/
def State.badSource (s : State) (t : Nat) (srcs : List Src) : Option Stop :=
  match s.readAll t srcs with
  | .error (.trap c v none) => if c = cPOISON ∨ c = cSPECIAL then some (.trap c v none) else none
  | _ => none

/-- Members that reach a crew-collective instruction are held there. -/
def State.holdColl (s : State) (srcs : List Src) : State :=
  let ts := s.cur.lanes.map (tkey s.cur.gang s.cur.crew)
  let bad := ts.filterMap fun t => (s.badSource t srcs).map fun st => (t, st)
  (s.onThreads (ts.filter fun t => (s.badSource t srcs).isNone) fun x => { x with wait := .coll }).stopAll bad

/-- The values a pair compares for a list of sources. -/
def sigOf (srcs : List Src) : State → Nat → List Word := fun s t =>
  match s.readAll t srcs with | .ok vs => vs.map (·.data) | .error _ => []

/-- Whether the threads of the pair of even thread `t` differ in what they read, or in whether and how the read traps. A read that
stalls is still to be made. -/
def State.readsDiffer (s : State) (t : Nat) (srcs : List Src) : Bool :=
  match s.readAll t srcs, s.readAll (t + 1) srcs with
  | .ok a, .ok b => a.map (·.data) != b.map (·.data)
  | .error (.trap c v _), .error (.trap c' v' _) => c != c' || v != v'
  | .error a, .ok _ => a.isTrap
  | .ok _, .error b => b.isTrap
  | _, _ => false

/-- The first pair of a protected crew, by its even thread, that disagrees on what a collective instruction reads (17
R388). -/
def State.pairOff (s : State) (ck : Nat) (srcs : List Src) : Option Nat :=
  match s.gangs.get? (ck / 32) with
  | some g =>
    if g.kernel.protected_ then ((s.liveThreads ck).filter (· % 2 == 0)).find? fun t => s.readsDiffer t srcs
    else none
  | none => none

/-- The lines that the fill/spill engine needs for the reads of a list of threads. -/
def State.bringLines (s : State) (ts : List Nat) (srcs : List Src) : State :=
  ts.foldl (fun s t => (State.withLines (fun s => s.readAll t srcs) lineFuel s).1) s

/-- A crew-collective instruction: held until due, then performed once; a stop falls on every live member. Members that find
a queue empty stay held, and wait in the queue together. `va`: the VA of its access, for a mismatch (17 R389). -/
def collectiveAt (va : State → Nat → Option Word) (srcs : List Src) (op : CrewOp) (s : State) :
    Host.Outcome State Fault Refusal :=
  match s.gangs.get? s.cur.gang with
  | none => .fault .noSuchObject
  | some _ =>
    let ck := s.curCrew
    if !s.crewDue ck then .next (s.holdColl srcs)
    else
      let s := s.bringLines (s.liveThreads ck) srcs
      match s.pairOff ck srcs with
      | some t => .next (s.mismatch (va s t) t)
      | none => match op s ck with
        | .ok s' => .next s'
        | .error f =>
          let l := s.liveThreads ck
          match l.findSome? fun t => match f t with | .block (.pop q) => some q | _ => none with
          | some q => .next (s.joinPops (ck / 32) q 1 l)
          | none => .next (s.stopAll (l.map fun t => (t, f t)))

/-- A crew-collective instruction without an access of its own. -/
def collective (srcs : List Src) (op : CrewOp) (s : State) : Host.Outcome State Fault Refusal :=
  collectiveAt (fun _ _ => none) srcs op s

/-- A cause that every live member takes alike. -/
def allTrap (c : Byte) (v : Word) : Nat → Stop := fun _ => .trap c v none

/-- The members of a list read sources in home-lane order, with the effects of their reads; the values are those of the
first. A member that cannot read has its stop; the others are held again. -/
def State.crewReadFrom (srcs : List Src) (before : Vector (List QEntry) 8) :
    List Nat → State → Except (Nat → Stop) (List Val × State)
  | [], s => .ok ([], s)
  | t :: r, s =>
    match s.readFor before t srcs with
    | .error e => .error fun u => if u = t then e else .block .coll
    | .ok (vs, s1) => match State.crewReadFrom srcs (s.queuesOf (gangOf t)) r s1 with
      | .ok (_, s2) => .ok (vs, s2)
      | .error f => .error f

/-- Every live member reads sources; the values are those of the lowest (06 R147). -/
def State.crewRead (s : State) (ck : Nat) (srcs : List Src) : Except (Nat → Stop) (List Val × State) :=
  State.crewReadFrom srcs (s.queuesOf (ck / 32)) (s.liveThreads ck) s

/-- A k register of a crew. -/
def State.kreg (s : State) (ck : Nat) (k : KReg) : Word :=
  match s.crews.get? ck with | some c => c.k[k] | none => 0

/-- Writes a k register (10 R233). -/
def State.setK (s : State) (ck : Nat) (k : KReg) (v : Word) : State :=
  s.modC ck fun c => { c with k := c.k.set k v, ktok := c.ktok.erase k.val }

/-- k0 to k15 as an MX selector names them. -/
def k16 (k : KReg16) : KReg := ⟨k.val, by omega⟩

/-- What reading a k register brings every live member: the time of the completion that wrote a token (05 R125). -/
def State.observeK (s : State) (ck : Nat) (k : KReg) : State :=
  let ts := match s.crews.get? ck with | some c => c.ktok.getD k.val 0 | none => 0
  s.onThreads (s.liveThreads ck) fun x => { x with lt := Nat.max x.lt ts }

end Sys2Proof.Machine
end

