-- ==== Sys2Proof/Machine/Flags.lean ====
section
/-! DEFINITION. The sticky flags of tstat (17 R372), predicates and Kleene logic (02 R24 to R26), senses (10 R235). -/

namespace Sys2Proof.Machine

def fNV : Byte := 0x01
def fDZ : Byte := 0x02
def fOF : Byte := 0x04
def fUF : Byte := 0x08
def fNX : Byte := 0x10
def fIDZ : Byte := 0x20
def fIOV : Byte := 0x40
def fEMPTY : Byte := 0x80

/-- Raises sticky flags (17 R372). -/
def Thread.raise (x : Thread) (f : Byte) : Thread := { x with tstat := x.tstat ||| f }

/-- A predicate register; p7 reads TRUE (02 R24). -/
def Thread.pred (x : Thread) (p : PReg) : Pred := if h : p.val < 7 then x.preds[p.val] else .t

/-- Writes a predicate register; a write to p7 is discarded (02 R24). -/
def Thread.setPred (x : Thread) (p : PReg) (v : Pred) : Thread :=
  if h : p.val < 7 then { x with preds := x.preds.set p.val v } else x

/-- Kleene's logic (02 R25). -/
def Pred.and : Pred → Pred → Pred
  | .f, _ | _, .f => .f
  | .t, .t => .t
  | _, _ => .u
def Pred.or : Pred → Pred → Pred
  | .t, _ | _, .t => .t
  | .f, .f => .f
  | _, _ => .u
def Pred.xor : Pred → Pred → Pred
  | .u, _ | _, .u => .u
  | .f, .f | .t, .t => .f
  | _, _ => .t
def Pred.not : Pred → Pred
  | .f => .t | .t => .f | .u => .u

/-- A truth value as a predicate. -/
def predOf (b : Bool) : Pred := if b then .t else .f

/-- Whether a predicate matches a sense (10 R235). -/
def senseHit (se : Sense) (p : Pred) : Bool :=
  match se with
  | .t => p == .t
  | .f => p == .f
  | .u => p == .u
  | .nt => p != .t

/-- The predicate word: pi in bits [2i+1:2i], P7 reads 0b01 (02 R26). -/
def Thread.predWord (x : Thread) : Nat :=
  (List.range 8).foldl (fun n i => n + (x.pred (Fin.ofNat 8 i)).code * 4 ^ i) 0

/-- A two-bit code written by pput; 0b11 stores UNDECIDED (02 R24). -/
def predOfBits (n : Nat) : Pred := if n = 0 then .f else if n = 1 then .t else .u

/-- Writes p0 to p6 from a predicate word (02 R26). -/
def Thread.setPredWord (x : Thread) (w : Nat) : Thread :=
  { x with preds := Vector.ofFn fun i => predOfBits (fld w (2 * i.val) 2) }

end Sys2Proof.Machine
end

