-- ==== Sys2Proof/Machine/Operands.lean ====
section
/-! DEFINITION. Instructions that read sources, compute, and write registers of their own thread: the shape shared by the
integer, float, interval and predicate families (03 R54 to R58, 09 R215), and operand widths (02 R19). -/

namespace Sys2Proof.Machine

/-- What such an instruction writes: registers from `reg` up as `k` directs, and a change of the thread's other state. -/
structure Eff where
  reg : Nat := 0
  k : Bool := true
  regs : List Val := []
  upd : Thread → Thread := id

/-- Performs the reads, the computation and the writes for one thread. A failing computation names its cause. -/
def regOp (srcs : State → Nat → List Src) (f : State → Nat → Thread → List Val → Except (Byte × Word) Eff) : LaneOp :=
  fun s t =>
    match s.threads.get? t with
    | none => .ok s
    | some x =>
      match s.readAll t (srcs s t) with
      | .error e => .error e
      | .ok vs =>
        match f s t x vs with
        | .error (c, v) => .error (.trap c v none)
        | .ok e =>
          match (s.commit t (srcs s t) vs).writeRegs t e.reg e.k e.regs with
          | .error st => .error st
          | .ok s2 => .ok (s2.modT t fun y => (e.upd y).finish (s.codeBase t) s.cur.len)

/-- The instruction of such an operation. -/
def regInstr (srcs : State → Nat → List Src) (f : State → Nat → Thread → List Val → Except (Byte × Word) Eff) :
    LaneInstr :=
  { op := regOp srcs f, srcs := [], sig := fun _ _ => [], va := fun _ _ => none, once := false }

/-- A point. -/
def pt (v : Word) : Val := ⟨v, false⟩

/-- A result written to d and latched, with flags (09 R215). -/
def result (d : Dst) (v : Val) (flags : Byte) : Eff :=
  { reg := d.reg.val, k := d.k, regs := [v], upd := fun x => (x.raise flags).latch v }

/-- A result written to d without a latch update (09 R215). -/
def resultNoLatch (d : Dst) (v : Val) : Eff := { reg := d.reg.val, k := d.k, regs := [v] }

/-- A pair written to d and d + 1; the even register is latched (09 R215). -/
def resultPair (d : Dst) (v w : Val) (flags : Byte) : Eff :=
  { reg := d.reg.val, k := d.k, regs := [v, w], upd := fun x => (x.raise flags).latch v }

/-- A predicate result; cmp leaves the latches unchanged (10 R225). -/
def resultPred (p : PReg) (v : Pred) (flags : Byte) : Eff := { upd := fun x => (x.raise flags).setPred p v }

/-- The data of source `n`. -/
def dataAt (vs : List Val) (n : Nat) : Word := (vs.getD n (pt 0)).data
def valAt (vs : List Val) (n : Nat) : Val := vs.getD n (pt 0)

/-- One point result from one, two or three data inputs. -/
def intOp1 (d : Dst) (a : Src) (f : Word → Word) : LaneInstr :=
  regInstr (fun _ _ => [a]) fun _ _ _ vs => .ok (result d (pt (f (dataAt vs 0))) 0)
def intOp2 (d : Dst) (a b : Src) (f : Word → Word → Word) : LaneInstr :=
  regInstr (fun _ _ => [a, b]) fun _ _ _ vs => .ok (result d (pt (f (dataAt vs 0) (dataAt vs 1))) 0)
/-- A three-input operation reads d at level 00 (03 R54). -/
def intOp3 (d : Dst) (a b : Src) (f : Word → Word → Word → Word) : LaneInstr :=
  regInstr (fun _ _ => [a, b, .oc d.reg]) fun _ _ _ vs =>
    .ok (result d (pt (f (dataAt vs 0) (dataAt vs 1) (dataAt vs 2))) 0)
/-- A result with flags. -/
def intOp1F (d : Dst) (a : Src) (f : Word → Word × Byte) : LaneInstr :=
  regInstr (fun _ _ => [a]) fun _ _ _ vs => let r := f (dataAt vs 0); .ok (result d (pt r.1) r.2)
def intOp2F (d : Dst) (a b : Src) (f : Word → Word → Word × Byte) : LaneInstr :=
  regInstr (fun _ _ => [a, b]) fun _ _ _ vs =>
    let r := f (dataAt vs 0) (dataAt vs 1); .ok (result d (pt r.1) r.2)

/-! ## Widths -/

/-- The bits of a width. -/
def wbits : Width → Nat | .w32 => 32 | .w64 => 64

/-- The low w bits of a register (02 R19). -/
def low (w : Width) (v : Word) : Nat := v.toNat % 2 ^ wbits w

/-- A w-bit result zero-extended, after wrapping modulo 2^w (10 R226). -/
def zx (w : Width) (n : Nat) : Word := BitVec.ofNat 64 (n % 2 ^ wbits w)

/-- The low `n` bits sign-extended to 64. -/
def sxWord (n : Nat) (v : Nat) : Word := BitVec.ofInt 64 (sxInt v n)

/-- The value of a w-bit operand under a signedness. -/
def valW (g : Sgn) (w : Width) (v : Word) : Int :=
  match g with | .n => (low w v : Int) | .s => sxInt v.toNat (wbits w)

/-- V(v) of 10 R228: the value of a 64-bit register under a signedness. -/
def val64 (g : Sgn) (v : Word) : Int := valW g .w64 v

end Sys2Proof.Machine
end

