-- ==== Sys2Proof/Machine/Integer.lean ====
section
/-! DEFINITION. Integer and address instructions (10 R225 to R237), and their 16-bit forms (03 R60, R61). -/

namespace Sys2Proof.Machine

abbrev Result := Host.Outcome State Fault Refusal

/-! ## Functions of the operands (10 R228 to R232) -/

def addW (w : Width) (a b : Word) : Word := zx w (low w a + low w b)
def subW (w : Width) (a b : Word) : Word := zx w (low w a + (2 ^ wbits w - low w b))
/-- The carry out of A + B + d[0]. -/
def addcW (w : Width) (a b d : Word) : Word := BitVec.ofNat 64 ((low w a + low w b + d.toNat % 2) / 2 ^ wbits w)
/-- The borrow out of A - B - d[0]. -/
def subbW (w : Width) (a b d : Word) : Word := if low w a < low w b + d.toNat % 2 then 1 else 0
/-- E(a[23:0]) of mul24 and mad24. -/
def low24 (g : Sgn) (v : Word) : Int := match g with | .n => (v.toNat % 2 ^ 24 : Nat) | .s => sxInt v.toNat 24
/-- A 32-bit result, sign-extended for .s32 and zero-extended for .n32. -/
def ext32 (g : Sgn) (r : Int) : Word :=
  match g with
  | .n => BitVec.ofNat 64 ((r % 2 ^ 32).toNat)
  | .s => sxWord 32 ((r % 2 ^ 32).toNat)
def mul24W (g : Sgn) (a b : Word) : Word := ext32 g (low24 g a * low24 g b)
def mad24W (g : Sgn) (a b d : Word) : Word := ext32 g (low24 g a * low24 g b + (d.toNat % 2 ^ 32 : Nat))
def mulW (w : Width) (a b : Word) : Word := zx w (low w a * low w b)
def mulhW (g : Sgn) (a b : Word) : Word := BitVec.ofInt 64 ((val64 g a * val64 g b) / 2 ^ 64)
def minW (g : Sgn) (a b : Word) : Word := if val64 g a ≤ val64 g b then a else b
def maxW (g : Sgn) (a b : Word) : Word := if val64 g b ≤ val64 g a then a else b
/-- The least and the greatest value of the 64-bit type. -/
def typeMin : Sgn → Int | .n => 0 | .s => -2 ^ 63
def typeMax : Sgn → Int | .n => 2 ^ 64 - 1 | .s => 2 ^ 63 - 1
def addminW (g : Sgn) (a b d : Word) : Word :=
  let t := Min.min (Max.max (val64 g a + val64 g b) (typeMin g)) (typeMax g)
  if val64 g d ≤ t then d else BitVec.ofInt 64 t
/-- Quotient, remainder and flags of div and rem. -/
def divRem (g : Sgn) (a b : Word) : Word × Word × Byte :=
  if b = 0 then (BitVec.allOnes 64, a, fIDZ)
  else if g = .s ∧ val64 g a = -2 ^ 63 ∧ val64 g b = -1 then (BitVec.ofInt 64 (-2 ^ 63), 0, fIOV)
  else (BitVec.ofInt 64 ((val64 g a).tdiv (val64 g b)), BitVec.ofInt 64 ((val64 g a).tmod (val64 g b)), 0)

/-- The count of a shift: B mod w. -/
def cntW (w : Width) (b : Word) : Nat := low w b % wbits w
def shlN (w : Width) (a : Word) (c : Nat) : Word := zx w (low w a * 2 ^ c)
def shrN (w : Width) (a : Word) (c : Nat) : Word := zx w (low w a / 2 ^ c)
def sarN (w : Width) (a : Word) (c : Nat) : Word :=
  BitVec.ofNat 64 ((sxInt a.toNat (wbits w) / 2 ^ c % 2 ^ wbits w).toNat)
def rotN (w : Width) (a : Word) (c : Nat) : Word := zx w (low w a * 2 ^ c % 2 ^ wbits w + low w a / 2 ^ (wbits w - c))
def leaW (w : Width) (a b : Word) : Word := a + (match w with | .w32 => 4 | .w64 => 8) * b

/-- The position and the length of a bit field (10 R230). -/
def bfPos (b : Word) : Nat := fld b.toNat 0 6
def bfLen (b : Word) : Nat := Nat.min (Nat.min (fld b.toNat 8 7) 64) (64 - bfPos b)
def bfeW (g : Sgn) (a b : Word) : Word :=
  let n := bfLen b
  if n = 0 then 0
  else match g with
    | .n => BitVec.ofNat 64 (fld a.toNat (bfPos b) n)
    | .s => sxWord n (fld a.toNat (bfPos b) n)
def bfiW (a b d : Word) : Word :=
  let n := bfLen b
  let p := bfPos b
  BitVec.ofNat 64 (d.toNat - fld d.toNat p n * 2 ^ p + a.toNat % 2 ^ n * 2 ^ p)
def permW (a b d : Word) : Word :=
  let y := a.toNat + d.toNat * 2 ^ 64
  BitVec.ofNat 64 (leNat ((List.range 8).map fun i => BitVec.ofNat 8 (fld y (8 * fld b.toNat (4 * i) 4) 8)))

/-- An immediate sign-extended to 64 bits. -/
def immS (n : Nat) (i : BitVec n) : Word := BitVec.ofInt 64 i.toInt
def movwW (i : Imm16) (n : Nat) (d : Word) : Word :=
  BitVec.ofNat 64 (d.toNat - fld d.toNat (16 * n) 16 * 2 ^ (16 * n) + i.toNat * 2 ^ (16 * n))

def absW (w : Width) (a : Word) : Word × Byte :=
  let v := sxInt a.toNat (wbits w)
  if v = -2 ^ (wbits w - 1) then (BitVec.ofInt 64 v, fIOV) else (BitVec.ofInt 64 v.natAbs, 0)
def negW (w : Width) (a : Word) : Word := zx w (2 ^ wbits w - low w a)
def notW (w : Width) (a : Word) : Word := zx w (2 ^ wbits w - 1 - low w a)
/-- The bits of A, bit 0 first. -/
def bitsOf (w : Width) (a : Word) : List Bool := (List.range (wbits w)).map fun i => a.getLsbD i
def popcW (w : Width) (a : Word) : Word := BitVec.ofNat 64 ((bitsOf w a).countP id)
def ctzW (w : Width) (a : Word) : Word := BitVec.ofNat 64 ((bitsOf w a).takeWhile (!·)).length
def clzW (w : Width) (a : Word) : Word := BitVec.ofNat 64 ((bitsOf w a).reverse.takeWhile (!·)).length
def ofBits (l : List Bool) : Nat := l.foldr (fun b n => (if b then 1 else 0) + 2 * n) 0
def brevW (w : Width) (a : Word) : Word := BitVec.ofNat 64 (ofBits (bitsOf w a).reverse)
def extW (e : ExtKind) (a : Word) : Word :=
  match e with
  | .n8 => BitVec.ofNat 64 (a.toNat % 2 ^ 8)
  | .s8 => sxWord 8 a.toNat
  | .n16 => BitVec.ofNat 64 (a.toNat % 2 ^ 16)
  | .s16 => sxWord 16 a.toNat
  | .n32 => BitVec.ofNat 64 (a.toNat % 2 ^ 32)
  | .s32 => sxWord 32 a.toNat

/-- Whether a relation holds between two values; `un` belongs to fcmp alone (03 R59). -/
def relHolds (l : Rel) (a b : Int) : Bool :=
  match l with
  | .eq => decide (a = b)
  | .ne => decide (a ≠ b)
  | .lt => decide (a < b)
  | .le => decide (a ≤ b)
  | .gt => decide (b < a)
  | .ge => decide (b ≤ a)
  | .un => false

/-! ## Instructions -/

def execAdd (w : Width) (d : Dst) (a b : Src) (s : State) : Result := perLane (intOp2 d a b (addW w)) s
def execSub (w : Width) (d : Dst) (a b : Src) (s : State) : Result := perLane (intOp2 d a b (subW w)) s
def execAddc (w : Width) (d : Dst) (a b : Src) (s : State) : Result := perLane (intOp3 d a b (addcW w)) s
def execSubb (w : Width) (d : Dst) (a b : Src) (s : State) : Result := perLane (intOp3 d a b (subbW w)) s
def execMul24 (g : Sgn) (d : Dst) (a b : Src) (s : State) : Result := perLane (intOp2 d a b (mul24W g)) s
def execMad24 (g : Sgn) (d : Dst) (a b : Src) (s : State) : Result := perLane (intOp3 d a b (mad24W g)) s
def execMul (w : Width) (d : Dst) (a b : Src) (s : State) : Result := perLane (intOp2 d a b (mulW w)) s
def execMulh (g : Sgn) (d : Dst) (a b : Src) (s : State) : Result := perLane (intOp2 d a b (mulhW g)) s
def execDiv (g : Sgn) (d : Dst) (a b : Src) (s : State) : Result :=
  perLane (intOp2F d a b fun a b => ((divRem g a b).1, (divRem g a b).2.2)) s
def execRem (g : Sgn) (d : Dst) (a b : Src) (s : State) : Result := perLane (intOp2F d a b fun a b => (divRem g a b).2) s
def execMin (g : Sgn) (d : Dst) (a b : Src) (s : State) : Result := perLane (intOp2 d a b (minW g)) s
def execMax (g : Sgn) (d : Dst) (a b : Src) (s : State) : Result := perLane (intOp2 d a b (maxW g)) s
def execAddmin (g : Sgn) (d : Dst) (a b : Src) (s : State) : Result := perLane (intOp3 d a b (addminW g)) s
def execAnd (w : Width) (d : Dst) (a b : Src) (s : State) : Result :=
  perLane (intOp2 d a b fun a b => zx w (a &&& b).toNat) s
def execOr (w : Width) (d : Dst) (a b : Src) (s : State) : Result :=
  perLane (intOp2 d a b fun a b => zx w (a ||| b).toNat) s
def execXor (w : Width) (d : Dst) (a b : Src) (s : State) : Result :=
  perLane (intOp2 d a b fun a b => zx w (a ^^^ b).toNat) s
def execAndn (w : Width) (d : Dst) (a b : Src) (s : State) : Result :=
  perLane (intOp2 d a b fun a b => zx w (a &&& ~~~b).toNat) s
def execShl (w : Width) (d : Dst) (a b : Src) (s : State) : Result :=
  perLane (intOp2 d a b fun a b => shlN w a (cntW w b)) s
def execShr (w : Width) (d : Dst) (a b : Src) (s : State) : Result :=
  perLane (intOp2 d a b fun a b => shrN w a (cntW w b)) s
def execSar (w : Width) (d : Dst) (a b : Src) (s : State) : Result :=
  perLane (intOp2 d a b fun a b => sarN w a (cntW w b)) s
def execRot (w : Width) (d : Dst) (a b : Src) (s : State) : Result :=
  perLane (intOp2 d a b fun a b => rotN w a (cntW w b)) s
def execBfe (g : Sgn) (d : Dst) (a b : Src) (s : State) : Result := perLane (intOp2 d a b (bfeW g)) s
def execBfi (d : Dst) (a b : Src) (s : State) : Result := perLane (intOp3 d a b bfiW) s
def execPerm (d : Dst) (a b : Src) (s : State) : Result := perLane (intOp3 d a b permW) s
def execLea (w : Width) (d : Dst) (a b : Src) (s : State) : Result := perLane (intOp2 d a b (leaW w)) s

def execAddImm (d : Dst) (a : Src) (i : Imm9) (s : State) : Result := perLane (intOp1 d a fun a => a + immS 9 i) s
def execAndImm (d : Dst) (a : Src) (i : Imm9) (s : State) : Result := perLane (intOp1 d a fun a => a &&& immS 9 i) s
def execOrImm (d : Dst) (a : Src) (i : Imm9) (s : State) : Result := perLane (intOp1 d a fun a => a ||| immS 9 i) s
def execShlImm (w : Width) (d : Dst) (a : Src) (c : Cnt6) (s : State) : Result :=
  perLane (intOp1 d a fun a => shlN w a c.val) s
def execShrImm (w : Width) (d : Dst) (a : Src) (c : Cnt6) (s : State) : Result :=
  perLane (intOp1 d a fun a => shrN w a c.val) s
def execSarImm (w : Width) (d : Dst) (a : Src) (c : Cnt6) (s : State) : Result :=
  perLane (intOp1 d a fun a => sarN w a c.val) s
def execRotImm (w : Width) (d : Dst) (a : Src) (c : Cnt6) (s : State) : Result :=
  perLane (intOp1 d a fun a => rotN w a c.val) s
/-- movi: sx for .s64, zx for .n64. -/
def moviW (g : Sgn) (i : Imm16) : Word := match g with | .s => immS 16 i | .n => BitVec.ofNat 64 i.toNat
def execMovi (g : Sgn) (d : Dst) (i : Imm16) (s : State) : Result :=
  perLane (regInstr (fun _ _ => []) fun _ _ _ _ => .ok (result d (pt (moviW g i)) 0)) s
/-- movw reads d at level 0b00 and writes it as with K = 1. -/
def execMovw (r : Reg) (i : Imm16) (n : Fin4) (s : State) : Result :=
  perLane (intOp1 ⟨r, true⟩ (.oc r) (movwW i n.val)) s

def execAbs (w : Width) (d : Dst) (a : Src) (s : State) : Result := perLane (intOp1F d a (absW w)) s
def execNeg (w : Width) (d : Dst) (a : Src) (s : State) : Result := perLane (intOp1 d a (negW w)) s
def execNot (w : Width) (d : Dst) (a : Src) (s : State) : Result := perLane (intOp1 d a (notW w)) s
def execPopc (w : Width) (d : Dst) (a : Src) (s : State) : Result := perLane (intOp1 d a (popcW w)) s
def execClz (w : Width) (d : Dst) (a : Src) (s : State) : Result := perLane (intOp1 d a (clzW w)) s
def execCtz (w : Width) (d : Dst) (a : Src) (s : State) : Result := perLane (intOp1 d a (ctzW w)) s
def execBrev (w : Width) (d : Dst) (a : Src) (s : State) : Result := perLane (intOp1 d a (brevW w)) s
/-- mov copies the kind bit with the data (10 R225). -/
def movInstr (d : Dst) (a : Src) : LaneInstr := regInstr (fun _ _ => [a]) fun _ _ _ vs => .ok (result d (valAt vs 0) 0)
def execMov (d : Dst) (a : Src) (s : State) : Result := perLane (movInstr d a) s
def execExt (e : ExtKind) (d : Dst) (a : Src) (s : State) : Result := perLane (intOp1 d a (extW e)) s

/-- movk: the lowest live member's value (10 R233). -/
def execMovk (k : KReg) (a : Src) (s : State) : Result :=
  collective [a] (fun s ck =>
    match s.crewRead ck [a] with
    | .error f => .error f
    | .ok (vs, s) => if s.kPending ck k.val then .error fun _ => .block .regs
      else .ok ((s.setK ck k (dataAt vs 0)).finishCrew ck)) s
def execKmov (k t : KReg) (s : State) : Result :=
  collective [] (fun s ck =>
    if s.kPending ck k.val || s.kPending ck t.val then .error fun _ => .block .regs
    else .ok (((s.observeK ck t).setK ck k (s.kreg ck t)).finishCrew ck)) s

/-- cmov copies data and kind together (10 R235). -/
def execCmov (d : Dst) (a : Src) (p : PReg) (se : Sense) (s : State) : Result :=
  perLane (regInstr (fun _ _ => [a, .oc d.reg]) fun _ _ x vs =>
    .ok (result d (if senseHit se (x.pred p) then valAt vs 0 else valAt vs 1) 0)) s
def execCmpSigned (w : Width) (l : Rel) (p : PReg) (a b : Src) (s : State) : Result :=
  perLane (regInstr (fun _ _ => [a, b]) fun _ _ _ vs =>
    .ok (resultPred p (predOf (relHolds l (valW .s w (dataAt vs 0)) (valW .s w (dataAt vs 1)))) 0)) s
def execCmpUnsigned (w : Width) (l : Rel) (p : PReg) (a b : Src) (s : State) : Result :=
  perLane (regInstr (fun _ _ => [a, b]) fun _ _ _ vs =>
    .ok (resultPred p (predOf (relHolds l (valW .n w (dataAt vs 0)) (valW .n w (dataAt vs 1)))) 0)) s

/-! ## Experimental functions (03 R68) -/

/-- The bytes of a word, each changed by `f`. -/
def perByte (f : Nat → Nat) (a : Word) : Word :=
  BitVec.ofNat 64 (leNat ((List.range 8).map fun i => BitVec.ofNat 8 (f (fld a.toNat (8 * i) 8))))

/-- xbrev8: the bit order reversed inside each byte. -/
def execXbrev8 (d : Dst) (a : Src) (s : State) : Result :=
  perLane (intOp1 d a (perByte fun b => ofBits (((List.range 8).map fun i => bitAt b i).reverse))) s
/-- xpopc8: the population count of each byte. -/
def execXpopc8 (d : Dst) (a : Src) (s : State) : Result :=
  perLane (intOp1 d a (perByte fun b => ((List.range 8).countP fun i => bitAt b i))) s

/-! ## 16-bit forms (03 R60, R61): a = d, b = g0 to g31, K = 1 -/

def reg5 (b : Reg5) : Reg := ⟨b.val, by omega⟩
def dst16 (d : Reg) : Dst := ⟨d, true⟩
def execAdd16 (d : Reg) (b : Reg5) (s : State) : Result := perLane (intOp2 (dst16 d) (.oc d) (.oc (reg5 b)) (addW .w64)) s
def execSub16 (d : Reg) (b : Reg5) (s : State) : Result := perLane (intOp2 (dst16 d) (.oc d) (.oc (reg5 b)) (subW .w64)) s
def execMul2416 (d : Reg) (b : Reg5) (s : State) : Result :=
  perLane (intOp2 (dst16 d) (.oc d) (.oc (reg5 b)) (mul24W .s)) s
def execAnd16 (d : Reg) (b : Reg5) (s : State) : Result :=
  perLane (intOp2 (dst16 d) (.oc d) (.oc (reg5 b)) fun a b => a &&& b) s
def execOr16 (d : Reg) (b : Reg5) (s : State) : Result :=
  perLane (intOp2 (dst16 d) (.oc d) (.oc (reg5 b)) fun a b => a ||| b) s
def execXor16 (d : Reg) (b : Reg5) (s : State) : Result :=
  perLane (intOp2 (dst16 d) (.oc d) (.oc (reg5 b)) fun a b => a ^^^ b) s
def execShl16 (d : Reg) (b : Reg5) (s : State) : Result :=
  perLane (intOp2 (dst16 d) (.oc d) (.oc (reg5 b)) fun a b => shlN .w64 a (cntW .w64 b)) s
def execShr16 (d : Reg) (b : Reg5) (s : State) : Result :=
  perLane (intOp2 (dst16 d) (.oc d) (.oc (reg5 b)) fun a b => shrN .w64 a (cntW .w64 b)) s
def execSar16 (d : Reg) (b : Reg5) (s : State) : Result :=
  perLane (intOp2 (dst16 d) (.oc d) (.oc (reg5 b)) fun a b => sarN .w64 a (cntW .w64 b)) s
def execMin16 (d : Reg) (b : Reg5) (s : State) : Result := perLane (intOp2 (dst16 d) (.oc d) (.oc (reg5 b)) (minW .s)) s
def execMax16 (d : Reg) (b : Reg5) (s : State) : Result := perLane (intOp2 (dst16 d) (.oc d) (.oc (reg5 b)) (maxW .s)) s
/-- A 16-bit mov copies g(b) with its kind bit into g(d) and does not read g(d). -/
def execMov16 (d : Reg) (b : Reg5) (s : State) : Result := perLane (movInstr (dst16 d) (.oc (reg5 b))) s

end Sys2Proof.Machine
end

