-- ==== Sys2Proof/Machine/Softfloat.lean ====
section
/-! DEFINITION. IEEE 754 formats and operations on exact dyadic numbers, rounded once (02 R27 to R29, 11 R248, R251, R252,
R259 to R261). -/

namespace Sys2Proof.Machine

/-- A format: exponent and mantissa bits (02 R27). -/
structure Fmt where
  e : Nat
  m : Nat
  deriving DecidableEq, Repr

def fmt64 : Fmt := ⟨11, 52⟩
def fmt32 : Fmt := ⟨8, 23⟩
def fmt16 : Fmt := ⟨5, 10⟩
def fmtBf : Fmt := ⟨8, 7⟩

/-- The bits of a format, its largest exponent, and the exponent of its least subnormal. -/
def Fmt.bits (f : Fmt) : Nat := f.e + f.m + 1
def Fmt.bias (f : Fmt) : Nat := 2 ^ (f.e - 1) - 1
def Fmt.emin (f : Fmt) : Int := 1 - (f.bias : Int)
def Fmt.lsb (f : Fmt) : Int := f.emin - f.m
/-- The magnitude bits of infinity, of the canonical NaN, of the largest finite value, and the sign bit. -/
def Fmt.inf (f : Fmt) : Nat := (2 ^ f.e - 1) * 2 ^ f.m
def Fmt.nan (f : Fmt) : Nat := f.inf + 2 ^ (f.m - 1)
def Fmt.maxFin (f : Fmt) : Nat := f.inf - 1
def Fmt.sign (f : Fmt) : Nat := 2 ^ (f.e + f.m)

/-- A decoded float. A finite one is the sign times `mant` times 2 to `exp`. -/
inductive FP where
  | nan (signalling : Bool)
  | inf (neg : Bool)
  | fin (neg : Bool) (mant : Nat) (exp : Int)
  deriving DecidableEq, Repr

/-- Decodes the bits of a format (02 R27). -/
def Fmt.decode (f : Fmt) (v : Nat) : FP :=
  let neg := bitAt v (f.e + f.m)
  let e := fld v f.m f.e
  let m := fld v 0 f.m
  if e = 2 ^ f.e - 1 then
    if m = 0 then .inf neg else .nan (decide (m < 2 ^ (f.m - 1)))
  else if e = 0 then .fin neg m f.lsb
  else .fin neg (m + 2 ^ f.m) (f.lsb + (e - 1 : Nat))

def FP.isNan : FP → Bool | .nan _ => true | _ => false
def FP.isSnan : FP → Bool | .nan b => b | _ => false
def FP.neg : FP → Bool | .nan _ => false | .inf b => b | .fin b _ _ => b
def FP.isZero : FP → Bool | .fin _ m _ => m == 0 | _ => false
def FP.isInf : FP → Bool | .inf _ => true | _ => false

/-- Rounding directions (11 R246). -/
inductive Rm where | rne | rz | rd | ru
  deriving DecidableEq, Repr

def rmOf (n : Nat) : Rm := if n = 0 then .rne else if n = 1 then .rz else if n = 2 then .rd else .ru
def Thread.rm (x : Thread) : Rm := rmOf (x.fpmode.toNat % 4)
def Thread.ftz (x : Thread) : Bool := bitAt x.fpmode.toNat 2

/-- Whether a magnitude `q + r` with `0 ≤ r < 1` rounds up: `cmp` compares the remainder with a half. -/
def roundsUp (rm : Rm) (neg : Bool) (odd : Bool) (rem half : Nat) (sticky : Bool) : Bool :=
  match rm with
  | .rne => decide (half < rem) || (rem == half && (sticky || odd))
  | .rz => false
  | .rd => neg && (decide (0 < rem) || sticky)
  | .ru => !neg && (decide (0 < rem) || sticky)

/-- A result with its flags. -/
abbrev FRes := Nat × Byte

/-- Rounds a magnitude `mant · 2^exp` (plus less than one unit if `sticky`) to a multiple of 2^q: the multiple and whether it
is exact. -/
def roundTo (rm : Rm) (neg : Bool) (mant : Nat) (exp : Int) (sticky : Bool) (q : Int) : Nat × Bool :=
  if q ≤ exp then (mant * 2 ^ (exp - q).toNat, !sticky)
  else
    let sh := (q - exp).toNat
    let n := mant / 2 ^ sh
    let rem := mant % 2 ^ sh
    (if roundsUp rm neg (n % 2 == 1) (2 * rem) (2 ^ sh) sticky then n + 1 else n, rem == 0 && !sticky)

/-- Rounds a finite value into a format: default results and flags of IEEE 754, tininess after rounding (11 R248). `mant`
has more bits than the format whenever `sticky` is set. -/
def Fmt.round (f : Fmt) (rm : Rm) (neg : Bool) (mant : Nat) (exp : Int) (sticky : Bool) : FRes :=
  let s := if neg then f.sign else 0
  if mant = 0 then (s, 0)
  else
    let top := exp + (mant.log2 : Int)
    let q := if top - f.m < f.lsb then f.lsb else top - f.m
    let (n, exact) := roundTo rm neg mant exp sticky q
    let v := (q - f.lsb).toNat * 2 ^ f.m + n
    if f.inf ≤ v then
      let r := match rm with
        | .rne => f.inf
        | .rz => f.maxFin
        | .rd => if neg then f.inf else f.maxFin
        | .ru => if neg then f.maxFin else f.inf
      (s + r, fOF ||| fNX)
    else
      let tiny := decide (top < f.emin) &&
        !decide (top + 1 = f.emin ∧ 2 ^ (f.m + 1) ≤ (roundTo rm neg mant exp sticky (top - f.m)).1)
      (s + v, if exact then 0 else if tiny then fUF ||| fNX else fNX)

/-- An exact value rounded. -/
def Fmt.roundInt (f : Fmt) (rm : Rm) (v : Int) (exp : Int) (zeroNeg : Bool) : FRes :=
  if v = 0 then (if zeroNeg then f.sign else 0, 0) else f.round rm (decide (v < 0)) v.natAbs exp false

/-- The canonical NaN with flags, an infinity, a zero. -/
def Fmt.nanR (f : Fmt) (fl : Byte) : FRes := (f.nan, fl)
def Fmt.infR (f : Fmt) (neg : Bool) (fl : Byte) : FRes := ((if neg then f.sign else 0) + f.inf, fl)
def Fmt.zeroR (f : Fmt) (neg : Bool) : FRes := (if neg then f.sign else 0, 0)

/-- NV if an operand is a signalling NaN. -/
def snanFlag (l : List FP) : Byte := if l.any FP.isSnan then fNV else 0

/-- The signed mantissa of a finite value at a lower exponent. -/
def alignTo (neg : Bool) (m : Nat) (e q : Int) : Int :=
  let v : Int := (m * 2 ^ (e - q).toNat : Nat)
  if neg then -v else v

/-- The sum of two decoded values, rounded once. -/
def Fmt.addP (f : Fmt) (rm : Rm) (a b : FP) : FRes :=
  match a, b with
  | .nan _, _ | _, .nan _ => f.nanR (snanFlag [a, b])
  | .inf x, .inf y => if x = y then f.infR x 0 else f.nanR fNV
  | .inf x, .fin _ _ _ => f.infR x 0
  | .fin _ _ _, .inf y => f.infR y 0
  | .fin x m e, .fin y n g =>
    let q := if e ≤ g then e else g
    f.roundInt rm (alignTo x m e q + alignTo y n g q) q (if x = y then x else rm == .rd)

/-- The exact product of two decoded values; none: NaN. `0 × ∞` is none. -/
def mulExact (a b : FP) : Option FP :=
  match a, b with
  | .nan _, _ | _, .nan _ => none
  | .inf x, .inf y => some (.inf (x != y))
  | .inf x, .fin y n _ => if n = 0 then none else some (.inf (x != y))
  | .fin x m _, .inf y => if m = 0 then none else some (.inf (x != y))
  | .fin x m e, .fin y n g => some (.fin (x != y) (m * n) (e + g))

/-- The product, rounded once. -/
def Fmt.mulP (f : Fmt) (rm : Rm) (a b : FP) : FRes :=
  match mulExact a b with
  | none => f.nanR (if a.isNan || b.isNan then snanFlag [a, b] else fNV)
  | some (.fin s m e) => f.round rm s m e false
  | some (.inf s) => f.infR s 0
  | some (.nan _) => f.nanR 0

/-- c + a · b with one rounding. -/
def Fmt.fmaP (f : Fmt) (rm : Rm) (a b c : FP) : FRes :=
  match mulExact a b with
  | none => f.nanR (snanFlag [a, b, c] ||| (if a.isNan || b.isNan then 0 else fNV))
  | some p => f.addP rm c p

/-- The quotient, rounded once. -/
def Fmt.divP (f : Fmt) (rm : Rm) (a b : FP) : FRes :=
  match a, b with
  | .nan _, _ | _, .nan _ => f.nanR (snanFlag [a, b])
  | .inf _, .inf _ => f.nanR fNV
  | .inf x, .fin y _ _ => f.infR (x != y) 0
  | .fin x _ _, .inf y => f.zeroR (x != y)
  | .fin x m e, .fin y n g =>
    if n = 0 then (if m = 0 then f.nanR fNV else f.infR (x != y) fDZ)
    else if m = 0 then f.zeroR (x != y)
    else
      -- enough quotient bits for the format and one more
      let k := n.log2 + f.m + 3
      let q := m * 2 ^ k / n
      f.round rm (x != y) q (e - g - k) (m * 2 ^ k % n != 0)

/-- The integer square root, bit by bit from bit `i - 1` down. -/
def isqrtFrom (n : Nat) : Nat → Nat → Nat
  | 0, r => r
  | i + 1, r => isqrtFrom n i (if (r + 2 ^ i) * (r + 2 ^ i) ≤ n then r + 2 ^ i else r)

def isqrt (n : Nat) : Nat := isqrtFrom n (n.log2 / 2 + 1) 0

/-- The square root, rounded once. -/
def Fmt.sqrtP (f : Fmt) (rm : Rm) (a : FP) : FRes :=
  match a with
  | .nan _ => f.nanR (snanFlag [a])
  | .inf x => if x then f.nanR fNV else f.infR false 0
  | .fin x m e =>
    if m = 0 then f.zeroR x
    else if x then f.nanR fNV
    else
      -- an even exponent, and enough bits
      let k := 2 * (f.m + 3) + (if (e - 2 * (f.m + 3 : Nat)) % 2 = 0 then 0 else 1)
      let n := m * 2 ^ k
      let r := isqrt n
      f.round rm false r ((e - k) / 2) (r * r != n)

/-! ## Order -/

/-- The place of a number that is not NaN in the order of its format; both zeros at 0. -/
def Fmt.key (f : Fmt) (v : Nat) : Int :=
  let m : Int := (v % f.sign : Nat)
  if bitAt v (f.e + f.m) then -m else m

/-- minimumNumber and maximumNumber (11 R252). -/
def Fmt.minmax (f : Fmt) (isMax : Bool) (x y : Nat) : FRes :=
  let a := f.decode x
  let b := f.decode y
  let fl := snanFlag [a, b]
  if a.isNan && b.isNan then f.nanR fl
  else if a.isNan then (y, fl)
  else if b.isNan then (x, fl)
  else
    -- minus zero orders below plus zero
    let k (v : Nat) : Int := 2 * f.key v - (if bitAt v (f.e + f.m) then 1 else 0)
    if k x ≤ k y then (if isMax then y else x, fl) else (if isMax then x else y, fl)

/-! ## Conversions -/

/-- A value of one format in another (11 R259). -/
def convFmt (src dst : Fmt) (rm : Rm) (v : Nat) : FRes :=
  match src.decode v with
  | .nan s => dst.nanR (if s then fNV else 0)
  | .inf s => dst.infR s 0
  | .fin s m e => dst.round rm s m e false

/-- A value rounded to an integral value of its format (11 R261). -/
def Fmt.integral (f : Fmt) (rm : Rm) (v : Nat) : FRes :=
  match f.decode v with
  | .nan s => f.nanR (if s then fNV else 0)
  | .inf s => f.infR s 0
  | .fin s m e => 
    -- an integer with at most as many bits as the format: nothing more is rounded
    ((f.round rm s (if 0 ≤ e then m else (roundTo rm s m e false 0).1) (if 0 ≤ e then e else 0) false).1, 0)

/-- A value truncated to an integer in [lo, hi] (11 R260). -/
def Fmt.toInt (f : Fmt) (v : Nat) (lo hi : Int) : Int × Byte :=
  match f.decode v with
  | .nan _ => (0, fNV)
  | .inf s => (if s then lo else hi, fNV)
  | .fin s m e =>
    let r := roundTo .rz s m e false 0
    let t : Int := if s then -(r.1 : Int) else r.1
    if t < lo then (lo, fNV) else if hi < t then (hi, fNV) else (t, if r.2 then 0 else fNX)

end Sys2Proof.Machine

namespace Sys2Proof

/-- The format of a float type and of a packed type's elements. -/
def FW.fmt : FW → Machine.Fmt | .f32 => Machine.fmt32 | .f64 => Machine.fmt64
def PW.fmt : PW → Machine.Fmt | .bf16x2 => Machine.fmtBf | .f16x2 => Machine.fmt16

/-- The direction of a conversion form. -/
def RDir.rm (r : RDir) (x : Machine.Thread) : Machine.Rm :=
  match r with | .mode => x.rm | .rz => .rz | .rd => .rd | .ru => .ru

/-- The register of a source and the source of the next register at the same level (02 R21). -/
def Src.reg? : Src → Option Reg
  | .oc r | .last r | .direct r => some r
  | .special _ => none
def Src.next (a : Src) : Src :=
  match a with
  | .oc r => .oc (r + 1)
  | .last r => .last (r + 1)
  | .direct r => .direct (r + 1)
  | .special p => .special p

/-- Whether a source can name an .f64 interval: an even register (02 R21). -/
def Src.even (a : Src) : Bool := match a.reg? with | some r => r.val % 2 == 0 | none => false

end Sys2Proof
end

