-- ==== Sys2Proof/Machine/Special.lean ====
section
/-! DEFINITION. The special functions of 11 R254 and R256: enclosures of their exact values by integer arithmetic, and the
results that the bounds of the tables allow. Which of these a device returns is a free value (log entry 7). -/

namespace Sys2Proof.Machine

/-! ## Enclosures -/

/-- The reals from `lo · 2^e` to `hi · 2^e`. -/
structure Encl where
  lo : Int
  hi : Int
  e : Int
  deriving DecidableEq, Repr

/-- Fraction bits of the fixed-point numbers below, and a bound in units for what truncations make of a result. -/
def fxW : Nat := 256
def fxErr : Nat := 2 ^ 40
def fxOne : Nat := 2 ^ fxW

/-- The enclosure around a fixed-point number. -/
def Encl.around (v : Int) (e : Int) : Encl := ⟨v - (fxErr : Nat), v + (fxErr : Nat), e⟩

/-- A decoded finite value as a fixed-point number, truncated. -/
def toFix (s : Bool) (m : Nat) (e : Int) : Int :=
  let n : Nat := if 0 ≤ e + fxW then m * 2 ^ (e + fxW).toNat else m / 2 ^ (-(e + fxW)).toNat
  if s then -(n : Int) else n

/-- The terms of exp(t) from the `k`th one, `c`. -/
def expSum (t : Nat) : Nat → Nat → Nat → Nat
  | 0, _, _ => 0
  | n + 1, k, c => c + expSum t n (k + 1) (c * t / fxOne / (k + 1))

/-- The terms of atanh from c / (2k + 1), where c is z^(2k+1); `z2` is the square. -/
def atanhSum (z2 : Nat) : Nat → Nat → Nat → Nat
  | 0, _, _ => 0
  | n + 1, k, c => c / (2 * k + 1) + atanhSum z2 n (k + 1) (c * z2 / fxOne)

/-- ln 2 = 2 atanh(1/3). -/
def fxLn2 : Nat := 2 * atanhSum (fxOne / 9) 90 0 (fxOne / 3)

/-- The terms of atan(1/d) from c / (2k + 1), where c is 1/d^(2k+1). -/
def atanSum (d : Nat) : Nat → Nat → Nat → Int
  | 0, _, _ => 0
  | n + 1, k, c => (c / (2 * k + 1) : Nat) - atanSum d n (k + 1) (c / (d * d))

/-- Fraction bits of 2π, enough to reduce the largest finite value, and 2π by Machin's formula. -/
def piW : Nat := 1400
def fxTwoPi : Nat := (32 * atanSum 5 310 0 (2 ^ piW / 5) - 8 * atanSum 239 310 0 (2 ^ piW / 239)).toNat

/-- The alternating terms of sin (from j = 1) or cos (from j = 0), from `c` on; `r2` is the square. -/
def sinSum (r2 : Nat) : Nat → Nat → Nat → Int
  | 0, _, _ => 0
  | n + 1, j, c => (c : Int) - sinSum r2 n (j + 2) (c * r2 / fxOne / ((j + 1) * (j + 2)))

/-- 2^y for a fixed-point y: the mantissa, which lies in [1, 2), and the exponent of its units. -/
def pow2Fix (y : Int) : Nat × Int :=
  (expSum ((y % (fxOne : Nat)).toNat * fxLn2 / fxOne) 90 0 fxOne, y / (fxOne : Nat) - fxW)

/-- 2^x of a finite x. Far outside a format's range its result is all that counts. -/
def exp2Encl (f : Fmt) (s : Bool) (m : Nat) (e : Int) : Encl :=
  let big := decide (((2 ^ (f.e + 2) : Nat) : Int) ≤ ((roundTo .rz false m e false 0).1 : Int))
  let n := if 0 ≤ e then m * 2 ^ e.toNat else m / 2 ^ (-e).toNat
  if big then (if s then ⟨0, 1, f.lsb - 8⟩ else ⟨1, 1, (f.bias : Int) + 2⟩)
  else if 0 ≤ e ∨ n * 2 ^ (-e).toNat = m then ⟨1, 1, if s then -(n : Int) else n⟩
  else
    let p := pow2Fix (toFix s m e)
    .around p.1 p.2

/-- log2 of a positive finite value: n + ln(u) / ln 2 with u in [1, 2). -/
def log2Encl (m : Nat) (e : Int) : Encl :=
  let k := m.log2
  -- z = (u - 1) / (u + 1) with u = m / 2^k
  let z := (m - 2 ^ k) * fxOne / (m + 2 ^ k)
  let l := 2 * atanhSum (z * z / fxOne) 90 0 z * fxOne / fxLn2
  if 2 ^ k = m then ⟨e + k, e + k, 0⟩ else .around ((e + k) * (fxOne : Nat) + (l : Nat)) (-(fxW : Int))

/-- sin or cos of a finite value. -/
def sinEncl (cos : Bool) (s : Bool) (m : Nat) (e : Int) : Encl :=
  let r := (m * 2 ^ (e + piW).toNat) % fxTwoPi / 2 ^ (piW - fxW)
  let v := if cos then sinSum (r * r / fxOne) 60 0 fxOne else sinSum (r * r / fxOne) 60 1 r
  .around (if s && !cos then -v else v) (-(fxW : Int))

/-- 1/sqrt of a positive finite value: 2^(2k) / (m 2^p) has the root r, with an even exponent e - p. -/
def rsqEncl (m : Nat) (e : Int) : Encl :=
  let p := (e % 2).toNat
  let k := m.log2 + 200
  let n := m * 2 ^ p
  let r := isqrt (2 ^ (2 * k) / n)
  ⟨r, if r * r * n = 2 ^ (2 * k) then r else r + 1, -(e - p) / 2 - k⟩

/-- tanh of the magnitude of a finite value that is not 0: (E - 1) / (E + 1) with E = e^(2x). -/
def tanhMag (m : Nat) (e : Int) : Encl :=
  if e + m.log2 < -60 then ⟨m * 2 ^ 119 - m, m * 2 ^ 119, e - 119⟩
  else if 32 ≤ (roundTo .rz false m e false 0).1 then ⟨2 ^ 90 - 1, 2 ^ 90, -90⟩
  else
    let p := pow2Fix (2 * toFix false m e * (fxOne : Nat) / (fxLn2 : Nat))
    let k := (p.2 + fxW).toNat
    let q (v : Nat) : Nat := (v * 2 ^ k - fxOne) * fxOne / (v * 2 ^ k + fxOne)
    ⟨q (p.1 - fxErr), q (p.1 + fxErr) + 1, -(fxW : Int)⟩

def tanhEncl (s : Bool) (m : Nat) (e : Int) : Encl :=
  let x := tanhMag m e
  if s then ⟨-x.hi, -x.lo, x.e⟩ else x

/-! ## What the bounds allow -/

/-- The place of a value that is not NaN in the order of its format, minus zero just below plus zero; and back. -/
def Fmt.place (f : Fmt) (v : Nat) : Int :=
  if bitAt v (f.e + f.m) then -((v % f.sign : Nat) : Int) - 1 else (v % f.sign : Nat)
def Fmt.ofPlace (f : Fmt) (i : Int) : Nat := if i < 0 then f.sign + (-i - 1).toNat else i.toNat

/-- A value between two; which one, `c` decides. -/
def Fmt.between (f : Fmt) (a b c : Nat) : Nat :=
  f.ofPlace (f.place a + (c % ((f.place b - f.place a).toNat + 1) : Nat))

/-- The least and the greatest value within `n` units in the last place of a value. -/
def Fmt.ulpsBelow (f : Fmt) (v n : Nat) : Nat :=
  match f.decode v with
  | .fin s m e => (f.roundInt .ru ((if s then -(m : Int) else m) - n) e true).1
  | .inf s => if s then v else v - n
  | .nan _ => v
def Fmt.ulpsAbove (f : Fmt) (v n : Nat) : Nat :=
  match f.decode v with
  | .fin s m e =>
    let r := (f.roundInt .rd ((if s then -(m : Int) else m) + n) e false).1
    if r = f.maxFin then f.inf else r
  | .inf s => if s then v - n else v
  | .nan _ => v

/-- The enclosure's ends, rounded in a direction. -/
def Encl.loR (x : Encl) (f : Fmt) (rm : Rm) : Nat := (f.roundInt rm x.lo x.e true).1
def Encl.hiR (x : Encl) (f : Fmt) (rm : Rm) : Nat := (f.roundInt rm x.hi x.e false).1

/-- A result within `n` units in the last place of the exact value rounded to nearest, wherever in the enclosure that lies. -/
def Encl.near (x : Encl) (f : Fmt) (n c : Nat) : Nat :=
  f.between (f.ulpsBelow (x.hiR f .rne) n) (f.ulpsAbove (x.loR f .rne) n) c

/-- The values within 2^-k of every value of the enclosure; `k` is at most the number of its fraction bits. -/
def Encl.inner (x : Encl) (k : Nat) : Encl :=
  let d : Int := (2 ^ (-(k : Int) - x.e).toNat : Nat)
  ⟨x.hi - d, x.lo + d, x.e⟩

/-- A result within 2^-k of the exact value. -/
def Encl.within (x : Encl) (f : Fmt) (k c : Nat) : Nat :=
  let y := x.inner k
  f.between (y.loR f .ru) (y.hiR f .rd) c

/-- The exponent of a unit in the last place of the value to which an end rounds (log entry 7); of an infinity, the greatest. -/
def ulpExp (f : Fmt) (v : Nat) : Int := match f.decode v with | .fin _ _ e => e | _ => f.bias - f.m

/-- The end `v` of an enclosure moved by three units in the last place, rounded inwards. -/
def Encl.threeUlps (x : Encl) (f : Fmt) (v : Int) (down : Bool) : Nat :=
  let u := if ulpExp f (x.loR f .rne) ≤ ulpExp f (x.hiR f .rne) then ulpExp f (x.loR f .rne) else ulpExp f (x.hiR f .rne)
  let q := if x.e ≤ u then x.e else u
  let a := v * (2 ^ (x.e - q).toNat : Nat)
  let d : Int := (3 * 2 ^ (u - q).toNat : Nat)
  if down then (f.roundInt .ru (a - d) q true).1 else (f.roundInt .rd (a + d) q false).1

/-- rd' of R256: no greater than the exact value and within 3 units in the last place of it; ru' likewise from above. Past the
largest finite value the one is that value and the other infinity. -/
def Encl.below (x : Encl) (f : Fmt) (c : Nat) : Nat :=
  let top := x.loR f .rd
  let low := x.threeUlps f x.hi true
  f.between (if f.place top < f.place low then top else low) top c
def Encl.above (x : Encl) (f : Fmt) (c : Nat) : Nat :=
  let low := x.hiR f .ru
  let top := x.threeUlps f x.lo false
  f.between low (if f.place top < f.place low then low else top) c

end Sys2Proof.Machine
end

