-- ==== Sys2Proof/Machine/Branch.lean ====
section
/-! DEFINITION. Control flow, frames and system instructions: branches, meetings, exit, loops, calls, pins, traps and system
registers (14 R314 to R322, 09 R218 to R223, 17 R371 to R375). -/

namespace Sys2Proof.Machine

/-! ## Instructions of one thread that read sources and change its control state -/

/-- An instruction that reads sources and then changes the thread as `f` says, PC included, or takes a cause. In a protected
launch the pair compares `sig` (17 R388). -/
def ctlOp (srcs : List Src) (f : State → Nat → Thread → List Val → Except (Byte × Word) Thread) : LaneOp := fun s t =>
  match s.threads.get? t with
  | none => .ok s
  | some x =>
    match s.readAll t srcs with
    | .error e => .error e
    | .ok vs =>
      match f s t x vs with
      | .error (c, v) => .error (.trap c v none)
      | .ok _ =>
        let s1 := s.commit t srcs vs
        match s1.threads.get? t with
        | none => .ok s1
        | some y =>
          match f s t y vs with
          | .error (c, v) => .error (.trap c v none)
          | .ok z => .ok (s1.setT t z)

def ctlInstr (srcs : List Src) (sig : State → Nat → List Word)
    (f : State → Nat → Thread → List Val → Except (Byte × Word) Thread) : LaneInstr :=
  { op := ctlOp srcs f, srcs, sig, va := fun _ _ => none, once := false }

/-- Sequential completion in this state. -/
def Thread.next (x : Thread) (s : State) (t : Nat) : Thread := x.finish (s.codeBase t) s.cur.len

/-- A taken bra, jmp or jmpk: levels whose body does not hold the target end (14 R320). -/
def Thread.jump (x : Thread) (s : State) (t : Nat) (pc : Word) : Thread :=
  { x with loops := leaveLoops (s.codeBase t) pc.toNat x.loops }.transfer pc

/-- The exact target of a PC-relative transfer, or FETCH_BOUND (14 R313, R315). -/
def relTarget (pc : Word) (off : Int) : Except (Byte × Word) Word :=
  let t : Int := (pc.toNat : Int) + 2 * off
  if t < 0 ∨ 2 ^ 57 ≤ t then .error (cFETCH_BOUND, BitVec.ofInt 64 t) else .ok (BitVec.ofInt 64 t)

/-- Whether a thread's predicate matches a sense. -/
def hitsAt (se : Sense) (p : PReg) (x : Thread) : Bool := senseHit se (x.pred p)

/-- The direction a transfer of control takes, for the compare of a pair (17 R388). -/
def sigHit (se : Sense) (p : PReg) : State → Nat → List Word := fun s t =>
  match s.threads.get? t with | some x => [if hitsAt se p x then 1 else 0] | none => []

def execBra (o : Off19) (se : Sense) (p : PReg) (s : State) : Result :=
  perLane (ctlInstr [] (sigHit se p) fun s t x _ =>
    if hitsAt se p x then
      match relTarget x.pc o.toInt with
      | .ok pc => .ok (x.jump s t pc)
      | .error e => .error e
    else .ok (x.next s t)) s

def execJmp (o : Off19) (s : State) : Result :=
  perLane (ctlInstr [] (fun _ _ => []) fun s t x _ =>
    match relTarget x.pc o.toInt with
    | .ok pc => .ok (x.jump s t pc)
    | .error e => .error e) s

/-- jmpk reads its k register only where it hits (14 R315). -/
def jmpkOp (p : PReg) (se : Sense) (k : KReg) : LaneOp := fun s t =>
  match s.threads.get? t with
  | none => .ok s
  | some x =>
    if hitsAt se p x then
      ctlOp [.special (.k k)] (fun s t x vs =>
        let v := dataAt vs 0
        if fld v.toNat 57 7 != 0 then .error (cFETCH_BOUND, v) else .ok (x.jump s t (v &&& ~~~1))) s t
    else ctlOp [] (fun s t x _ => .ok (x.next s t)) s t

def execJmpk (p : PReg) (se : Sense) (k : KReg) (s : State) : Result :=
  perLane { op := jmpkOp p se k, srcs := [], sig := sigHit se p, va := fun _ _ => none, once := false } s

/-- meet: g[S] := mt as with K = 0, latches shift, mt := target (14 R316). -/
def execMeet (i : Imm16) (g : Reg) (s : State) : Result :=
  perLane (regInstr (fun _ _ => []) fun _ _ x _ =>
    let v := pt x.mt
    .ok { reg := g.val, k := false, regs := [v],
          upd := fun y => { y.latch v with mt := BitVec.ofInt 64 ((y.pc.toNat : Int) + 2 * i.toInt) } }) s

def execMeetR (a : Src) (s : State) : Result :=
  perLane (ctlInstr [a] (fun _ _ => []) fun s t x vs => .ok ({ x with mt := dataAt vs 0 }.next s t)) s

/-- exit: the thread ends once its accesses have bound; a crew whose threads have all exited departs (14 R317, 16 R353). -/
def exitOp : LaneOp := fun s t =>
  match s.threads.get? t with
  | none => .ok s
  | some x =>
    if !x.accs.isEmpty then .error (.block .drain)
    else
      let s := s.setT t { x with live := false, wait := .none, due := false }
      let s := if (s.liveThreads (ckOf t)).isEmpty then
          (s.departCrew (gangOf t) (crewOf t)).checkGangEnd (gangOf t)
        else s
      .ok s

def execExit (s : State) : Result :=
  perLane { op := exitOp, srcs := [], sig := fun _ _ => [], va := fun _ _ => none, once := false } s

/-- loop lcN, a, label (14 R318). -/
def execLoop (n : Fin3) (a : Src) (i : Imm9) (s : State) : Result :=
  perLane (ctlInstr [a] (sigOf [a]) fun s t x vs =>
    let cb := s.codeBase t
    let c : U32 := BitVec.ofNat 32 (dataAt vs 0).toNat
    let s0 := x.pc.toNat + 4
    let e := s0 + 2 * (i.toNat + 1)
    if c = 0 then
      let l := x.loops[n]
      let r := endOfBody cb x.pc.toNat e (x.loops.set n { l with active := false, count := 0 })
      .ok (({ x with loops := r.2 }.goto (BitVec.ofNat 64 r.1)).stepped x.xdepth)
    else
      let l : LoopLevel := ⟨true, c, BitVec.ofNat 32 ((s0 - cb) / 2), i⟩
      .ok (({ x with loops := x.loops.set n l }.goto (BitVec.ofNat 64 s0)).stepped x.xdepth)) s

/-! ## Frames (09 R218 to R222) -/

/-- STACK_LIMIT's xval: the reason and the window base that the instruction would have produced (09 R220). -/
def stackXval (reason : Nat) (wb : Int) : Word := BitVec.ofNat 64 (reason + (wb % 2 ^ 32).toNat * 2 ^ 32)

def State.stackN (s : State) (t : Nat) : Nat := match s.gangs.get? (gangOf t) with | some g => g.stackN | none => 0

/-- Slides the window up by n, writes the link as with K = 1 and goes on at `pc` (09 R219). A spill that faults blocks the
thread (R223). -/
def State.slideUp (s : State) (t : Nat) (n : Nat) (n8 : Nat) (pc : Word) : Except Stop State :=
  match s.threads.get? t with
  | none => .ok s
  | some x =>
    let link := BitVec.ofNat 64 (n8 * 2 ^ 60 + (x.pc + 4).toNat)
    let r := (s.setT t { x with wb := x.wb + n }).rangeMove t
    match r.1.writeRegs t 63 true [pt link] with
    | .error e => .error e
    | .ok s1 =>
      let s2 := s1.modT t fun y => y.transfer pc
      .ok (match r.2 with | some st => s2.frameStop t st | none => s2)

/-- call (09 R218, R219). DESIGN CHOICE: a target outside [0, 2^57), for which the spec names no test at the call, is taken modulo
2^64, and the fetch there traps (log entry 97). -/
def callOp (o : Off19) (n8 : N8) : LaneOp := fun s t =>
  match s.threads.get? t with
  | none => .ok s
  | some x =>
    let n := 8 * n8.val
    if s.stackN t < x.wb + n + 64 then .error (.trap cSTACK_LIMIT (stackXval 1 (x.wb + n)) none)
    else s.slideUp t n n8.val (BitVec.ofInt 64 ((x.pc.toNat : Int) + 2 * o.toInt))

def execCall (o : Off19) (n : N8) (s : State) : Result :=
  perLane { op := callOp o n, srcs := [], sig := fun _ _ => [], va := fun _ _ => none, once := false } s

/-- callk: its tests for every live member come before any change (09 R219). -/
def execCallk (k : KReg) (n8 : N8) (s : State) : Result :=
  collective [] (fun s ck =>
    let l := s.liveThreads ck
    let v := s.kreg ck k
    let n := 8 * n8.val
    let wbOf : Nat → Nat := fun t => match s.threads.get? t with | some x => x.wb | none => 0
    if s.kPending ck k.val then .error fun _ => .block .regs
    else if fld v.toNat 57 7 != 0 then .error (allTrap cFETCH_BOUND v)
    else if l.any fun t => decide (s.stackN t < wbOf t + n + 64) then
      .error fun t => .trap cSTACK_LIMIT (stackXval 1 (wbOf t + n)) none
    else if l.any fun t => slotPending (s.accsOf t) (wbOf t + n + 63) then .error fun _ => .block .regs
    else
      let s := s.observeK ck k
      .ok (l.foldl (fun s t => match s.slideUp t n n8.val (v &&& ~~~1) with | .ok s' => s' | .error st => s.stopT t st) s)) s

/-- ret (09 R220). -/
def retOp : LaneOp := fun s t =>
  match s.threads.get? t with
  | none => .ok s
  | some x =>
    match s.readAll t [.oc 63] with
    | .error e => .error e
    | .ok vs =>
      let link := (dataAt vs 0).toNat
      let n8 := fld link 60 3
      if n8 = 0 ∨ fld link 63 1 ≠ 0 ∨ fld link 57 3 ≠ 0 ∨ fld link 0 1 ≠ 0 ∨ x.wb < 8 * n8 then
        .error (.trap cSTACK_LIMIT (stackXval 2 ((x.wb : Int) - 8 * n8)) none)
      else
        let s1 := s.commit t [.oc 63] vs
        let s2 := s1.modT t fun y => ({ y with wb := y.wb - 8 * n8 }.freeAbove).transfer (BitVec.ofNat 64 (fld link 0 57))
        let r := s2.rangeMove t
        .ok (match r.2 with | some st => r.1.frameStop t st | none => r.1)

def execRet (s : State) : Result :=
  perLane { op := retOp, srcs := [], sig := sigOf [.oc 63], va := fun _ _ => none, once := false } s

/-- ocflush: every dirty entry written back, all entries invalid, the thread's pins released (09 R221, log
entry 93). -/
def flushFrom (t : Nat) : List Nat → State → Except Stop State
  | [], s => .ok s
  | i :: r, s =>
    match s.writeBack t i with
    | .ok s' => flushFrom t r s'
    | .error e => .error e

def ocflushOp : LaneOp := fun s t =>
  match s.threads.get? t with
  | none => .ok s
  | some x =>
    let slots := x.oc.map (·.1)
    match flushFrom t slots s with
    | .error e => .error e
    | .ok s1 =>
      let s2 := s1.modC (ckOf t) fun c => { c with pins := c.pins.filter fun i => !slots.contains i }
      .ok (s2.modT t fun y => y.next s2 t)

def execOcflush (s : State) : Result :=
  perLane { op := ocflushOp, srcs := [], sig := fun _ _ => [], va := fun _ _ => none, once := false } s

/-- ockeep: level 00 fills the entry and pins the row, a ninth pin releasing the oldest; level 10 releases the pin
(09 R222, log entry 93). -/
def ockeepOp (r : Reg) (pin : Bool) : LaneOp := fun s t =>
  match s.threads.get? t with
  | none => .ok s
  | some x =>
    let i := x.wb + r.val
    if pin then
      match s.readAll t [.oc r] with
      | .error e => .error e
      | .ok vs =>
        let s1 := (s.commit t [.oc r] vs).modC (ckOf t) fun c =>
          let p := c.pins.filter (· != i) ++ [i]
          { c with pins := if 8 < p.length then p.drop 1 else p }
        .ok (s1.modT t fun y => y.next s1 t)
    else
      let s1 := s.modC (ckOf t) fun c => { c with pins := c.pins.filter (· != i) }
      .ok (s1.modT t fun y => y.next s1 t)

def execOckeep (r : Reg) (pin : Bool) (s : State) : Result :=
  perLane { op := ockeepOp r pin, srcs := [], sig := fun _ _ => [], va := fun _ _ => none, once := false } s

/-! ## nop, traps and system registers -/

def execNop (s : State) : Result := perLane (ctlInstr [] (fun _ _ => []) fun s t x _ => .ok (x.next s t)) s
def execNopH (_ : Reg5) (s : State) : Result := perLane (ctlInstr [] (fun _ _ => []) fun s t x _ => .ok (x.next s t)) s

def execBrk (s : State) : Result :=
  perLane (ctlInstr [] (fun _ _ => []) fun _ _ _ _ => .error (cBREAKPOINT, 0)) s

/-- trap a: SOFTWARE with a's value (17 R374). An instruction that traps frees no entry (03 R56). -/
def trapOp (a : Src) : LaneOp := fun s t =>
  match s.readAll t [a] with
  | .error e => .error e
  | .ok vs => .error (.trap cSOFTWARE (dataAt vs 0) none)

def execTrap (a : Src) (s : State) : Result :=
  perLane { op := trapOp a, srcs := [], sig := sigOf [a], va := fun _ _ => none, once := false } s

def tretOp : LaneOp := fun s t =>
  match s.threads.get? t with
  | none => .ok s
  | some x => if x.xdepth then .ok (s.tretT t) else .error (.trap cILLEGAL s.cur.word none)

def execTret (s : State) : Result :=
  perLane { op := tretOp, srcs := [], sig := fun _ _ => [], va := fun _ _ => none, once := false } s

/-- xpend (17 R373). -/
def Thread.xpend (x : Thread) : Word :=
  BitVec.ofNat 64 ((List.range 3).foldl (fun n i =>
    let p := x.pend[Fin.ofNat 3 i]
    n + (p.cause.toNat + (if p.lost then 2 ^ 14 else 0) + (if p.valid then 2 ^ 15 else 0)) * 2 ^ (16 * i)) 0)

/-- tcfg (12 R275). -/
def Gang.tcfg (g : Gang) : Word := BitVec.ofNat 64 (g.grows + g.gcols * 2 ^ 16 + if g.fit then 2 ^ 32 else 0)

/-- gangid: the index, or for a node gang bit 63 and its serial number (17 R371). -/
def Gang.gangid (g : Gang) : Word :=
  match g.node with
  | none => BitVec.ofNat 64 g.index
  | some _ => BitVec.ofNat 64 (2 ^ 63 + g.nodeSerial % 2 ^ 32)

/-- The span index of a gang. -/
def State.spanIndex (s : State) (g : Gang) : Word :=
  if g.kernel.span ≤ 1 then g.gangid
  else BitVec.ofNat 64 (match s.spans.get? g.span with | some p => p.index | none => 0)

/-- The value of a system register (17 R371). -/
def State.sysReg (s : State) (t : Nat) (x : Thread) (n : Nat) : Word :=
  match s.gangs.get? (gangOf t) with
  | none => 0
  | some g =>
    match n with
    | 0 => BitVec.ofNat 64 (if g.kernel.protected_ then 16 * crewOf t + laneOf t / 2 else 32 * crewOf t + laneOf t)
    | 1 => BitVec.ofNat 64 (crewOf t)
    | 2 => g.gangid
    | 3 => s.spanIndex g
    | 4 => BitVec.ofNat 64 (g.lid % 65536 + (g.node.getD 0) % 256 * 65536)
    | 5 => BitVec.ofNat 64 g.core
    | 6 => BitVec.ofNat 64 g.kernel.codeBase
    | 8 => BitVec.ofNat 64 s.time
    | 9 => x.fpmode.setWidth 64
    | 10 => g.tcfg
    | 11 => x.tstat.setWidth 64
    | 16 => x.xpc
    | 17 => x.xcause
    | 18 => x.xval
    | 19 => if x.xdepth then 1 else 0
    | 20 => x.xpend
    | 21 => BitVec.ofNat 64 (x.xvec.toNat % 2 ^ 32)
    | 22 => if x.step then 1 else 0
    | _ => 0

/-- sget: a point, no latch update (17 R374, 09 R215). -/
def execSget (d : Dst) (r : SysReg) (s : State) : Result :=
  perLane (regInstr (fun _ _ => []) fun s t x _ => .ok (resultNoLatch d (pt (s.sysReg t x r.val)))) s

/-- The writable system registers; a write to an RO register is ignored (17 R371, 11 R246). -/
def Thread.sput (x : Thread) (n : Nat) (v : Word) : Thread :=
  match n with
  | 9 => { x with fpmode := BitVec.ofNat 8 (v.toNat % 8) }
  | 11 => { x with tstat := v.setWidth 8 }
  | 16 => { x with xpc := v }
  | 20 => { x with pend := x.pend.mapIdx fun i p => { p with lost := p.lost && !v.getLsbD (16 * i + 14) } }
  | 21 => { x with xvec := BitVec.ofNat 64 (v.toNat % 2 ^ 32) }
  | 22 => { x with step := v.getLsbD 0 }
  | _ => x

def execSput (r : SysReg) (a : Src) (s : State) : Result :=
  perLane (ctlInstr [a] (sigOf [a]) fun s t x vs =>
    let y := x.sput r.val (dataAt vs 0)
    .ok ((y.finish (s.codeBase t) s.cur.len))) s

end Sys2Proof.Machine
end

