-- ==== Sys2Proof/Machine/Sync.lean ====
section
/-! DEFINITION. Barriers, queue registers, node records and sleep (16 R349 to R364). -/

namespace Sys2Proof.Machine

/-- Sets what every live member of a crew waits for. -/
def State.crewWait (s : State) (ck : Nat) (w : Wait) : State :=
  s.onThreads (s.liveThreads ck) fun x => { x with wait := w }

/-- Whether every access of the crew's live members has bound (16 R349). -/
def State.crewDrained (s : State) (ck : Nat) : Bool :=
  (s.liveThreads ck).all fun t => match s.threads.get? t with | some x => x.accs.isEmpty | none => true

/-- A field outside its limit: every thread of the bundle takes ILLEGAL_INSTR (16 R355, 03 R63). -/
def illegalOp : LaneOp := fun s _ => .error (.trap cILLEGAL s.cur.word none)
def illegalInstr : LaneInstr :=
  { op := illegalOp, srcs := [], sig := fun _ _ => [], va := fun _ _ => none, once := false }

/-- The number of barriers of the current gang. -/
def State.barriers (s : State) : Nat := match s.gangs.get? s.cur.gang with | some g => g.kernel.barriers | none => 0

/-- A barrier and the ticket of crew `ck` for it. -/
def State.barOf (s : State) (ck : Nat) (n : BReg) : Option (Bar × BitVec 16) :=
  match s.gangs.get? (ck / 32), s.crews.get? ck with
  | some g, some c => some (g.bars[n], c.tp[n])
  | _, _ => none

/-- Bit `j` of a mask. -/
def bitOf (m : BitVec w) (j : Nat) : Bool := m.getLsbD j

/-- bar.arr for a crew (16 R352). -/
def barArrOp (n : BReg) : CrewOp := fun s ck =>
  if !s.crewDrained ck then .error fun _ => .block .drain
  else match s.barOf ck n with
    | none => .ok s
    | some (b, _) =>
      if bitOf b.arr (ck % 32) then .ok (s.crewWait ck (.barArr n.val))
      else .ok (((s.barArrive (ck / 32) (ck % 32) n.val).finishCrew ck).barComplete (ck / 32) n.val 40)

/-- bar.wait for a crew, or (`sync`) the wait of its bar.sync (16 R352): at once when a phase has completed since its ticket, else out of the ready set. -/
def barWaitOp (sync : Bool) (n : BReg) : CrewOp := fun s ck =>
  match s.barOf ck n with
  | none => .ok s
  | some (b, tp) =>
    if b.ph != tp then .ok (s.barLeave (ck / 32) (ck % 32) n.val) else .ok (s.crewWait ck (.bar n.val sync))

/-- bar.sync for a crew: arrival unless it stands, then the wait (16 R352). -/
def barSyncOp (n : BReg) : CrewOp := fun s ck =>
  if !s.crewDrained ck then .error fun _ => .block .drain
  else match s.barOf ck n with
    | none => .ok s
    | some (b, _) =>
      let s := if bitOf b.arr (ck % 32) then s
        else (s.barArrive (ck / 32) (ck % 32) n.val).barComplete (ck / 32) n.val 40
      barWaitOp true n s ck

def barExpOp (n : BReg) (c : KReg16) : CrewOp := fun s ck =>
  if s.kPending ck (k16 c).val then .error fun _ => .block .regs
  else
    let v := (s.kreg ck (k16 c)).toNat
    let s := s.observeK ck (k16 c)
    let s := s.modG (ck / 32) fun g =>
      let b := g.bars[n]
      { g with bars := g.bars.set n { b with exp := Nat.min v 32, xset := true, seen := b.arr } }
    .ok ((s.finishCrew ck).barComplete (ck / 32) n.val 40)

/-- sbar for a crew: bar.sync on a span barrier (16 R354). -/
def sbarOp (n : Fin4) : CrewOp := fun s ck =>
  if !s.crewDrained ck then .error fun _ => .block .drain
  else match s.gangs.get? (ck / 32) with
    | none => .ok s
    | some g =>
      match s.spans.get? g.span with
      | none => .ok s
      | some sp =>
        let b := sp.bars[n]
        let c := 32 * g.spanPos + ck % 32
        let s := if bitOf b.arr c then s
          else
            let bt := Nat.max b.bt (s.maxLt (s.liveThreads ck))
            let s := s.modS g.span fun sp => { sp with
              bars := sp.bars.set n { b with arr := b.arr ||| BitVec.ofNat 256 (2 ^ c), bt } }
            let s := s.modC ck fun y => { y with ts := y.ts.set n b.ph }
            s.spanComplete g.span n.val
        match s.spans.get? g.span, s.crews.get? ck with
        | some sp, some y =>
          if (sp.bars[n]).ph != y.ts[n] then
            let s := s.modC ck fun y => { y with ts := y.ts.set n (sp.bars[n]).ph }
            let s := s.onThreads (s.liveThreads ck) fun x => { x with lt := Nat.max x.lt (sp.bars[n]).bt }
            .ok (s.finishCrew ck)
          else .ok (s.crewWait ck (.span n.val))
        | _, _ => .ok s

def execBarArr (n : BReg) (s : State) : Result :=
  if s.barriers ≤ n.val then perLane illegalInstr s else collective [] (barArrOp n) s
def execBarWait (n : BReg) (s : State) : Result :=
  if s.barriers ≤ n.val then perLane illegalInstr s else collective [] (barWaitOp false n) s
def execBarSync (n : BReg) (s : State) : Result :=
  if s.barriers ≤ n.val then perLane illegalInstr s else collective [] (barSyncOp n) s
def execBarExp (n : BReg) (c : KReg16) (s : State) : Result :=
  if s.barriers ≤ n.val then perLane illegalInstr s else collective [] (barExpOp n c) s
def execSbar (n : Fin4) (s : State) : Result := collective [] (sbarOp n) s

/-! ## Queue registers -/

/-- Whether no other thread waits ahead of this one to push to queue `k`, or to send to node `k - 8` (16 R356, R359). -/
def State.pushTurn (s : State) (t k : Nat) : Bool :=
  match s.gangs.get? (gangOf t) with
  | some g => match g.pushes.find? (·.1 == k) with | some e => e.2 == s.lead t | none => true
  | none => true

/-- A thread that has pushed or sent leaves its place. -/
def State.leavePushes (s : State) (t : Nat) : State :=
  s.modG (gangOf t) fun g => { g with pushes := g.pushes.filter (·.2 != t) }

/-- qput: appends (a, lt) at the tail when it completes, once its accesses have bound (16 R349, R357). Its place among the pushes is
that of its issue (R356). -/
def qputOp (q : QReg) (a : Src) : LaneOp := fun s t =>
  match s.threads.get? t with
  | none => .ok s
  | some x =>
    if s.queueCount t ≤ q.val then .error (.trap cILLEGAL s.cur.word none)
    else match s.readAll t [a] with
      | .error e => .error e
      | .ok vs =>
        if !x.accs.isEmpty then .error (.block (.turn q.val))
        else
          let s1 := s.commit t [a] vs
          if 16 ≤ ((s1.queuesOf (gangOf t))[q]).length || !s.pushTurn t q.val then .error (.block (.push q.val))
          else
            let lt := match s1.threads.get? t with | some y => y.lt | none => 0
            let s2 := s1.modG (gangOf t) fun g =>
              { g with queues := g.queues.set q (g.queues[q] ++ [⟨dataAt vs 0, lt⟩]),
                       pushes := g.pushes.filter (·.2 != t) }
            .ok (s2.modT t fun y => y.next s2 t)

def execQput (q : QReg) (a : Src) (s : State) : Result :=
  perLane { op := qputOp q a, srcs := [a], sig := sigOf [a], va := fun _ _ => none, once := true } s

def execQget (d : Dst) (q : QReg) (s : State) : Result :=
  match s.gangs.get? s.cur.gang with
  | some g =>
    if g.kernel.queues ≤ q.val then perLane illegalInstr s
    else perLane (regInstr (fun _ _ => [.special (.pop q)]) fun _ _ _ vs => .ok (result d (pt (dataAt vs 0)) 0)) s
  | none => .fault .noSuchObject

def execQlen (d : Dst) (q : QReg) (s : State) : Result :=
  match s.gangs.get? s.cur.gang with
  | some g =>
    if g.kernel.queues ≤ q.val then perLane illegalInstr s
    else perLane (regInstr (fun _ _ => []) fun s t _ _ =>
      .ok (result d (pt (BitVec.ofNat 64 ((s.queuesOf (gangOf t))[q]).length)) 0)) s
  | none => .fault .noSuchObject

/-! ## Node records (16 R358, R359) -/

/-- Whether a record of a node is on its way to its bin. -/
def State.recordUnderWay (s : State) (slot n : Nat) : Bool :=
  s.msgs.any fun m => m.2.e.launch == slot && m.2.e.node == some n

/-- Sends a record to a bin: the common steps of nput and ibsp, after their reads. The record's write is a message that
counts in the stores class until it binds. A record waits while another of the same bin is on its way, so that slots
follow the order of arrival (log entry 17); the records of a bundle go in ascending home-lane order. -/
def State.sendRecord (s : State) (t : Nat) (sel lo hi : Word) : Except Stop State :=
  match s.threads.get? t, s.gangs.get? (gangOf t) with
  | some x, some g =>
    match s.launches.get? g.slot with
    | none => .ok s
    | some l =>
      let n := fld sel.toNat 0 8
      match l.nodes[n]? with
      | none => .error (.trap cPROTECTION sel none)
      | some nd =>
        if !x.accs.isEmpty then .error (.block (.turn (8 + n)))
        else if nd.binCap ≤ nd.count || s.recordUnderWay g.slot n || !s.pushTurn t (8 + n) then
          .error (.block (.bin n))
        else
          let va := nd.binVa + 16 * ((nd.head + nd.count) % nd.binCap)
          let slot := match s.crews.get? (ckOf t) with | some c => c.slot % 4 | none => 0
          match s.tlbLook g.core (some slot) g.aspace va .store (s.replSlot g) with
          | none => .error (.walk (BitVec.ofNat 64 va) .store false)
          | some e =>
            let bytes := (leBytes 8 lo.toNat ++ leBytes 8 hi.toNat).zipIdx.map fun b => (va % 64 + b.2, b.1)
            let m : StoreEntry :=
              { launch := g.slot, core := g.core, slot, place := e.place (va / 64 * 64) g.core, key := leafKey e.leaf
                rep := leafRep e.leaf, comp := leafComp e.leaf, bytes, b := x.lt
                feeders := [(t, BitVec.ofNat 64 va, s.time)], opened := s.time, node := some n }
            .ok ({ s with msgs := s.msgs.set s.nextId ⟨m, .sent, s.nextId⟩, nextId := s.nextId + 1 }.leavePushes t |>.modT t fun y =>
              { y with accs := y.accs ++ [Acc.store s.nextId (BitVec.ofNat 64 va) 16] })
  | _, _ => .ok s

/-- nput: payload a and the selector's tag (16 R358). -/
def nputOp (a b : Src) : LaneOp := fun s t =>
  match s.readAll t [a, b] with
  | .error e => .error e
  | .ok vs =>
    match (s.commit t [a, b] vs).sendRecord t (dataAt vs 1) (dataAt vs 0)
        (BitVec.ofNat 64 (fld (dataAt vs 1).toNat 32 32)) with
    | .error e => .error e
    | .ok s2 => .ok (s2.modT t fun y => y.next s2 t)

def execNput (a b : Src) (s : State) : Result :=
  perLane { op := nputOp a b, srcs := [a, b], sig := sigOf [a, b], va := fun _ _ => none, once := true } s

/-! ## sleep (16 R360) -/

/-- sleep: a stopped sleep of the thread's depth resumes its remainder; otherwise it starts for min(a + imm, 2^32 - 1) cycles. The
effects of its read come when it completes (03 R58). -/
def sleepOp (a : Src) (i : Imm9) : LaneOp := fun s t =>
  match s.threads.get? t with
  | none => .ok s
  | some x =>
    match x.sleepRest with
    | some n => .ok (s.setT t { x.setSleep none with wait := .sleep (s.time + n) a })
    | none =>
      match s.readAll t [a] with
      | .error e => .error e
      | .ok vs =>
        let n := Nat.min ((dataAt vs 0).toNat + i.toNat) (2 ^ 32 - 1)
        let s1 := s.commit t [a] vs
        if n = 0 then .ok (s1.modT t fun y => y.next s1 t)
        else .ok ((s.holdPops t [a]).modT t fun y => { y with wait := .sleep (s.time + n) a })

def execSleep (a : Src) (i : Imm9) (s : State) : Result :=
  perLane { op := sleepOp a i, srcs := [a], sig := sigOf [a], va := fun _ _ => none, once := false } s

end Sys2Proof.Machine
end

