-- ==== Sys2Proof/Machine/Float.lean ====
section
/-! DEFINITION. Floating-point, interval and predicate instructions (11 R246 to R272). -/

namespace Sys2Proof.Machine

/-! ## Operands with kinds -/

/-- An operand in its format: a point, or an interval's bounds. -/
inductive Opd where
  | pt (v : Nat)
  | iv (lo hi : Nat)
  deriving DecidableEq, Repr

/-- Whether an .f64 operand is an interval and takes its pair (02 R21). -/
def takesPair (s : State) (t : Nat) (x : Thread) (a : Src) : Bool :=
  match a.reg? with
  | some r => r.val % 2 == 0 && (match s.slotVal t x (x.wb + r.val) with | .ok v => v.kind | .error _ => false)
  | none => false

/-- The sources that operands of a float type read: an .f64 interval takes its pair (02 R21). -/
def ivSrcs (f : FW) (ops : List Src) (s : State) (t : Nat) : List Src :=
  match f, s.threads.get? t with
  | .f64, some x => ops.flatMap fun a => if takesPair s t x a then [a, a.next] else [a]
  | _, _ => ops

/-- The operands that the values read for `ivSrcs` make up. -/
def opdsOf (f : FW) : List Src → List Val → List Opd
  | a :: r, v :: vs =>
    match f with
    | .f32 =>
      (if v.kind then .iv (fld v.data.toNat 0 32) (fld v.data.toNat 32 32) else .pt (fld v.data.toNat 0 32)) ::
        opdsOf f r vs
    | .f64 =>
      if a.even && v.kind then
        match vs with
        | w :: vs' => .iv v.data.toNat w.data.toNat :: opdsOf f r vs'
        | [] => [.pt v.data.toNat]
      else .pt v.data.toNat :: opdsOf f r vs
  | _, _ => []

/-- A point result of a float type. -/
def fpoint (n : Nat) : Val := pt (BitVec.ofNat 64 n)

/-- The classes of an interval (02 R22). -/
def isNaI (f : Fmt) (lo hi : Nat) : Bool := (f.decode lo).isNan || (f.decode hi).isNan
def isEmptyIv (f : Fmt) (lo hi : Nat) : Bool :=
  !isNaI f lo hi && (lo == f.inf || hi == f.sign + f.inf || decide (f.key hi < f.key lo))

/-- The canonical NaI and the canonical empty interval (02 R22). -/
def naI (f : Fmt) : Nat × Nat := (f.nan, f.nan)
def emptyIv (f : Fmt) : Nat × Nat := (f.inf, f.sign + f.inf)

/-- A zero bound is written as +0 (11 R256). -/
def posZero (f : Fmt) (v : Nat) : Nat := if v % f.sign = 0 then 0 else v

/-- An interval result: one register for .f32, the pair for .f64 (11 R255). -/
def ivRegs (f : FW) (b : Nat × Nat) : List Val :=
  match f with
  | .f32 => [⟨BitVec.ofNat 64 (b.1 + b.2 * 2 ^ 32), true⟩]
  | .f64 => [⟨BitVec.ofNat 64 b.1, true⟩, ⟨BitVec.ofNat 64 b.2, true⟩]
def ivResult (f : FW) (d : Dst) (b : Nat × Nat) (fl : Byte) : Eff :=
  { reg := d.reg.val, k := d.k, regs := ivRegs f b, upd := fun x => (x.raise fl).latch ((ivRegs f b).headD (pt 0)) }

/-- Promotion of a point (11 R255). -/
def Opd.promote (f : Fmt) : Opd → Nat × Nat
  | .iv lo hi => (lo, hi)
  | .pt v => if (f.decode v).isNan then naI f else (v, v)
def Opd.isIv : Opd → Bool | .iv _ _ => true | .pt _ => false
def Opd.pnt : Opd → Nat | .pt v => v | .iv v _ => v

/-- The position, from 1, of the first empty operand; 0 for none. -/
def firstEmpty (f : Fmt) : Nat → List (Nat × Nat) → Nat
  | _, [] => 0
  | n, b :: r => if isEmptyIv f b.1 b.2 then n else firstEmpty f (n + 1) r

/-- EMPTY_INTERVAL for operand `n`, or for an empty result with 0 (11 R257). -/
def emptyTrap (n : Nat) : Byte × Word := (cEMPTY, BitVec.ofNat 64 n)

/-- An .f64 interval result with an odd d (11 R255). -/
def oddPair (f : FW) (d : Dst) : Bool := match f with | .f32 => false | .f64 => d.reg.val % 2 == 1

/-- The interval form over promoted operands, in the order of 17 R368; `g` gives the bounds, none for an empty result. -/
def ivForm (f : FW) (d : Dst) (s : State) (bs : List (Nat × Nat)) (g : List (Nat × Nat) → Option (Nat × Nat)) :
    Except (Byte × Word) Eff :=
  let F := f.fmt
  let e := firstEmpty F 1 bs
  if e ≠ 0 then .error (emptyTrap e)
  else if oddPair f d then .error (cILLEGAL, s.cur.word)
  else if bs.any fun b => isNaI F b.1 b.2 then .ok (ivResult f d (naI F) 0)
  else match g bs with
    | none => .error (emptyTrap 0)
    | some b => .ok (ivResult f d (posZero F b.1, posZero F b.2) 0)

/-- A form that is performed on points or on intervals (11 R255). -/
def floatForm (f : FW) (d : Dst) (ops : List Src) (p : Thread → List Nat → FRes)
    (g : List (Nat × Nat) → Option (Nat × Nat)) : LaneInstr :=
  regInstr (ivSrcs f ops) fun s _ x vs =>
    let os := opdsOf f ops vs
    if os.any Opd.isIv then ivForm f d s (os.map (Opd.promote f.fmt)) g
    else
      let r := p x (os.map Opd.pnt)
      .ok (result d (fpoint r.1) r.2)

/-! ## Point arithmetic (11 R251, R252) -/

/-- FTZ on inputs and on the result of the .f32 forms (11 R247). -/
def ftzIn (f : FW) (x : Thread) (v : Nat) : Nat :=
  match f with
  | .f32 => if x.ftz && v % 2 ^ 31 < 2 ^ 23 then v / 2 ^ 31 * 2 ^ 31 else v
  | .f64 => v
def ftzOut (f : FW) (x : Thread) (r : FRes) : FRes :=
  match f with
  | .f32 =>
    if x.ftz && decide (0 < r.1 % 2 ^ 31 ∧ r.1 % 2 ^ 31 < 2 ^ 23) then (r.1 / 2 ^ 31 * 2 ^ 31, r.2 ||| fUF ||| fNX) else r
  | .f64 => r

def arithPt (f : FW) (g : Rm → List FP → FRes) : Thread → List Nat → FRes := fun x vs =>
  ftzOut f x (g x.rm (vs.map fun v => f.fmt.decode (ftzIn f x v)))

def fpAt (l : List FP) (n : Nat) : FP := l.getD n (.fin false 0 0)
def bndAt (l : List (Nat × Nat)) (n : Nat) : Nat × Nat := l.getD n (0, 0)
def natAt (l : List Nat) (n : Nat) : Nat := l.getD n 0

/-! ## Interval bounds (11 R256) -/

/-- The least and the greatest of bounds in the order of their format. -/
def minKey (f : Fmt) (l : List Nat) : Nat := (minBy (fun v => (f.key v + 2 ^ 64).toNat) l).getD 0
def maxKey (f : Fmt) (l : List Nat) : Nat := (maxBy (fun v => (f.key v + 2 ^ 64).toNat) l).getD 0

def negBits (f : Fmt) (v : Nat) : Nat := (v + f.sign) % (2 * f.sign)

/-- Sums rounded in a direction. -/
def addR (f : Fmt) (rm : Rm) (a b : Nat) : Nat := (f.addP rm (f.decode a) (f.decode b)).1

/-- Products of bounds, 0 × ∞ taken as 0. -/
def mulB (a b : FP) : FP := (mulExact a b).getD (.fin false 0 0)
def roundFP (f : Fmt) (rm : Rm) (v : FP) : Nat :=
  match v with
  | .fin s m e => (f.round rm s m e false).1
  | .inf s => (f.infR s 0).1
  | .nan _ => f.nan
def prods (f : Fmt) (a b : Nat × Nat) : List FP :=
  [mulB (f.decode a.1) (f.decode b.1), mulB (f.decode a.1) (f.decode b.2),
   mulB (f.decode a.2) (f.decode b.1), mulB (f.decode a.2) (f.decode b.2)]
/-- Rounding keeps order, so the rounded extreme is the extreme of the rounded values. -/
def ivMul (f : Fmt) (a b : Nat × Nat) : Nat × Nat :=
  (minKey f ((prods f a b).map (roundFP f .rd)), maxKey f ((prods f a b).map (roundFP f .ru)))
/-- The sums of a bound with the products, those of opposite infinities omitted: such a product is not the extreme one. -/
def sums (f : Fmt) (rm : Rm) (d : Nat) (l : List FP) : List Nat :=
  (l.map fun p => (f.addP rm (f.decode d) p).1).filter fun v => !(f.decode v).isNan
def ivFma (f : Fmt) (a b d : Nat × Nat) : Nat × Nat :=
  (minKey f (sums f .rd d.1 (prods f a b)), maxKey f (sums f .ru d.2 (prods f a b)))

/-- Quotients of bounds, those of two infinities omitted. -/
def quots (f : Fmt) (rm : Rm) (a b : Nat × Nat) : List Nat :=
  [(a.1, b.1), (a.1, b.2), (a.2, b.1), (a.2, b.2)].filterMap fun p =>
    let x := f.decode p.1
    let y := f.decode p.2
    if x.isInf && y.isInf then none else some (f.divP rm x y).1
def ivDiv (f : Fmt) (a b : Nat × Nat) : Option (Nat × Nat) :=
  if f.key b.1 = 0 ∧ f.key b.2 = 0 then none
  else if f.key b.1 ≤ 0 ∧ 0 ≤ f.key b.2 then some (f.sign + f.inf, f.inf)
  else some (minKey f (quots f .rd a b), maxKey f (quots f .ru a b))

/-- 1.0 of a format. -/
def oneBits (f : Fmt) : Nat := f.bias * 2 ^ f.m

/-! ## Arithmetic instructions -/

def execFadd (f : FW) (d : Dst) (a b : Src) (s : State) : Result :=
  perLane (floatForm f d [a, b] (arithPt f fun rm l => f.fmt.addP rm (fpAt l 0) (fpAt l 1)) fun l =>
    some (addR f.fmt .rd (bndAt l 0).1 (bndAt l 1).1, addR f.fmt .ru (bndAt l 0).2 (bndAt l 1).2)) s

/-- The negation of a decoded value; a NaN stays. -/
def FP.negate : FP → FP | .nan b => .nan b | .inf b => .inf !b | .fin b m e => .fin (!b) m e

def execFsub (f : FW) (d : Dst) (a b : Src) (s : State) : Result :=
  perLane (floatForm f d [a, b] (arithPt f fun rm l => f.fmt.addP rm (fpAt l 0) (fpAt l 1).negate) fun l =>
    some (addR f.fmt .rd (bndAt l 0).1 (negBits f.fmt (bndAt l 1).2),
      addR f.fmt .ru (bndAt l 0).2 (negBits f.fmt (bndAt l 1).1))) s

def execFmul (f : FW) (d : Dst) (a b : Src) (s : State) : Result :=
  perLane (floatForm f d [a, b] (arithPt f fun rm l => f.fmt.mulP rm (fpAt l 0) (fpAt l 1)) fun l =>
    some (ivMul f.fmt (bndAt l 0) (bndAt l 1))) s

def execFfma (f : FW) (d : Dst) (a b : Src) (s : State) : Result :=
  perLane (floatForm f d [a, b, .oc d.reg]
    (arithPt f fun rm l => f.fmt.fmaP rm (fpAt l 0) (fpAt l 1) (fpAt l 2)) fun l =>
    some (ivFma f.fmt (bndAt l 0) (bndAt l 1) (bndAt l 2))) s

def execFdiv (f : FW) (d : Dst) (a b : Src) (s : State) : Result :=
  perLane (floatForm f d [a, b] (arithPt f fun rm l => f.fmt.divP rm (fpAt l 0) (fpAt l 1)) fun l =>
    ivDiv f.fmt (bndAt l 0) (bndAt l 1)) s

/-- fmin and fmax, on points and on intervals. -/
def minmaxForm (f : FW) (isMax : Bool) (d : Dst) (a b : Src) : LaneInstr :=
  floatForm f d [a, b] (fun _ l => f.fmt.minmax isMax (natAt l 0) (natAt l 1)) fun l =>
    let g := if isMax then maxKey f.fmt else minKey f.fmt
    some (g [(bndAt l 0).1, (bndAt l 1).1], g [(bndAt l 0).2, (bndAt l 1).2])
def execFmin (f : FW) (d : Dst) (a b : Src) (s : State) : Result := perLane (minmaxForm f false d a b) s
def execFmax (f : FW) (d : Dst) (a b : Src) (s : State) : Result := perLane (minmaxForm f true d a b) s

/-- fabs and fneg on a point: a NaN gives the canonical NaN (11 R252). -/
def signOp (f : Fmt) (g : Nat → Nat) (v : Nat) : FRes :=
  let a := f.decode v
  if a.isNan then f.nanR (snanFlag [a]) else (g v, 0)

def execFabs (f : FW) (d : Dst) (a : Src) (s : State) : Result :=
  let F := f.fmt
  perLane (floatForm f d [a] (fun _ l => signOp F (· % F.sign) (natAt l 0)) fun l =>
    let b := bndAt l 0
    some (if 0 ≤ F.key b.1 then b
      else if F.key b.2 ≤ 0 then (negBits F b.2, negBits F b.1)
      else (0, maxKey F [negBits F b.1, b.2]))) s

def execFneg (f : FW) (d : Dst) (a : Src) (s : State) : Result :=
  let F := f.fmt
  perLane (floatForm f d [a] (fun _ l => signOp F (negBits F) (natAt l 0)) fun l =>
    some (negBits F (bndAt l 0).2, negBits F (bndAt l 0).1)) s

def execFsqrt (f : FW) (d : Dst) (a : Src) (s : State) : Result :=
  let F := f.fmt
  perLane (floatForm f d [a] (arithPt f fun rm l => F.sqrtP rm (fpAt l 0)) fun l =>
    let b := bndAt l 0
    if F.key b.2 < 0 then none
    else some ((F.sqrtP .rd (F.decode (if F.key b.1 ≤ 0 then 0 else b.1))).1, (F.sqrtP .ru (F.decode (posZero F b.2))).1)) s

/-! ## Packed forms (11 R253) -/

/-- A packed form over point operands; a kind-1 operand traps (11 R258). -/
def packedForm (p : PW) (d : Dst) (ops : List Src) (g : Rm → List FP → FRes) : LaneInstr :=
  regInstr (fun _ _ => ops) fun s _ x vs =>
    if vs.any (·.kind) then .error (cILLEGAL, s.cur.word)
    else
      let el (i : Nat) : FRes := g x.rm (vs.map fun v => p.fmt.decode (fld v.data.toNat (16 * i) 16))
      .ok (result d (fpoint ((el 0).1 + (el 1).1 * 2 ^ 16)) ((el 0).2 ||| (el 1).2))

def execFaddPacked (p : PW) (d : Dst) (a b : Src) (s : State) : Result :=
  perLane (packedForm p d [a, b] fun rm l => p.fmt.addP rm (fpAt l 0) (fpAt l 1)) s
def execFmulPacked (p : PW) (d : Dst) (a b : Src) (s : State) : Result :=
  perLane (packedForm p d [a, b] fun rm l => p.fmt.mulP rm (fpAt l 0) (fpAt l 1)) s
def execFfmaPacked (p : PW) (d : Dst) (a b : Src) (s : State) : Result :=
  perLane (packedForm p d [a, b, .oc d.reg] fun rm l => p.fmt.fmaP rm (fpAt l 0) (fpAt l 1) (fpAt l 2)) s

/-! ## Special functions (11 R254, R256; log entry 7) -/

/-- The exponent of a power of two. -/
def pow2Of (m : Nat) (e : Int) : Option Int := if m ≠ 0 ∧ 2 ^ m.log2 = m then some (e + m.log2) else none

/-- An inexact result of a finite input: NX, UF if it is tiny, OF if it is infinite. -/
def inexactRes (f : Fmt) (v : Nat) : FRes :=
  (v, fNX ||| (if v % f.sign < 2 ^ f.m then fUF else 0) ||| (if v % f.sign = f.inf then fOF else 0))

/-- The implementation's bits for an input. -/
def freeBits (fn : Config.SpecialFn) (f : FW) (v : Nat) : Nat := (Config.specialBits fn f (BitVec.ofNat 64 v)).toNat

/-- A result within `n` units in the last place of a rounded one, with its flags. -/
def nearRes (F : Fmt) (r n c : Nat) : FRes := inexactRes F (F.between (F.ulpsBelow r n) (F.ulpsAbove r n) c)

/-- 2 to an integer, if it is a normal number. -/
def pow2Normal (f : Fmt) (n : Int) : Option Nat :=
  if f.emin ≤ n ∧ n ≤ f.bias then some ((n + f.bias).toNat * 2 ^ f.m) else none

def rcpPt (f : FW) (v : Nat) : FRes :=
  let F := f.fmt
  match F.decode v with
  | .nan b => F.nanR (if b then fNV else 0)
  | .inf s => F.zeroR s
  | .fin s m e =>
    if m = 0 then F.infR s fDZ
    else
      let r := F.divP .rne (.fin false 1 0) (.fin false m e)
      if r.2 = 0 then ((if s then F.sign else 0) + r.1, 0)
      else if (pow2Of m e).isSome then ((if s then F.sign else 0) + r.1, fOF)
      else nearRes F ((if s then F.sign else 0) + r.1) 1 (freeBits .rcp f v)

/-- 1/sqrt of a positive finite value, rounded. -/
def rsqRound (f : Fmt) (rm : Rm) (m : Nat) (e : Int) : FRes :=
  -- 2^(2k) / (m 2^p) with an even exponent e - p
  let p := (e % 2).toNat
  let k := m.log2 + f.m + 6
  let n := m * 2 ^ p
  let r := isqrt (2 ^ (2 * k) / n)
  f.round rm false r (-(e - p) / 2 - k) (r * r * n != 2 ^ (2 * k))

def rsqPt (f : FW) (v : Nat) : FRes :=
  let F := f.fmt
  match F.decode v with
  | .nan b => F.nanR (if b then fNV else 0)
  | .inf s => if s then F.nanR fNV else F.zeroR false
  | .fin s m e =>
    if m = 0 then F.infR s fDZ
    else if s then F.nanR fNV
    else
      let r := rsqRound F .rne m e
      match pow2Of m e with
      | some n => if n % 2 = 0 then (r.1, 0) else nearRes F r.1 2 (freeBits .rsq f v)
      | none => nearRes F r.1 2 (freeBits .rsq f v)

/-- The integer that a finite value is, if it is one. -/
def intOf (s : Bool) (m : Nat) (e : Int) : Option Int :=
  let r := roundTo .rz s m e false 0
  if r.2 then some (if s then -(r.1 : Int) else r.1) else none

/-- fexp2: at an input at or above the format's largest exponent plus 1 the result overflows. -/
def exp2Pt (f : FW) (v : Nat) : FRes :=
  let F := f.fmt
  match F.decode v with
  | .nan b => F.nanR (if b then fNV else 0)
  | .inf s => if s then F.zeroR false else F.infR false 0
  | .fin s m e =>
    if !s && decide ((F.bias : Int) + 1 ≤ ((roundTo .rz s m e false 0).1 : Int)) then F.infR false (fOF ||| fNX)
    else match intOf s m e with
      | some n =>
        match pow2Normal F n with
        | some r => (r, 0)
        | none => inexactRes F ((exp2Encl F s m e).near F 2 (freeBits .exp2 f v))
      | none => inexactRes F ((exp2Encl F s m e).near F 2 (freeBits .exp2 f v))

/-- Whether a positive value lies in [0.5, 2], and the fraction bits of the absolute errors of flog2, fsin and fcos. -/
def halfToTwo (F : Fmt) (v : Nat) : Bool := decide ((F.bias - 1) * 2 ^ F.m ≤ v ∧ v ≤ (F.bias + 1) * 2 ^ F.m)
def log2Bits : FW → Nat | .f32 => 22 | .f64 => 50
def sinBits : FW → Nat | .f32 => 22 | .f64 => 51

def log2Pt (f : FW) (v : Nat) : FRes :=
  let F := f.fmt
  match F.decode v with
  | .nan b => F.nanR (if b then fNV else 0)
  | .inf s => if s then F.nanR fNV else F.infR false 0
  | .fin s m e =>
    if m = 0 then F.infR true fDZ
    else if s then F.nanR fNV
    else match pow2Of m e with
      | some n => F.roundInt .rne n 0 false
      | none =>
        let x := log2Encl m e
        inexactRes F (if halfToTwo F v then x.within F (log2Bits f) (freeBits .log2 f v) else x.near F 2 (freeBits .log2 f v))

def sinPt (f : FW) (v : Nat) : FRes :=
  let F := f.fmt
  match F.decode v with
  | .nan b => F.nanR (if b then fNV else 0)
  | .inf _ => F.nanR fNV
  | .fin s m e =>
    if m = 0 then F.zeroR s
    else inexactRes F ((sinEncl false s m e).within F (sinBits f) (freeBits .sin f v))

def cosPt (f : FW) (v : Nat) : FRes :=
  let F := f.fmt
  match F.decode v with
  | .nan b => F.nanR (if b then fNV else 0)
  | .inf _ => F.nanR fNV
  | .fin s m e =>
    if m = 0 then (oneBits F, 0)
    else inexactRes F ((sinEncl true s m e).within F (sinBits f) (freeBits .cos f v))

def tanhPt (f : FW) (v : Nat) : FRes :=
  let F := f.fmt
  match F.decode v with
  | .nan b => F.nanR (if b then fNV else 0)
  | .inf s => ((if s then F.sign else 0) + oneBits F, 0)
  | .fin s m e => if m = 0 then F.zeroR s else inexactRes F ((tanhEncl s m e).near F 2 (freeBits .tanh f v))

def freeLo (fn : Config.SpecialFn) (f : FW) (v : Nat) : Nat := (Config.specialLo fn f (BitVec.ofNat 64 v)).toNat
def freeHi (fn : Config.SpecialFn) (f : FW) (v : Nat) : Nat := (Config.specialHi fn f (BitVec.ofNat 64 v)).toNat

/-- rd' and ru' of a special function at a bound: around the enclosure `x` of its value, or the limit `lim` at an infinity. -/
def bndLo (fn : Config.SpecialFn) (f : FW) (lim : Bool → Nat) (x : Bool → Nat → Int → Encl) (v : Nat) : Nat :=
  match f.fmt.decode v with
  | .fin s m e => (x s m e).below f.fmt (freeLo fn f v)
  | .inf s => lim s
  | .nan _ => v
def bndHi (fn : Config.SpecialFn) (f : FW) (lim : Bool → Nat) (x : Bool → Nat → Int → Encl) (v : Nat) : Nat :=
  match f.fmt.decode v with
  | .fin s m e => (x s m e).above f.fmt (freeHi fn f v)
  | .inf s => lim s
  | .nan _ => v

/-- The enclosure of tanh at a bound, with tanh 0 = 0. -/
def tanhAt (s : Bool) (m : Nat) (e : Int) : Encl := if m = 0 then ⟨0, 0, 0⟩ else tanhEncl s m e

def execFrcp (f : FW) (d : Dst) (a : Src) (s : State) : Result :=
  perLane (floatForm f d [a] (fun _ l => rcpPt f (natAt l 0)) fun l =>
    ivDiv f.fmt (oneBits f.fmt, oneBits f.fmt) (bndAt l 0)) s

def execFrsq (f : FW) (d : Dst) (a : Src) (s : State) : Result :=
  let F := f.fmt
  perLane (floatForm f d [a] (fun _ l => rsqPt f (natAt l 0)) fun l =>
    let b := bndAt l 0
    if F.key b.2 ≤ 0 then none
    else some (bndLo .rsq f (fun _ => 0) (fun _ => rsqEncl) b.2,
      if F.key b.1 ≤ 0 then F.inf else bndHi .rsq f (fun _ => 0) (fun _ => rsqEncl) b.1)) s

def execFexp2 (f : FW) (d : Dst) (a : Src) (s : State) : Result :=
  let lim (n : Bool) : Nat := if n then 0 else f.fmt.inf
  perLane (floatForm f d [a] (fun _ l => exp2Pt f (natAt l 0)) fun l =>
    some (bndLo .exp2 f lim (exp2Encl f.fmt) (bndAt l 0).1, bndHi .exp2 f lim (exp2Encl f.fmt) (bndAt l 0).2)) s

def execFlog2 (f : FW) (d : Dst) (a : Src) (s : State) : Result :=
  let F := f.fmt
  perLane (floatForm f d [a] (fun _ l => log2Pt f (natAt l 0)) fun l =>
    let b := bndAt l 0
    if F.key b.2 ≤ 0 then none
    else some (if F.key b.1 ≤ 0 then F.sign + F.inf else bndLo .log2 f (fun _ => F.inf) (fun _ => log2Encl) b.1,
      bndHi .log2 f (fun _ => F.inf) (fun _ => log2Encl) b.2)) s

def execFtanh (f : FW) (d : Dst) (a : Src) (s : State) : Result :=
  let F := f.fmt
  let lim (n : Bool) : Nat := (if n then F.sign else 0) + oneBits F
  perLane (floatForm f d [a] (fun _ l => tanhPt f (natAt l 0)) fun l =>
    some (bndLo .tanh f lim tanhAt (bndAt l 0).1, bndHi .tanh f lim tanhAt (bndAt l 0).2)) s

/-- A form that takes points only (11 R258). -/
def pointForm (f : FW) (d : Dst) (a : Src) (g : Thread → Nat → Word × Byte) : LaneInstr :=
  regInstr (ivSrcs f [a]) fun s _ x vs =>
    match opdsOf f [a] vs with
    | .pt v :: _ => .ok (result d (pt (g x v).1) (g x v).2)
    | _ => .error (cILLEGAL, s.cur.word)

def fresW (r : FRes) : Word × Byte := (BitVec.ofNat 64 r.1, r.2)

def execFsin (f : FW) (d : Dst) (a : Src) (s : State) : Result :=
  perLane (pointForm f d a fun _ v => fresW (sinPt f v)) s
def execFcos (f : FW) (d : Dst) (a : Src) (s : State) : Result :=
  perLane (pointForm f d a fun _ v => fresW (cosPt f v)) s

/-! ## Conversions (11 R259 to R261) -/

/-- A source of a 16-bit or integer type: the low bits of the register, of kind 0. -/
def convForm (d : Dst) (a : Src) (g : Thread → Nat → Word × Byte) : LaneInstr :=
  regInstr (fun _ _ => [a]) fun s _ x vs =>
    if (valAt vs 0).kind then .error (cILLEGAL, s.cur.word)
    else .ok (result d (pt (g x (dataAt vs 0).toNat).1) (g x (dataAt vs 0).toNat).2)

def execFcvtF16F32 (r : RDir) (d : Dst) (a : Src) (s : State) : Result :=
  perLane (pointForm .f32 d a fun x v => fresW (convFmt fmt32 fmt16 (r.rm x) v)) s
def execFcvtBf16F32 (r : RDir) (d : Dst) (a : Src) (s : State) : Result :=
  perLane (pointForm .f32 d a fun x v => fresW (convFmt fmt32 fmtBf (r.rm x) v)) s
def execFcvtF32F64 (r : RDir) (d : Dst) (a : Src) (s : State) : Result :=
  perLane (pointForm .f64 d a fun x v => fresW (convFmt fmt64 fmt32 (r.rm x) v)) s
def execFcvtF32F16 (d : Dst) (a : Src) (s : State) : Result :=
  perLane (convForm d a fun _ v => fresW (convFmt fmt16 fmt32 .rne (v % 2 ^ 16))) s
def execFcvtF32Bf16 (d : Dst) (a : Src) (s : State) : Result :=
  perLane (convForm d a fun _ v => fresW (convFmt fmtBf fmt32 .rne (v % 2 ^ 16))) s
def execFcvtF64F32 (d : Dst) (a : Src) (s : State) : Result :=
  perLane (pointForm .f32 d a fun _ v => fresW (convFmt fmt32 fmt64 .rne v)) s

def execIcvtToFloat (f : FW) (w : Width) (g : Sgn) (d : Dst) (a : Src) (s : State) : Result :=
  perLane (convForm d a fun x v => fresW (f.fmt.roundInt x.rm (valW g w (BitVec.ofNat 64 v)) 0 false)) s

/-- The least and the greatest value of an integer target. -/
def intMin (g : Sgn) (w : Width) : Int := match g with | .n => 0 | .s => -2 ^ (wbits w - 1)
def intMax (g : Sgn) (w : Width) : Int := match g with | .n => 2 ^ wbits w - 1 | .s => 2 ^ (wbits w - 1) - 1

def execIcvtToInt (f : FW) (w : Width) (g : Sgn) (d : Dst) (a : Src) (s : State) : Result :=
  perLane (pointForm f d a fun _ v =>
    let r := f.fmt.toInt v (intMin g w) (intMax g w)
    (BitVec.ofInt 64 r.1, r.2)) s

def execFround (f : FW) (r : RDir) (d : Dst) (a : Src) (s : State) : Result :=
  perLane (pointForm f d a fun x v => fresW (f.fmt.integral (r.rm x) v)) s

/-- The class bit of an operand (11 R262). -/
def classBit (f : Fmt) : Opd → Nat
  | .iv lo hi => if isNaI f lo hi then 12 else if isEmptyIv f lo hi then 11 else 10
  | .pt v =>
    match f.decode v with
    | .nan b => if b then 8 else 9
    | .inf s => if s then 0 else 7
    | .fin s m _ =>
      if m = 0 then (if s then 3 else 4)
      else if v % f.sign < 2 ^ f.m then (if s then 2 else 5)
      else (if s then 1 else 6)

def execFclass (f : FW) (d : Dst) (a : Src) (s : State) : Result :=
  perLane (regInstr (ivSrcs f [a]) fun _ _ _ vs =>
    .ok (result d (fpoint (2 ^ classBit f.fmt ((opdsOf f [a] vs).headD (.pt 0)))) 0)) s

/-! ## Building and taking apart intervals (11 R263 to R265) -/

/-- A built interval: NaI, an empty result (a trap, or the .e forms' write), or the bounds. -/
def ivBuilt (f : FW) (d : Dst) (e : Bool) (b : Nat × Nat) : Except (Byte × Word) Eff :=
  let F := f.fmt
  if isNaI F b.1 b.2 then .ok (ivResult f d (naI F) 0)
  else if isEmptyIv F b.1 b.2 then
    if e then .ok (ivResult f d (emptyIv F) fEMPTY) else .error (emptyTrap 0)
  else .ok (ivResult f d (posZero F b.1, posZero F b.2) 0)

/-- The position of the first kind-1 operand in the empty class; 0 for none. -/
def firstEmptyOpd (f : Fmt) : Nat → List Opd → Nat
  | _, [] => 0
  | n, .iv lo hi :: r => if isEmptyIv f lo hi then n else firstEmptyOpd f (n + 1) r
  | n, .pt _ :: r => firstEmptyOpd f (n + 1) r

/-- ivmk: lo of a, hi of b, without promotion. -/
def ivmkForm (f : FW) (e : Bool) (d : Dst) (a b : Src) : LaneInstr :=
  regInstr (ivSrcs f [a, b]) fun _ _ _ vs =>
    let os := opdsOf f [a, b] vs
    let n := firstEmptyOpd f.fmt 1 os
    if n ≠ 0 then .error (emptyTrap n)
    else if os.any fun o => match o with | .iv lo hi => isNaI f.fmt lo hi | .pt _ => false then .ok (ivResult f d (naI f.fmt) 0)
    else
      let lo := match os.getD 0 (.pt 0) with | .pt v => v | .iv lo _ => lo
      let hi := match os.getD 1 (.pt 0) with | .pt v => v | .iv _ hi => hi
      ivBuilt f d e (lo, hi)
def execIvmk (f : FW) (d : Dst) (a b : Src) (s : State) : Result := perLane (ivmkForm f false d a b) s
def execIvmkE (f : FW) (d : Dst) (a b : Src) (s : State) : Result := perLane (ivmkForm f true d a b) s

/-- ivhull and ivisect: promoted operands, NaI first, empty operands allowed. -/
def ivSetForm (f : FW) (e : Bool) (d : Dst) (a b : Src) (g : List (Nat × Nat) → Nat × Nat) : LaneInstr :=
  regInstr (ivSrcs f [a, b]) fun _ _ _ vs =>
    let bs := (opdsOf f [a, b] vs).map (Opd.promote f.fmt)
    if bs.any fun b => isNaI f.fmt b.1 b.2 then .ok (ivResult f d (naI f.fmt) 0) else ivBuilt f d e (g bs)
def hullOf (f : Fmt) (bs : List (Nat × Nat)) : Nat × Nat :=
  let l := bs.filter fun b => !isEmptyIv f b.1 b.2
  if l.isEmpty then emptyIv f else (minKey f (l.map (·.1)), maxKey f (l.map (·.2)))
def isectOf (f : Fmt) (bs : List (Nat × Nat)) : Nat × Nat :=
  if bs.any fun b => isEmptyIv f b.1 b.2 then emptyIv f else (maxKey f (bs.map (·.1)), minKey f (bs.map (·.2)))
def execIvhull (f : FW) (d : Dst) (a b : Src) (s : State) : Result :=
  perLane (ivSetForm f false d a b (hullOf f.fmt)) s
def execIvhullE (f : FW) (d : Dst) (a b : Src) (s : State) : Result :=
  perLane (ivSetForm f true d a b (hullOf f.fmt)) s
def execIvisect (f : FW) (d : Dst) (a b : Src) (s : State) : Result :=
  perLane (ivSetForm f false d a b (isectOf f.fmt)) s
def execIvisectE (f : FW) (d : Dst) (a b : Src) (s : State) : Result :=
  perLane (ivSetForm f true d a b (isectOf f.fmt)) s

/-- rne(lo/2 + hi/2) and its ends (11 R265). -/
def midOf (f : Fmt) (lo hi : Nat) : Nat :=
  match f.decode lo, f.decode hi with
  | .inf _, .inf _ => 0
  | .inf _, _ => f.sign + f.maxFin
  | _, .inf _ => f.maxFin
  | .fin s m e, .fin u n g =>
    let q := if e ≤ g then e else g
    (f.roundInt .rne (alignTo s m e q + alignTo u n g q) (q - 1) false).1
  | _, _ => f.nan

/-- A form of R265: what it gives a point, a proper interval and an empty one (none: a trap). -/
def takeForm (f : FW) (d : Dst) (a : Src) (p : Nat → Nat) (g : Nat → Nat → Nat) (e : Option Nat) : LaneInstr :=
  regInstr (ivSrcs f [a]) fun _ _ _ vs =>
    let F := f.fmt
    match (opdsOf f [a] vs).headD (.pt 0) with
    | .pt v => .ok (result d (fpoint (p v)) 0)
    | .iv lo hi =>
      if isNaI F lo hi then .ok (result d (fpoint F.nan) 0)
      else if isEmptyIv F lo hi then
        match e with
        | some v => .ok (result d (fpoint v) 0)
        | none => .error (emptyTrap 1)
      else .ok (result d (fpoint (g lo hi)) 0)

def execIvlo (f : FW) (d : Dst) (a : Src) (s : State) : Result :=
  perLane (takeForm f d a id (fun lo _ => lo) (some f.fmt.inf)) s
def execIvhi (f : FW) (d : Dst) (a : Src) (s : State) : Result :=
  perLane (takeForm f d a id (fun _ hi => hi) (some (f.fmt.sign + f.fmt.inf))) s
def execIvmid (f : FW) (d : Dst) (a : Src) (s : State) : Result := perLane (takeForm f d a id (midOf f.fmt) none) s
def execIvwid (f : FW) (d : Dst) (a : Src) (s : State) : Result :=
  perLane (takeForm f d a (fun v => if (f.fmt.decode v).isNan then f.fmt.nan else 0)
    (fun lo hi => posZero f.fmt (addR f.fmt .ru hi (negBits f.fmt lo))) none) s

/-! ## ibsp (11 R266) -/

/-- What ibsp does with its interval: the values for d, and the payload of a record if one is sent. An odd d is found before the record
is tried. DESIGN CHOICE (log entry 102). -/
def ibspSplit (f : FW) (d : Dst) (s : State) (os : List Opd) (vs : List Val) :
    Except (Byte × Word) (List Val × Option (Word × Option Word)) :=
  let F := f.fmt
  match os.headD (.pt 0) with
  | .pt _ => .ok ([pt (dataAt vs 0)], none)
  | .iv lo hi =>
    let keep : List Val := match f with | .f32 => [valAt vs 0] | .f64 => [valAt vs 0, ⟨dataAt vs 1, true⟩]
    if isEmptyIv F lo hi then .error (emptyTrap 1)
    else if oddPair f d then .error (cILLEGAL, s.cur.word)
    else if isNaI F lo hi then .ok (ivRegs f (naI F), none)
    else
      let m := midOf F lo hi
      if F.key lo = F.key hi ∨ F.key m = F.key lo ∨ F.key m = F.key hi then .ok (keep, none)
      else
        let rec1 : Word × Option Word := match f with
          | .f32 => (BitVec.ofNat 64 (m + hi * 2 ^ 32), none)
          | .f64 => (BitVec.ofNat 64 m, some (BitVec.ofNat 64 hi))
        .ok (ivRegs f (lo, m), some rec1)

/-- ibsp for a thread; its shadow sends nothing. The selector is the last value read. -/
def ibspOp (f : FW) (d : Dst) (a b : Src) (send : Bool) : LaneOp := fun s t =>
  let srcs := ivSrcs f [a] s t ++ [b]
  match s.readAll t srcs with
  | .error e => .error e
  | .ok vs =>
    match ibspSplit f d s (opdsOf f [a] vs) vs with
    | .error (c, v) => .error (.trap c v none)
    | .ok (regs, r) =>
      let s1 := s.commit t srcs vs
      let sel := dataAt vs (vs.length - 1)
      let sent : Except Stop State := match r with
        | none => .ok s1
        | some (lo, hi) =>
          if send then s1.sendRecord t sel lo (hi.getD (BitVec.ofNat 64 (fld sel.toNat 32 32))) else .ok s1
      match sent with
      | .error e => .error e
      | .ok s2 =>
        match s2.writeRegs t d.reg.val d.k regs with
        | .error e => .error e
        | .ok s3 => .ok (s3.modT t fun x => (x.latch (regs.headD (pt 0))).finish (s.codeBase t) s.cur.len)

/-- The values a pair compares at ibsp: d and the record. -/
def ibspSig (f : FW) (d : Dst) (a b : Src) : State → Nat → List Word := fun s t =>
  match s.readAll t (ivSrcs f [a] s t ++ [b]) with
  | .error _ => []
  | .ok vs =>
    match ibspSplit f d s (opdsOf f [a] vs) vs with
    | .error _ => []
    | .ok (regs, none) => regs.map (·.data)
    | .ok (regs, some (lo, hi)) => regs.map (·.data) ++ [lo, hi.getD 0, dataAt vs (vs.length - 1)]

def execIbsp (f : FW) (d : Dst) (a b : Src) (s : State) : Result :=
  perLane { op := ibspOp f d a b true, srcs := [a, b], sig := ibspSig f d a b, va := fun _ _ => none, once := false,
            shadow := some (ibspOp f d a b false) } s

/-! ## Comparisons (11 R267, R268) -/

/-- A compare of two points. -/
def fcmpPt (f : Fmt) (l : Rel) (x y : Nat) : Pred × Byte :=
  let a := f.decode x
  let b := f.decode y
  if a.isNan || b.isNan then
    (predOf (l == .un), match l with
      | .eq | .ne | .un => snanFlag [a, b]
      | _ => fNV)
  else (predOf (relHolds l (f.key x) (f.key y)), 0)

/-- A compare of two intervals, neither empty nor NaI. -/
def fcmpIv (f : Fmt) (l : Rel) (a b : Nat × Nat) : Pred :=
  let al := f.key a.1
  let ah := f.key a.2
  let bl := f.key b.1
  let bh := f.key b.2
  let three (t u : Bool) : Pred := if t then .t else if u then .f else .u
  let same := decide (al = ah ∧ ah = bl ∧ bl = bh)
  let apart := decide (ah < bl ∨ bh < al)
  match l with
  | .eq => three same apart
  | .ne => three apart same
  | .lt => three (decide (ah < bl)) (decide (bh ≤ al))
  | .le => three (decide (ah ≤ bl)) (decide (bh < al))
  | .gt => three (decide (bh < al)) (decide (ah ≤ bl))
  | .ge => three (decide (bh ≤ al)) (decide (ah < bl))
  | .un => .f

def execFcmp (f : FW) (l : Rel) (p : PReg) (a b : Src) (s : State) : Result :=
  perLane (regInstr (ivSrcs f [a, b]) fun _ _ _ vs =>
    let F := f.fmt
    let os := opdsOf f [a, b] vs
    if os.any Opd.isIv then
      let bs := os.map (Opd.promote F)
      let e := firstEmpty F 1 bs
      if e ≠ 0 then (if l = .un then .ok (resultPred p .f 0) else .error (emptyTrap e))
      else if bs.any fun b => isNaI F b.1 b.2 then .ok (resultPred p (if l = .un then .t else .u) 0)
      else .ok (resultPred p (fcmpIv F l (bndAt bs 0) (bndAt bs 1)) 0)
    else
      let r := fcmpPt F l (natAt (os.map Opd.pnt) 0) (natAt (os.map Opd.pnt) 1)
      .ok (resultPred p r.1 r.2)) s

def execIvin (f : FW) (p : PReg) (a b : Src) (s : State) : Result :=
  perLane (regInstr (ivSrcs f [a, b]) fun _ _ _ vs =>
    let F := f.fmt
    let bs := (opdsOf f [a, b] vs).map (Opd.promote F)
    let x := bndAt bs 0
    let y := bndAt bs 1
    .ok (resultPred p
      (if firstEmpty F 1 bs ≠ 0 then .f
       else if bs.any fun b => isNaI F b.1 b.2 then .u
       else if F.key y.1 ≤ F.key x.1 ∧ F.key x.2 ≤ F.key y.2 then .t
       else if F.key x.2 < F.key y.1 ∨ F.key y.2 < F.key x.1 then .f
       else .u) 0)) s

/-! ## Predicate instructions (11 R269, R270) -/

/-- A predicate instruction: reads predicates, writes one. -/
def predInstr (d : PReg) (g : Thread → Pred) : LaneInstr :=
  regInstr (fun _ _ => []) fun _ _ x _ => .ok (resultPred d (g x) 0)

def execPand (d a b : PReg) (s : State) : Result := perLane (predInstr d fun x => Pred.and (x.pred a) (x.pred b)) s
def execPor (d a b : PReg) (s : State) : Result := perLane (predInstr d fun x => Pred.or (x.pred a) (x.pred b)) s
def execPxor (d a b : PReg) (s : State) : Result := perLane (predInstr d fun x => Pred.xor (x.pred a) (x.pred b)) s
def execPnot (d a : PReg) (s : State) : Result := perLane (predInstr d fun x => Pred.not (x.pred a)) s
def execPdec (v : Pred) (d a : PReg) (s : State) : Result :=
  perLane (predInstr d fun x => if x.pred a = .u then v else x.pred a) s
def execPset (v : Pred) (d : PReg) (s : State) : Result := perLane (predInstr d fun _ => v) s
def execPget (d : Dst) (s : State) : Result :=
  perLane (regInstr (fun _ _ => []) fun _ _ x _ => .ok (result d (fpoint x.predWord) 0)) s
def execPput (a : Src) (s : State) : Result :=
  perLane (regInstr (fun _ _ => [a]) fun _ _ _ vs => .ok { upd := fun x => x.setPredWord (dataAt vs 0).toNat }) s

/-! ## 16-bit forms (03 R60): .f32, a = d -/

def execFadd16 (d : Reg) (b : Reg5) (s : State) : Result :=
  perLane (floatForm .f32 (dst16 d) [.oc d, .oc (reg5 b)]
    (arithPt .f32 fun rm l => fmt32.addP rm (fpAt l 0) (fpAt l 1)) fun l =>
    some (addR fmt32 .rd (bndAt l 0).1 (bndAt l 1).1, addR fmt32 .ru (bndAt l 0).2 (bndAt l 1).2)) s
def execFsub16 (d : Reg) (b : Reg5) (s : State) : Result :=
  perLane (floatForm .f32 (dst16 d) [.oc d, .oc (reg5 b)]
    (arithPt .f32 fun rm l => fmt32.addP rm (fpAt l 0) (fpAt l 1).negate) fun l =>
    some (addR fmt32 .rd (bndAt l 0).1 (negBits fmt32 (bndAt l 1).2),
      addR fmt32 .ru (bndAt l 0).2 (negBits fmt32 (bndAt l 1).1))) s
def execFmul16 (d : Reg) (b : Reg5) (s : State) : Result :=
  perLane (floatForm .f32 (dst16 d) [.oc d, .oc (reg5 b)]
    (arithPt .f32 fun rm l => fmt32.mulP rm (fpAt l 0) (fpAt l 1)) fun l =>
    some (ivMul fmt32 (bndAt l 0) (bndAt l 1))) s
def execFmax16 (d : Reg) (b : Reg5) (s : State) : Result :=
  perLane (minmaxForm .f32 true (dst16 d) (.oc d) (.oc (reg5 b))) s

end Sys2Proof.Machine
end

