-- ==== Sys2Proof/Machine/Lane.lean ====
section
/-! DEFINITION. The lane instructions: groups named by member masks, exchanges, reductions and scans (10 R238 to R245). -/

namespace Sys2Proof.Machine

/-! ## Groups -/

/-- A member mask as xval gives it: b[31:0]. -/
def maskOf (v : Word) : Nat := v.toNat % 2 ^ 32

/-- How often a list of sources pops a queue. -/
def popsOf (srcs : List Src) (q : Fin 8) : Nat := srcs.countP fun a => match a with | .special (.pop p) => p == q | _ => false

/-- The state in which a thread that reaches a lane instruction reads its mask, the last of the sources: of a queue that the
mask is popped from, the entries before are those of the crew's threads held there already and of its own a (03 R58). DESIGN
CHOICE: entries by order of arrival, which the spec does not state for members that arrive in different bundles (log
entry 96). -/
def State.beforeMask (s : State) (srcs : List Src) (b : Src) (t : Nat) (x : Thread) : State :=
  match b with
  | .special (.pop q) =>
    let mates := (s.liveThreads (ckOf t)).countP fun u => s.isShadow u == s.isShadow t && (match s.threads.get? u with
      | some y => y.pc == x.pc && (match y.wait with | .lane _ => true | _ => false)
      | none => false)
    s.modG (gangOf t) fun g =>
      { g with queues := g.queues.set q ((g.queues[q]).drop (mates * popsOf srcs q + (popsOf srcs q - 1))) }
  | _ => s

/-- What a thread that reaches a lane instruction finds: its mask, or a stop; a trap if its own bit is clear (R238, R239). -/
def State.laneFinds (s : State) (srcs : List Src) (b : Src) (t : Nat) (x : Thread) : Except Stop Nat :=
  match s.badSource t srcs with
  | some st => .error st
  | none => match (s.beforeMask srcs b t x).readAll t [b] with
    | .error e => .error e
    | .ok vs =>
      let m := maskOf (dataAt vs 0)
      if bitAt m (s.visLane t) then .ok m else .error (.trap cCONVERGENCE (BitVec.ofNat 64 m) none)

/-- A thread is held at a lane instruction with its mask; it waits in no queue for it any longer. -/
def State.laneHeld (s : State) (t m : Nat) : State := (s.leaveQueues t).modT t fun y => { y with wait := .lane m }

/-- A thread reaches a lane instruction: the state after, and a cause that it takes. -/
def State.laneArrive (s : State) (srcs : List Src) (b : Src) (t : Nat) : State × List (Nat × Stop) :=
  match s.threads.get? t with
  | none => (s, [])
  | some x =>
    if !x.live || x.due then (s, [])
    else
      let s := s.bringLines [t] (srcs ++ [b])
      match s.laneFinds srcs b t x with
      | .ok m => (s.laneHeld t m, [])
      | .error e => if e.isTrap then (s, [(t, e)]) else (s.stopT t e, [])

/-- The pair of even thread `t` reaches a lane instruction: its masks, or its causes, are compared, and it is held or stalls
together (17 R387 to R389). -/
def State.pairArrive (s : State) (srcs : List Src) (b : Src) (t : Nat) : State × List (Nat × Stop) :=
  match s.threads.get? t, s.threads.get? (t + 1) with
  | some x, some y =>
    if !x.live || x.due then (s, [])
    else
      let s := (s.bringLines [t] (srcs ++ [b])).bringLines [t + 1] (srcs ++ [b])
      match s.laneFinds srcs b t x, s.laneFinds srcs b (t + 1) y with
      | .ok m, .ok n => if m % 2 ^ 16 = n % 2 ^ 16 then ((s.laneHeld t m).laneHeld (t + 1) n, []) else (s, s.mismatchStops none t)
      | .error (.trap c v p), .error (.trap c' v' q) =>
        if c = c' ∧ v = v' then (s, [(t, .trap c v p), (t + 1, .trap c' v' q)]) else (s, s.mismatchStops none t)
      | .error e, r =>
        if !e.isTrap then ((s.stopT t e).stopT (t + 1) (match r with | .error f => if f.isTrap then .block .regs else f | .ok _ => .block .regs), [])
        else match r with
          | .error f => ((s.stopT t (.block .regs)).stopT (t + 1) f, [])
          | .ok _ => (s, s.mismatchStops none t)
      | .ok _, .error f => if f.isTrap then (s, s.mismatchStops none t) else ((s.stopT t (.block .regs)).stopT (t + 1) f, [])
  | _, _ => (s, [])

/-- The threads of a bundle reach a lane instruction, in ascending home-lane order. -/
def State.laneArrivals (s : State) (srcs : List Src) (b : Src) (pairs : Bool) (ts : List Nat) : State :=
  let r := (if pairs then ts.filter (· % 2 == 0) else ts).foldl (fun r t =>
    let q := if pairs then r.1.pairArrive srcs b t else r.1.laneArrive srcs b t
    (q.1, r.2 ++ q.2)) (s, ([] : List (Nat × Stop)))
  r.1.stopAll r.2

/-- The members of a group read their sources in ascending home-lane order, with the effects of their reads (R240). -/
def laneReads (srcs : List Src) : List Nat → State → Except (Nat × Stop) (List (Nat × List Val) × State)
  | [], s => .ok ([], s)
  | t :: r, s =>
    match s.readAll t srcs with
    | .error e => .error (t, e)
    | .ok vs =>
      match laneReads srcs r (s.commit t srcs vs) with
      | .ok (l, s') => .ok ((t, vs) :: l, s')
      | .error e => .error e

/-- The members of a group are held again with their masks, one of them, or its pair, stopped; members that find too few
entries in a queue stay held until it holds enough (R240). -/
def State.laneStop (s : State) (ts : List Nat) (srcs : List Src) (e : Nat × Stop) : State :=
  match e.2 with
  | .block (.pop q) => if h : q < 8 then s.joinPops (gangOf e.1) q (popsOf srcs ⟨q, h⟩) ts else s
  | st =>
    let s := s.onThreads ts fun x => { x with due := false }
    match s.gangs.get? (gangOf e.1) with
    | some g =>
      if !g.kernel.protected_ then s.stopT e.1 st
      else s.stopAll [(e.1, st), (if s.isShadow e.1 then e.1 - 1 else e.1 + 1, if st.isTrap then st else .block .regs)]
    | none => s

/-- What stops the groups of a pair's even and odd threads: a wait of either before anything else, then the same trap of
both threads of a pair; anything else is SHADOW_MISMATCH (17 R389). -/
def State.pairStop (s : State) (ts : List Nat) (srcs : List Src) (a b : Option (Nat × Stop)) : State :=
  match (a.toList ++ b.toList).find? fun e => !e.2.isTrap with
  | some e => s.laneStop ts srcs e
  | none => match a, b with
    | some (t, .trap c v pa), some (u, .trap c' v' _) =>
      if u = t + 1 ∧ c = c' ∧ v = v' then s.laneStop ts srcs (t, .trap c v pa) else s.mismatch none t
    | some (t, _), _ => s.mismatch none t
    | none, some (u, _) => s.mismatch none (s.lead u)
    | none, none => s

/-- What a lane instruction gives each member: from the state, the members with their values, and one member. -/
abbrev LaneOut := State → List (Nat × List Val) → Nat → Eff

/-- Writes the results of a group and completes its members. -/
def laneWrites (out : List (Nat × Eff)) (s : State) : Except (Nat × Stop) State :=
  match out with
  | [] => .ok s
  | (t, e) :: r =>
    match s.writeRegs t e.reg e.k e.regs with
    | .error st => .error (t, st)
    | .ok s2 => laneWrites r (s2.modT t fun y => (e.upd y).finish (s.codeBase t) s.cur.len)

/-- Why a group does not perform. -/
def stopOf : Except ε α → Option ε | .error e => some e | .ok _ => none

/-- Performs a group (R240): reads, then results, then writes. `kw`: the k register that bcast.first writes. The results: of
each member, and the value for that register. -/
def lanePerform (srcs : List Src) (out : LaneOut) (kw : Option KReg) (ts : List Nat) (s : State) :
    Except (Nat × Stop) (List (Nat × Eff) × Word × State) :=
  match laneReads srcs ts s with
  | .error e => .error e
  | .ok (vals, s1) =>
    let ck := ckOf (ts.headD 0)
    let effs := ts.map fun t => (t, out s vals t)
    let first := dataAt ((vals.headD (0, [])).2) 0
    let s2 : Except (Nat × Stop) State := match kw with
      | none => .ok s1
      | some k =>
        if s.kPending ck k.val then .error (ts.headD 0, .block .regs)
        else .ok (s1.setK ck k first)
    match s2 with
    | .error e => .error e
    | .ok s2 => match laneWrites effs s2 with
      | .ok s3 => .ok (effs, if kw.isSome then first else 0, s3)
      | .error e => .error e

/-- A lane instruction for the current bundle: arrivals are held; a group found due is performed, in a protected launch for
the even threads and then for their shadows over the same queue entries (R240, 17 R388). -/
def laneInstr (srcs : List Src) (b : Src) (out : LaneOut) (kw : Option KReg) (s : State) : Result :=
  match s.gangs.get? s.cur.gang with
  | none => .fault .noSuchObject
  | some g =>
    let ts := s.cur.lanes.map (tkey s.cur.gang s.cur.crew)
    if !(ts.all fun t => match s.threads.get? t with | some x => x.due | none => false) then
      .next (s.laneArrivals srcs b g.kernel.protected_ ts)
    else
    let s := s.bringLines ts srcs
    if !g.kernel.protected_ then
      match lanePerform srcs out kw ts s with
      | .error e => .next (s.laneStop ts srcs e)
      | .ok r => .next r.2.2
    else
      let ev := ts.filter (· % 2 == 0)
      let od := ts.filter (· % 2 == 1)
      match lanePerform srcs out kw ev s, lanePerform srcs out kw od s with
      | .ok (re, ke, s1), .ok (ro, ko, _) =>
        match (re.zip ro).find? fun p => p.1.2.regs != p.2.2.regs || ke != ko with
        | some p => .next (s.mismatch none p.1.1)
        | none =>
          match lanePerform srcs out none od (s1.setQueues s.cur.gang (s.queuesOf s.cur.gang)) with
          | .ok r => .next (r.2.2.setQueues s.cur.gang (s1.queuesOf s.cur.gang))
          | .error e => .next (s.laneStop ts srcs e)
      | a, c => .next (s.pairStop ts srcs (stopOf a) (stopOf c))

/-! ## Values of a group -/

/-- The values of the member at a visible index; none for a non-member. -/
def memberAt (s : State) (vals : List (Nat × List Val)) (i : Nat) : Option (List Val) :=
  (vals.find? fun p => s.visLane p.1 == i).map (·.2)

/-- The values read by one member. -/
def ownVals (vals : List (Nat × List Val)) (t : Nat) : List Val :=
  match vals.find? fun p => p.1 == t with | some p => p.2 | none => []

/-- The leaf of a thread in the trees: its home lane, or twice its visible index (R240). -/
def State.leafOf (s : State) (t : Nat) : Nat :=
  match s.gangs.get? (gangOf t) with
  | some g => if g.kernel.protected_ then laneOf t / 2 * 2 else laneOf t
  | none => laneOf t

/-- The 32 leaves of a tree, non-members at the identity (R243). -/
def leaves (s : State) (vals : List (Nat × List Val)) (ident : α) (f : Word → α) : List α :=
  (List.range 32).map fun l =>
    match vals.find? fun p => s.leafOf p.1 == l with
    | some p => f (dataAt p.2 0)
    | none => ident

/-- One level of the tree: the lower lane is the left operand. -/
def pairUp (op : α → α → α) : List α → List α
  | a :: b :: r => op a b :: pairUp op r
  | l => l

/-- The fixed tree of R243 over 32 leaves. -/
def treeFold (op : α → α → α) (ident : α) (l : List α) : α :=
  (pairUp op (pairUp op (pairUp op (pairUp op (pairUp op l))))).headD ident

/-! ## Exchanges (R242) -/

def shflOut (m : ShflMode) (d : Dst) : LaneOut := fun s vals t =>
  let own := ownVals vals t
  let sel := (dataAt own 1).toNat % 32
  let i := match m with | .idx => sel | .xor => s.visLane t ^^^ sel
  let r := match memberAt s vals i with | some v => dataAt v 0 | none => dataAt own 0
  result d (pt r) 0

def lshOut (m : LshDir) (d : Dst) : LaneOut := fun s vals t =>
  let own := ownVals vals t
  let i := s.visLane t
  let src : Option (List Val) := match m with
    | .up => if i = 0 then none else memberAt s vals (i - 1)
    | .dn => memberAt s vals (i + 1)
  result d (pt (match src with | some v => dataAt v 0 | none => dataAt own 1)) 0

/-- The members that satisfy a test, as a mask of visible indices. -/
def maskWhere (s : State) (vals : List (Nat × List Val)) (p : Nat → List Val → Bool) : Nat :=
  vals.foldl (fun n e => if p e.1 e.2 then n + 2 ^ s.visLane e.1 else n) 0

def matchOut (d : Dst) : LaneOut := fun s vals t =>
  let own := dataAt (ownVals vals t) 0
  result d (pt (BitVec.ofNat 64 (maskWhere s vals fun _ v => dataAt v 0 == own))) 0

def voteOut (m : VoteMode) (d : Dst) (p : PReg) (se : Sense) : LaneOut := fun s vals _ =>
  let hit (t : Nat) : Bool := match s.threads.get? t with | some x => senseHit se (x.pred p) | none => false
  let r : Nat := match m with
    | .ballot => maskWhere s vals fun t _ => hit t
    | .all => if vals.all fun e => hit e.1 then 1 else 0
    | .any => if vals.any fun e => hit e.1 then 1 else 0
  result d (pt (BitVec.ofNat 64 r)) 0

def execShfl (m : ShflMode) (d : Dst) (a b : Src) (s : State) : Result :=
  laneInstr [a, .oc d.reg, b] b (shflOut m d) none s
def execLsh (m : LshDir) (d : Dst) (a b : Src) (s : State) : Result :=
  laneInstr [a, .oc d.reg, b] b (lshOut m d) none s
/-- bcast.first writes k once, the value of the lowest member; it writes no g register. -/
def execBcastFirst (k : KReg) (a b : Src) (s : State) : Result := laneInstr [a, b] b (fun _ _ _ => {}) (some k) s
def execMatchLane (d : Dst) (a b : Src) (s : State) : Result := laneInstr [a, b] b (matchOut d) none s
def execVote (m : VoteMode) (d : Dst) (p : PReg) (se : Sense) (b : Src) (s : State) : Result :=
  laneInstr [b] b (voteOut m d p se) none s

/-! ## Reductions and scans (R243, R244) -/

def reduxOut (d : Dst) (w : Width) (op : Word → Word → Word) (ident : Word) : LaneOut := fun s vals _ =>
  result d (pt (zx w (treeFold op ident (leaves s vals ident (fun v => zx w v.toNat))).toNat)) 0

/-- scan writes each member the combination of the leaves up to its own. -/
def scanOut (d : Dst) (w : Width) (op : Word → Word → Word) (ident : Word) : LaneOut := fun s vals t =>
  let l := leaves s vals ident fun v => zx w v.toNat
  result d (pt (zx w ((l.take (s.leafOf t + 1)).foldl op ident).toNat)) 0

/-- The identities of min and max (R243). -/
def minIdent (g : Sgn) : Word := BitVec.ofInt 64 (typeMax g)
def maxIdent (g : Sgn) : Word := BitVec.ofInt 64 (typeMin g)

def execReduxAdd (w : Width) (d : Dst) (a b : Src) (s : State) : Result :=
  laneInstr [a, b] b (reduxOut d w (addW w) 0) none s
def execReduxMin (g : Sgn) (d : Dst) (a b : Src) (s : State) : Result :=
  laneInstr [a, b] b (reduxOut d .w64 (minW g) (minIdent g)) none s
def execReduxMax (g : Sgn) (d : Dst) (a b : Src) (s : State) : Result :=
  laneInstr [a, b] b (reduxOut d .w64 (maxW g) (maxIdent g)) none s
def execReduxAnd (w : Width) (d : Dst) (a b : Src) (s : State) : Result :=
  laneInstr [a, b] b (reduxOut d w (· &&& ·) (BitVec.allOnes 64)) none s
def execReduxOr (w : Width) (d : Dst) (a b : Src) (s : State) : Result :=
  laneInstr [a, b] b (reduxOut d w (· ||| ·) 0) none s
def execReduxXor (w : Width) (d : Dst) (a b : Src) (s : State) : Result :=
  laneInstr [a, b] b (reduxOut d w (· ^^^ ·) 0) none s
def execScanAdd (w : Width) (d : Dst) (a b : Src) (s : State) : Result :=
  laneInstr [a, b] b (scanOut d w (addW w) 0) none s
def execScanMax (g : Sgn) (d : Dst) (a b : Src) (s : State) : Result :=
  laneInstr [a, b] b (scanOut d .w64 (maxW g) (maxIdent g)) none s

/-- A float reduction: each node is one operation; the flags of every node go to every member (R244). -/
def freduxOut (d : Dst) (f : FW) (op : Nat → Nat → FRes) (ident : Nat) : LaneOut := fun s vals _ =>
  let node (x y : FRes) : FRes := let r := op x.1 y.1; (r.1, x.2 ||| y.2 ||| r.2)
  let r := treeFold node (ident, 0) (leaves s vals (ident, 0) fun v => (v.toNat % 2 ^ f.fmt.bits, 0))
  result d (fpoint r.1) r.2

def execFreduxAdd (f : FW) (d : Dst) (a b : Src) (s : State) : Result :=
  laneInstr [a, b] b (freduxOut d f (fun x y => f.fmt.addP .rne (f.fmt.decode x) (f.fmt.decode y)) f.fmt.sign) none s
def execFreduxMin (f : FW) (d : Dst) (a b : Src) (s : State) : Result :=
  laneInstr [a, b] b (freduxOut d f (f.fmt.minmax false) f.fmt.inf) none s
def execFreduxMax (f : FW) (d : Dst) (a b : Src) (s : State) : Result :=
  laneInstr [a, b] b (freduxOut d f (f.fmt.minmax true) (f.fmt.sign + f.fmt.inf)) none s

end Sys2Proof.Machine
end

