-- ==== Sys2Proof/Machine/LoadStore.lean ====
section
/-! DEFINITION. Loads, stores, atomics, waits (08 R181 to R203, 05 R105 to R123). A load or store is issued by its instruction
and binds later; what binds it stands in `MemEvents.lean`, except that pads and L1 copies serve the head of a thread's
accesses at once (`bindLocal`). -/

namespace Sys2Proof.Machine

/-! ## Addresses (08 R181 to R184, R202) -/

/-- A resolved access. -/
structure Target where
  place : Place
  key : Nat
  rep : Bool
  comp : Bool
  deriving DecidableEq, Repr

/-- The phases in which a core holds a gang with its pad and tiles: from its admission until it is saved, and while it is halted
(17 R379: its acres stay held). -/
def Phase.placed : Phase → Bool | .prologue | .resident | .stopping _ | .halted => true | _ => false

/-- The gang of a thread's span on a core, if one is there (08 R182). -/
def State.spanMate (s : State) (g : Gang) (core : Nat) : Option Nat :=
  match s.spans.get? g.span with
  | some sp => sp.members.find? fun m => match s.gangs.get? m with
      | some y => y.core == core && y.phase.placed
      | none => false
  | none => none

/-- The window region (08 R182). -/
def State.windowPlace (s : State) (gk : Nat) (g : Gang) (va size : Nat) : Except Stop Target :=
  let o := va - windowBase
  let pad (m : Option Nat) (off : Nat) : Except Stop Target :=
    match m with
    | none => .error (.trap cPROTECTION (BitVec.ofNat 64 va) none)
    | some k =>
      match s.gangs.get? k with
      | some y =>
        if off + size ≤ y.kernel.pad then .ok ⟨.pad k off, 0, false, false⟩
        else .error (.trap cPROTECTION (BitVec.ofNat 64 va) none)
      | none => .error (.trap cPROTECTION (BitVec.ofNat 64 va) none)
  if o < 0x40_0000 then pad (some gk) o
  else if 0x200_0000 ≤ o ∧ o < 0x400_0000 then
    let n := (o - 0x200_0000) / 0x40_0000
    pad (if 8 * clusterOf g.core + n = g.core then some gk else s.spanMate g (8 * clusterOf g.core + n)) (o % 0x40_0000)
  else .error (.trap cTRANSLATION (BitVec.ofNat 64 va) none)

/-- The issue slot of a thread's crew. -/
def State.slotOf (s : State) (t : Nat) : Nat := (s.whereCrew (ckOf t)).2

/-- An access of a thread in the order of R202, up to its translation. -/
def State.resolve (s : State) (t : Nat) (va : Word) (size : Nat) (k : AccKind) : Except Stop Target :=
  match s.gangs.get? (gangOf t) with
  | none => .error (.block .none)
  | some g =>
    if 2 ^ 57 ≤ va.toNat then .error (.trap cTRANSLATION va none)
    else if va.toNat % size ≠ 0 then .error (.trap cALIGNMENT va none)
    else if windowBase ≤ va.toNat then s.windowPlace (gangOf t) g va.toNat size
    else match s.tlbLook g.core (some (s.slotOf t)) g.aspace va.toNat k (s.replSlot g) with
      | none => .error (.walk va k false)
      | some e => .ok ⟨e.place va.toNat g.core, leafKey e.leaf, leafRep e.leaf, leafComp e.leaf⟩

def Place.isPeer : Place → Bool | .peer _ => true | _ => false

/-- The number of a thread's unbound loads, of its unbound stores, and its atomics (08 R199). -/
def loadsOf (l : List Acc) : Nat :=
  l.countP fun a => match a with | .load _ _ _ _ _ _ _ _ _ _ | .joined _ => true | _ => false
def storesOf (l : List Acc) : Nat := l.countP fun a => match a with | .store _ _ _ => true | _ => false
def atomsOf (l : List Acc) : Nat := l.countP fun a => match a with | .atom _ _ _ _ _ _ _ _ _ _ _ => true | _ => false

/-- A request to a peer for a thread's access (19 R404). -/
def State.askPeer (s : State) (r : PeerReq) : State :=
  { s with peers := s.peers.set s.nextId r, nextId := s.nextId + 1 }

/-- Whether the peer that a PA of the peer window names is a Vilza part. -/
def vilzaPa (pa : Nat) : Bool := Config.vilzaPeer (fld pa 41 10)

/-- A granule leaves for a peer, made for the target's PA (02 R45). Towards a foreign agent the egress checks it: what fails
leaves marked poisoned, and Porast logs it (02 R46, R50). -/
def State.peerSend (s : State) (core pa : Nat) (g : Gran) : State :=
  let bad := if vilzaPa pa then none else g.check (fld pa 0 41 / 8 * 8)
  let out : PeerGran := ⟨pa / 8 * 8, if bad.isSome then { g with poison := true } else g, bad.isSome⟩
  let s := { s with peerOut := (out :: s.peerOut).take 64 }
  match bad with
  | some _ => (s.addScruples (.core core) 16).logEvent (.egressPoison (pa / 64))
  | none => s

/-- A granule that a peer answers with. From a Vilza part it comes as a hop, and its grain may fail or it may be marked; from
a foreign agent it takes a fresh grain (02 R46, 19 R405). Its value is free (log entries 18 and 84). -/
def State.peerGran (s : State) (pa : Nat) : Gran × State :=
  let a := fld pa 0 41 / 8 * 8
  let g := Gran.mk' (Config.freeWord s.free) a
  let (c, s) := { s with free := s.free + 2 }.pick (if vilzaPa pa then 3 else 1)
  (if c = 1 then { g with poison := true }
   else if c = 2 then { g with grain := (Config.freeWord (s.free - 2)).setWidth 8 } else g, s)

/-- What a unit reads that waits for a peer's answer: `n` granules from a PA of the peer window with their grain addresses, or none
for an error answer, which every access gets while no device ID is assigned (19 R404). Whether a peer answers with an error is open
(log entry 18). -/
def State.peerRead (s : State) (pa n : Nat) : Option (List (Nat × Gran)) × State :=
  let (c, s) := s.pick (if s.host.ualValid then 2 else 1)
  if !s.host.ualValid || c = 1 then (none, s)
  else
    let r := (List.range n).foldl (fun (acc : List (Nat × Gran) × State) i =>
      let (g, s) := acc.2.peerGran (pa + 8 * i)
      (acc.1 ++ [(fld (pa + 8 * i) 0 41 / 8 * 8, g)], s)) (([] : List (Nat × Gran)), s)
    (some r.1, r.2)

/-! ## Checks of what is read -/

/-- The granules of a checked read in ascending order, each with the address its grain is made for; the first failure: its
position, its cause, and the address. -/
def firstBad : Nat → List (Nat × Gran) → Option (Nat × Byte × Nat)
  | _, [] => none
  | i, (a, g) :: r => match g.check a with | some c => some (i, c, a) | none => firstBad (i + 1) r

/-- The granules of a line that an access covers, with their grain addresses. -/
def coveredGrans (line : List Gran) (gpa size : Nat) : List (Nat × Gran) :=
  (List.range ((gpa % 8 + size + 7) / 8)).map fun i =>
    (gpa / 8 * 8 + 8 * i, line.getD (gpa / 8 % 8 + i) ⟨0, 0, true⟩)

/-- The bytes of an access within its granules, as a number. -/
def bytesFrom (gs : List (Nat × Gran)) (off size : Nat) : Nat :=
  leNat (((granBytes (gs.map (·.2))).drop off).take size)

/-- What a load writes: the values, or none for an empty interval image (08 R185, R187). -/
def loadVals (form : LoadForm) (size n : Nat) : Option (List Val) :=
  let iv (f : FW) (lo hi : Nat) : Option (List Val) :=
    if isNaI f.fmt lo hi then some (ivRegs f (naI f.fmt))
    else if isEmptyIv f.fmt lo hi then none
    else some (ivRegs f (lo, hi))
  match form with
  | .zx => some [pt (BitVec.ofNat 64 n)]
  | .sx => some [pt (sxWord (8 * size) n)]
  | .pair => some ((List.range 2).map fun i => pt (BitVec.ofNat 64 (fld n (64 * i) 64)))
  | .quad => some ((List.range 4).map fun i => pt (BitVec.ofNat 64 (fld n (64 * i) 64)))
  | .iv32 => iv .f32 (fld n 0 32) (fld n 32 32)
  | .iv64 => iv .f64 (fld n 0 64) (fld n 64 64)

/-! ## Binding a load (05 R106, R107) -/

/-- The threads that a thread's access serves: itself, and its shadow in a protected launch (17 R388). -/
def State.pairOf (s : State) (t : Nat) : List Nat :=
  match s.gangs.get? (gangOf t) with
  | some g => if g.kernel.protected_ then [t, t + 1] else [t]
  | none => [t]

/-- Writes consecutive slots. -/
def State.writeSlots (s : State) (t i : Nat) (k : Bool) : List Val → Except Stop State
  | [] => .ok s
  | v :: r => match s.writeSlot t i v k with
    | .error e => .error e
    | .ok s' => s'.writeSlots t (i + 1) k r

/-- Removes the oldest access of a thread. -/
def State.popAcc (s : State) (t : Nat) : State := s.modT t fun x => { x with accs := x.accs.drop 1 }

/-- Writes the values of a bound access for each thread it serves. -/
def State.writeFor (vals : List Val) (slot : Nat) (k : Bool) : List Nat → State → Except (Nat × Stop) State
  | [], s => .ok s
  | t :: r, s => match s.writeSlots t slot k vals with
    | .error e => .error (t, e)
    | .ok s' => State.writeFor vals slot k r s'

/-- Takes an ldk off the accesses of the other members of its crew (08 R188). -/
def State.popJoined (s : State) (lead : Nat) : State :=
  s.onThreads (s.liveThreads (ckOf lead)) fun x => { x with accs := x.accs.filter (· != .joined lead) }

/-- The threads that take the trap of an access: the pair, or for ldk every live member (R188). -/
def State.takers (s : State) (t : Nat) (toK : Option Nat) : List Nat :=
  match toK with | some _ => s.liveThreads (ckOf t) | none => s.pairOf t

/-- Binds the load at the head of a thread's accesses at `ts`: checks its granules, writes, completes a held instruction. -/
def State.bindLoad (s : State) (t : Nat) (va : Word) (size : Nat) (form : LoadForm) (slot : Nat) (k : Bool)
    (toK : Option Nat) (held : Option (List Src)) (gs : List (Nat × Gran)) (ts : Nat) : State :=
  match firstBad 0 gs with
  | some (i, c, pa) =>
    let s1 := match toK with | some _ => (s.popAcc t).popJoined t | none => s.popAcc t
    s1.stopAll ((s.takers t toK).map fun u => (u, .trap c (BitVec.ofNat 64 (va.toNat / 8 * 8 + 8 * i)) (some pa)))
  | none =>
    let n := bytesFrom gs (va.toNat % 8) size
    let s1 := s.popAcc t
    match toK with
    | some k =>
      if h : k < 32 then
        let ck := ckOf t
        let s2 := (s1.popJoined t).setK ck ⟨k, h⟩ (BitVec.ofNat 64 n)
        let s3 := s2.onThreads (s2.liveThreads ck) fun x => { x with lt := ts }
        if held.isSome then s3.finishCrew ck else s3
      else s1
    | none =>
      match loadVals form size n with
      | none => s1.stopAll ((s.pairOf t).map fun u => (u, .trap cEMPTY va none))
      | some vs =>
        let s1 := match held with
          | none => s1
          | some srcs => State.commitAll srcs (s.queuesOf (gangOf t)) (s.pairOf t) s1
        match State.writeFor vs slot k (s.pairOf t) s1 with
        | .error e => s.frameStop e.1 e.2
        | .ok s2 =>
          let s3 := s2.onThreads (s.pairOf t) fun x => { x with lt := ts }
          match held with
          | none => s3
          | some _ => (s.pairOf t).foldl (fun s u => s.finishT u) s3

/-- Takes a pad's clock for an access with lower bound `b` (05 R115). -/
def State.padTick (s : State) (g b : Nat) : Nat × State :=
  match s.gangs.get? g with
  | some y => let ts := Nat.max b y.padClock; (ts, s.modG g fun y => { y with padClock := ts })
  | none => (b, s)

/-- The granules of a pad that an access covers. -/
def State.padGrans (s : State) (g off size : Nat) : List (Nat × Gran) :=
  match s.gangs.get? g with
  | none => []
  | some y => (List.range ((off % 8 + size + 7) / 8)).map fun i =>
      (y.padPa (off / 8 * 8 + 8 * i), s.poolGran (y.padPa (off / 8 * 8 + 8 * i)))

/-- The L1 copy of a core that can serve a load: its age, its lease, its key index (05 R107, R440). -/
def State.l1Hit (s : State) (core pa key b : Nat) : Option L1Copy :=
  (s.core core).l1.find? fun c =>
    c.line == pa / 64 && c.key == key && decide (s.time - c.arrived < 512) && decide (b ≤ c.rts)

/-- A thread that waits for the engine before its access can bind. -/
def State.frameBusy (s : State) (t : Nat) : Bool :=
  let p (w : Waiter) : Bool := match w with | .frame u _ _ => u / 2 == t / 2 | _ => false
  s.walks.any (fun e => e.2.waiters.any p) || s.faults.any (fun e => e.2.waiters.any fun w => p w.1)

/-- The lower bound of the access at the head of a thread's accesses (05 R106, 08 R188): its lt, with the times of the
sources it still holds; for ldk the greatest of the crew. -/
def State.boundOf (s : State) (t : Nat) (x : Thread) : Acc → Nat
  | .load _ _ _ _ _ _ _ (some _) _ _ => s.maxLt (s.liveThreads (ckOf t))
  | .load _ _ _ _ _ _ _ none (some srcs) _ => Nat.max x.lt (s.srcTimes t srcs 0 srcs)
  | .atom _ _ _ _ _ _ _ _ _ _ srcs => Nat.max x.lt (s.srcTimes t srcs 0 srcs)
  | _ => x.lt

/-- Whether an ldk stands first among the accesses of every member of its crew: it binds for all of them (R188). -/
def State.crewHead (s : State) (t : Nat) (x : Thread) : Bool :=
  match x.accs.head? with
  | some (.load _ _ _ _ _ _ _ (some _) none _) => (s.liveThreads (ckOf t)).all fun u => u == t || s.isShadow u ||
      (match s.threads.get? u with | some y => y.accs.head? == some (.joined t) | none => true)
  | _ => true

/-- The timestamps on the device (05 R111). -/
def State.stamps (s : State) : List Nat :=
  (s.l2.map fun e => Nat.max e.2.wts e.2.rts) ++ (s.mts.map (·.2)) ++ (s.threads.map (·.2.lt)) ++ (s.gangs.map (·.2.padClock))
    ++ (s.queues.map (·.2.qlt))

/-- A rebase is due once a timestamp of 2^39 has been assigned: the access that is to have it binds first (log entry 20). -/
def rebaseAt : Nat := 2 ^ 39

def State.rebaseDue (s : State) : Bool := s.stamps.any fun t => decide (rebaseAt ≤ t)

/-- Whether the head of a thread's accesses may bind now: no move of its frame is pending, an ldk stands first with every
member, and while a rebase is due only what comes before an issued store or atomic binds (05 R111). -/
def State.mayBind (s : State) (t : Nat) (x : Thread) : Bool :=
  !s.frameBusy t && s.crewHead t x &&
  (!s.rebaseDue || x.accs.any fun a => match a with | .store _ _ _ | .atom _ _ _ _ _ _ _ _ _ _ _ => true | _ => false)

/-- Binds the head of a thread's accesses if a pad or an L1 copy of its core serves it. -/
def State.bindLocal1 (s : State) (t : Nat) : Option State :=
  match s.threads.get? t, s.gangs.get? (gangOf t) with
  | some x, some g =>
    if !s.mayBind t x then none
    else match x.accs.head? with
      | some (.load va (.pad p off) size key form slot k toK held none) =>
        let (ts, s1) := s.padTick p (s.boundOf t x (.load va (.pad p off) size key form slot k toK held none))
        some (s1.bindLoad t va size form slot k toK held (s.padGrans p off size) ts)
      | some (.load va (.dev pa gpa) size key form slot k toK held none) =>
        let b := s.boundOf t x (.load va (.dev pa gpa) size key form slot k toK held none)
        match s.l1Hit g.core pa key b with
        | some c => some (s.bindLoad t va size form slot k toK held (coveredGrans c.gr gpa size) (Nat.max b c.wts))
        | none => none
      | _ => none
  | _, _ => none

/-- Binds accesses of a thread as long as they are served locally. -/
def State.bindLocal (s : State) (t : Nat) : Nat → State
  | 0 => s
  | fuel + 1 => match s.bindLocal1 t with
    | some s' => s'.bindLocal t fuel
    | none => s

/-! ## Loads (08 R185 to R187) -/

/-- The number of registers of a form. -/
def LoadForm.regs : LoadForm → Nat | .pair => 2 | .quad => 4 | .iv64 => 2 | _ => 1

/-- A load: issued behind the thread's earlier accesses. `held`: its completion waits until it binds, which ld.iv and
loads from the peer window do, whose own traps are precise. -/
def loadOp (form : LoadForm) (size : Nat) (off : Int) (d : Dst) (a : Src) : LaneOp := fun s t =>
  match s.threads.get? t with
  | none => .ok s
  | some x =>
    match s.readAll t [a] with
    | .error e => .error e
    | .ok vs =>
      let va := dataAt vs 0 + BitVec.ofInt 64 off
      match s.resolve t va size .load with
      | .error e => .error e
      | .ok g =>
        let slot := x.wb + d.reg.val
        let peer := g.place.isPeer
        let iv := match form with | .iv32 => true | .iv64 => true | _ => false
        if (List.range form.regs).any fun i => slotPending (s.accsOf t) (slot + i) then .error (.block .regs)
        else if 32 ≤ loadsOf x.accs then .error (.block .ports)
        else if peer && !x.accs.isEmpty then .error (.block .drain)
        else
          let s := s.sendThread t
          let acc (h : Option (List Src)) : Acc := .load va g.place size g.key form slot d.k none h none
          if iv || peer then
            let s := if peer then s.askPeer (.load t (match g.place with | .peer pa => pa | _ => 0)) else s
            .ok ((s.holdPops t [a]).modT t fun y =>
              { y with accs := y.accs ++ [acc (some [a])], wait := .regs })
          else
            .ok ((s.commit t [a] vs).modT t fun y =>
              { y with accs := y.accs ++ [acc none] }.finish (s.codeBase t) s.cur.len)

/-- The shadow of a load: it waits with its even thread if that one waits at the instruction. -/
def loadShadow (srcs : List Src) : LaneOp := fun s t =>
  match s.threads.get? (t - 1) with
  | some y => if y.inAccess then .ok (s.modT t fun x => { x with wait := .regs }) else shadowOp srcs s t
  | none => shadowOp srcs s t

/-- The VA of an access, for xval of SHADOW_MISMATCH. -/
def vaOf (a : Src) (off : Int) : State → Nat → Option Word := fun s t =>
  match s.readAll t [a] with | .ok vs => some (dataAt vs 0 + BitVec.ofInt 64 off) | .error _ => none

def loadInstr (form : LoadForm) (size : Nat) (off : Int) (d : Dst) (a : Src) : LaneInstr :=
  { op := loadOp form size off d a, srcs := [a], sig := sigOf [a], va := vaOf a off, once := true,
    shadow := some (loadShadow [a]) }

def execLdN8 (d : Dst) (a : Src) (i : Imm9) (s : State) : Result := perLane (loadInstr .zx 1 i.toInt d a) s
def execLdS8 (d : Dst) (a : Src) (i : Imm9) (s : State) : Result := perLane (loadInstr .sx 1 i.toInt d a) s
def execLdN16 (d : Dst) (a : Src) (i : Imm9) (s : State) : Result := perLane (loadInstr .zx 2 (i.toInt * 2) d a) s
def execLdS16 (d : Dst) (a : Src) (i : Imm9) (s : State) : Result := perLane (loadInstr .sx 2 (i.toInt * 2) d a) s
def execLdN32 (d : Dst) (a : Src) (i : Imm9) (s : State) : Result := perLane (loadInstr .zx 4 (i.toInt * 4) d a) s
def execLdS32 (d : Dst) (a : Src) (i : Imm9) (s : State) : Result := perLane (loadInstr .sx 4 (i.toInt * 4) d a) s
def execLdB64 (d : Dst) (a : Src) (i : Imm9) (s : State) : Result := perLane (loadInstr .zx 8 (i.toInt * 8) d a) s
def execLdB64x2 (d : Dst) (a : Src) (i : Imm9) (s : State) : Result := perLane (loadInstr .pair 16 (i.toInt * 8) d a) s
def execLdB64x4 (d : Dst) (a : Src) (i : Imm9) (s : State) : Result := perLane (loadInstr .quad 32 (i.toInt * 8) d a) s
def execLdIv (f : FW) (d : Dst) (a : Src) (s : State) : Result :=
  match f with
  | .f32 => perLane (loadInstr .iv32 8 0 d a) s
  | .f64 => perLane (loadInstr .iv64 16 0 d a) s

/-- ldk: one load for the crew (08 R188). It stands with the lowest live member, and in the accesses of the others it holds
its place. To the peer window every live member waits at it until it binds, for its own traps are precise. -/
def ldkOp (k : KReg) (a : Src) : CrewOp := fun s ck =>
  match s.crewRead ck [a] with
  | .error f => .error f
  | .ok (_, s1) =>
    let low := s.lowest ck
    match s.readAll low [a] with
    | .error e => .error fun _ => e
    | .ok vs =>
      let va := dataAt vs 0
      match s.resolve low va 8 .load with
      | .error e => .error fun _ => e
      | .ok g =>
        let l := s.liveThreads ck
        let acc (h : Option (List Src)) : Acc := .load va g.place 8 g.key .zx 0 false (some k.val) h none
        if s.kPending ck k.val then .error fun _ => .block .regs
        else if l.any fun t => decide (32 ≤ loadsOf (s.accsOf t)) then .error fun _ => .block .ports
        else match g.place with
          | .peer pa =>
            if !s.crewDrained ck then .error fun _ => .block .drain
            else .ok (((s1.crewWait ck .regs).askPeer (.load low pa)).modT low fun y =>
              { y with accs := y.accs ++ [acc (some [])] })
          | _ =>
            let s2 := l.foldl (fun s t => s.sendThread t) s1
            let s3 := s2.onThreads (l.filter fun t => t != low && !s.isShadow t) fun y =>
              { y with accs := y.accs ++ [.joined low] }
            .ok ((s3.modT low fun y => { y with accs := y.accs ++ [acc none] }).finishCrew ck)

def execLdk (k : KReg) (a : Src) (s : State) : Result := collectiveAt (vaOf a 0) [a] (ldkOp k a) s

/-! ## Stores (08 R189 to R192) -/

/-- The line of a place: its first byte's place. -/
def Place.lineOf : Place → Place
  | .dev pa gpa => .dev (pa / 64 * 64) (gpa / 64 * 64)
  | .peer pa => .peer (pa / 64 * 64)
  | .pad g off => .pad g (off / 64 * 64)
def Place.inLine : Place → Nat
  | .dev pa _ => pa % 64
  | .peer pa => pa % 64
  | .pad _ off => off % 64

/-- The bytes of an entry within granule `k`: position and byte. -/
def StoreEntry.within (e : StoreEntry) (k : Nat) : List (Nat × Byte) :=
  (e.bytes.filter fun b => b.1 / 8 == k).map fun b => (b.1 % 8, b.2)

/-- The granules that an entry touches whole, and in part. -/
def StoreEntry.whole (e : StoreEntry) : List Nat := (List.range 8).filter fun k => (e.within k).length == 8
def StoreEntry.part (e : StoreEntry) : List Nat :=
  (List.range 8).filter fun k => !(e.within k).isEmpty && (e.within k).length != 8

/-- A granule's data with the bytes of an entry. -/
def StoreEntry.over (e : StoreEntry) (k : Nat) (d : Word) : Word :=
  (e.within k).foldl (fun w b => setByte w b.1 b.2) d

/-- The stores to a line of HBM that are issued and not yet performed, in coalescers and messages. -/
def State.storesTo (s : State) (ln : Nat) : List StoreEntry :=
  ((s.cores.flatMap fun c => c.2.coal.flatMap fun q => q.2.map (·.2)) ++
    (s.msgs.filter fun m => m.2.phase == .sent).map (·.2.e)).filter fun e =>
      match e.place with | .dev pa _ => pa / 64 == ln | _ => false

/-- Whether another thread of this bundle stored to the same location of the line by this instruction (R192). -/
def StoreEntry.clash (e : StoreEntry) (t : Nat) (va : Word) (now : Nat) : Bool :=
  e.feeders.any fun f => f.1 != t && f.2.2 == now && f.2.1.toNat % 64 == va.toNat % 64

/-- The location of a store enters an entry. Which lane's value stays where two lanes of one instruction write the same location
is open (R192): a free choice of the whole value. -/
def State.enterBytes (s : State) (clash : Bool) (e : StoreEntry) (off : Nat) (bs : List Byte) : StoreEntry × State :=
  let (c, s) := if clash then s.pick 2 else (1, s)
  (if c = 0 then e else { e with bytes := bs.zipIdx.foldl (fun l b => Tab.set l (off + b.2) b.1) e.bytes }, s)

/-- Whether a thread has a store in an entry that was opened after the first one of which `same` holds. -/
def fedLater (t : Nat) (same : StoreEntry → Bool) : List (Nat × StoreEntry) → Bool
  | [] => false
  | e :: r => if same e.2 then r.any fun u => u.2.feeders.any (·.1 == t) else fedLater t same r

/-- A store enters the coalescer of its thread's issue slot (R190). The line's entry is sent first if the thread has a store
in a later one, which is to bind before this store; when all 16 entries are in use, the oldest is sent. -/
def State.enterStore (s : State) (t : Nat) (va : Word) (g : Target) (bs : List Byte) : State :=
  let (core, slot) := s.whereCrew (ckOf t)
  let lt := match s.threads.get? t with | some x => x.lt | none => 0
  let gk := match s.gangs.get? (gangOf t) with | some y => y.slot | none => 0
  let same (e : StoreEntry) : Bool := e.place == g.place.lineOf && e.key == g.key && e.rep == g.rep
  let s := if fedLater t same ((s.core core).coal.getD slot []) then
      s.sendWhere core slot fun _ e => same e || e.feeders.any (·.1 == t)
    else s
  let l := (s.core core).coal.getD slot []
  match l.find? fun e => same e.2 with
  | some (id, e) =>
    let clash := e.clash t va s.time
    let (e, s) := s.enterBytes clash e g.place.inLine bs
    let e := { e with b := Nat.max e.b lt, comp := g.comp, feeders := e.feeders ++ [(t, va, s.time)] }
    (s.setCore core fun c => { c with coal := c.coal.set slot (l.map fun p => if p.1 = id then (id, e) else p) }).modT t
      fun x => { x with accs := x.accs ++ [.store id va bs.length] }
  | none =>
    let s := if 16 ≤ l.length then (match l.head? with | some p => s.sendEntry core slot p.1 | none => s) else s
    let e : StoreEntry :=
      { launch := gk, core, slot, place := g.place.lineOf, key := g.key, rep := g.rep, comp := g.comp
        bytes := bs.zipIdx.foldl (fun l b => Tab.set l (g.place.inLine + b.2) b.1) [], b := lt
        feeders := [(t, va, s.time)], opened := s.time, node := none }
    let id := s.nextId
    ({ s with nextId := id + 1 }.setCore core fun c =>
      { c with coal := c.coal.set slot (c.coal.getD slot [] ++ [(id, e)]) }).modT t
      fun x => { x with accs := x.accs ++ [Acc.store id va bs.length] }

/-- Sends the full entries of an issue slot (R190). -/
def State.sendFull (s : State) (core slot : Nat) : State := s.sendWhere core slot fun _ e => e.bytes.length == 64

/-- A store of the bytes that `f` forms from the data registers. -/
def storeOp (size : Nat) (off : Int) (a : Src) (data : State → Nat → List Src) (f : List Val → List Byte) : LaneOp :=
  fun s t =>
    match s.threads.get? t with
    | none => .ok s
    | some x =>
      let srcs := a :: data s t
      match s.readAll t srcs with
      | .error e => .error e
      | .ok vs =>
        let va := dataAt vs 0 + BitVec.ofInt 64 off
        match s.resolve t va size .store with
        | .error e => .error e
        | .ok g =>
          if 32 ≤ storesOf x.accs then .error (.block .ports)
          else
            .ok (((s.commit t srcs vs).enterStore t va g (f (vs.drop 1))).modT t fun y =>
              y.finish (s.codeBase t) s.cur.len)

/-- A store instruction; entries that become full are sent when every lane has stored. -/
def storeInstr (size : Nat) (off : Int) (a : Src) (data : State → Nat → List Src) (f : List Val → List Byte)
    (s : State) : Result :=
  let i : LaneInstr :=
    { op := storeOp size off a data f, srcs := a :: data s (tkey s.cur.gang s.cur.crew (s.cur.lanes.headD 0))
      sig := fun s t => sigOf (a :: data s t) s t, va := vaOf a off, once := true
      shadow := some fun s t => shadowOp (a :: data s t) s t }
  match perLane i s with
  | .next s' => let w := s'.whereCrew s.curCrew; .next (s'.sendFull w.1 w.2)
  | r => r

/-- The data registers of a store, read at level 00, and their low bytes. -/
def dataRegs (d : Reg) (n : Nat) : State → Nat → List Src := fun _ _ =>
  (List.range n).map fun i => .oc (d + Fin.ofNat 64 i)
def lowBytes (n : Nat) (vs : List Val) : List Byte := leBytes n (dataAt vs 0).toNat
def wordsOf (vs : List Val) : List Byte := vs.flatMap fun v => leBytes 8 v.data.toNat

def execStB8 (d : Reg) (a : Src) (i : Imm9) (s : State) : Result :=
  storeInstr 1 i.toInt a (dataRegs d 1) (lowBytes 1) s
def execStB16 (d : Reg) (a : Src) (i : Imm9) (s : State) : Result :=
  storeInstr 2 (i.toInt * 2) a (dataRegs d 1) (lowBytes 2) s
def execStB32 (d : Reg) (a : Src) (i : Imm9) (s : State) : Result :=
  storeInstr 4 (i.toInt * 4) a (dataRegs d 1) (lowBytes 4) s
def execStB64 (d : Reg) (a : Src) (i : Imm9) (s : State) : Result :=
  storeInstr 8 (i.toInt * 8) a (dataRegs d 1) (lowBytes 8) s
def execStB64x2 (d : Reg) (a : Src) (i : Imm9) (s : State) : Result :=
  storeInstr 16 (i.toInt * 8) a (dataRegs d 2) wordsOf s
def execStB64x4 (d : Reg) (a : Src) (i : Imm9) (s : State) : Result :=
  storeInstr 32 (i.toInt * 8) a (dataRegs d 4) wordsOf s

/-- The image that st.iv stores (08 R187). -/
def ivImage (f : FW) (d : Reg) (vs : List Val) : List Byte :=
  match f, opdsOf f [.oc d] vs with
  | .f32, .iv _ _ :: _ => leBytes 8 (dataAt vs 0).toNat
  | .f64, .iv lo hi :: _ => leBytes 8 lo ++ leBytes 8 hi
  | f, .pt v :: _ =>
    let b := if (f.fmt.decode v).isNan then f.fmt.nan else v
    leBytes (f.fmt.bits / 8) b ++ leBytes (f.fmt.bits / 8) b
  | _, [] => []
def execStIv (f : FW) (d : Reg) (a : Src) (s : State) : Result :=
  storeInstr (match f with | .f32 => 8 | .f64 => 16) 0 a (ivSrcs f [.oc d]) (ivImage f d) s

/-! ## Atomics (08 R193 to R195, 05 R117, R118) -/

/-- The new value of an atom (R194). -/
def atomNew (op : AtomOp) (w : Width) (old o c : Word) : Nat :=
  let b := low w old
  let v := low w o
  let sg (x : Nat) : Int := sxInt x (wbits w)
  match op with
  | .add => (b + v) % 2 ^ wbits w
  | .minS => if sg b ≤ sg v then b else v
  | .maxS => if sg v ≤ sg b then b else v
  | .minN => Nat.min b v
  | .maxN => Nat.max b v
  | .and => b &&& v
  | .or => b ||| v
  | .xor => b ^^^ v
  | .xchg => v
  | .cas => if b = v then low w c else b
  | .incw => if v ≤ b then 0 else b + 1
  | .fadd =>
    let f := match w with | .w32 => fmt32 | .w64 => fmt64
    (f.addP .rne (f.decode b) (f.decode v)).1

/-- The value an atom writes to d. -/
def atomResult (op : AtomOp) (w : Width) (old : Word) : Val :=
  match op with
  | .minS | .maxS => pt (sxWord (wbits w) (low w old))
  | _ => pt (zx w (low w old))

/-- The w-bit part of a granule at a byte offset, and the granule with it replaced. -/
def partOf (d : Word) (off : Nat) (w : Width) : Word := BitVec.ofNat 64 (fld d.toNat (8 * off) (wbits w))
def withPart (d : Word) (off : Nat) (w : Width) (v : Nat) : Word :=
  BitVec.ofNat 64 (d.toNat - fld d.toNat (8 * off) (wbits w) * 2 ^ (8 * off) + v % 2 ^ wbits w * 2 ^ (8 * off))

def Scope.rank : Scope → Nat | .gang => 0 | .span => 1 | .dev => 2 | .sys => 3

/-- Whether instance `i` of scope `sc` contains a standing tag's instance (R117). -/
def State.scopeHolds (s : State) (sc : Scope) (i : Nat) (g : ScopeTag) : Bool :=
  match sc, g.scope with
  | .gang, .gang => i == g.inst
  | .span, .gang => match s.gangs.get? g.inst with | some y => y.span == i | none => false
  | .span, .span => i == g.inst
  | .dev, .sys => false
  | .dev, _ => true
  | .sys, _ => true
  | _, _ => false

/-- The scope checker (R118): the tag after, or a violation. -/
def State.scopeCheck (s : State) (ln : Nat) (sc : Scope) (i : Nat) : Option ScopeTag :=
  match (s.line ln).tag with
  | none => some ⟨sc, i⟩
  | some g =>
    if !s.scopeHolds sc i g then none
    else if Scope.rank g.scope < Scope.rank sc then some ⟨sc, i⟩ else some g

/-- The lines that a core holds checked out. -/
def State.linesHeld (s : State) (core : Nat) : List Nat := s.l2.keysWhere fun _ e => e.holder == .core core

/-- The L1 copies of a core and the lines checked out to it stand in its lent acres, 64 lines each (06 R132, R135): beyond
them lines are recalled and copies dropped. -/
def State.trimLoan (s : State) (h : Holder) : State :=
  match h with
  | .core c =>
    let cap := 64 * (s.core c).loan
    let held := s.linesHeld c
    let s := (held.take (held.length - cap)).foldl (fun s ln => s.recallLine ln) s
    if held.length + (s.core c).l1.length ≤ cap then s
    else s.setCore c fun x => { x with l1 := x.l1.take (cap - held.length) }
  | _ => s

/-- Performs an atom at a line: scope check, granule check, new value at ts := max(b, RTS + 1) (R108, R118, R194, R440).
Answers the old value, the timestamp and the state, or a cause with its PA. -/
def State.atomLine (s : State) (pa gpa key : Nat) (w : Width) (f : Word → Nat) (sc : Scope) (inst : Nat)
    (holder : Holder) (b : Nat) : Except (Byte × Option Nat) (Word × Nat × State) :=
  let ln := pa / 64
  let s := (s.fillLine ln)
  match s.scopeCheck ln sc inst with
  | none => .error (cSCOPE, none)
  | some tag =>
    let e := s.line ln
    let g0 := e.gr.getD (pa / 8 % 8) ⟨0, 0, true⟩
    let g := if e.key = key then g0 else { g0 with poison := true }
    match g.check (gpa / 8 * 8) with
    | some c => .error (c, some (gpa / 8 * 8))
    | none =>
      let old := partOf g.data (gpa % 8) w
      let d := withPart g.data (gpa % 8) w (f old)
      let ts := Nat.max b (e.rts + 1)
      .ok (old, ts, (s.putLine ln { e with
        gr := e.gr.set (pa / 8 % 8) (Gran.mk' d (gpa / 8 * 8)), wts := ts, rts := ts, tag := some tag
        holder, recalled := false, dirty := true }).trimLoan holder)

/-- The xval of an atom's cause: the VA for a violation, the granule's VA for a failed check. -/
def atomXval (va : Word) (c : Byte) : Word := if c = cSCOPE then va else BitVec.ofNat 64 (va.toNat / 8 * 8)

/-- Performs an atom on a pad (R195). -/
def State.atomPad (s : State) (g off : Nat) (w : Width) (f : Word → Nat) (b : Nat) :
    Except (Byte × Option Nat) (Word × Nat × State) :=
  match s.gangs.get? g with
  | none => .error (cPROTECTION, none)
  | some y =>
    let a := y.padPa (off / 8 * 8)
    match (s.poolGran a).check a with
    | some c => .error (c, some a)
    | none =>
      let old := partOf (s.poolGran a).data (off % 8) w
      let d := withPart (s.poolGran a).data (off % 8) w (f old)
      let (ts, s) := s.padTick g b
      .ok (old, ts, { s with pool := s.pool.setGran (a / 8) (Gran.mk' d a) })

/-- What an atom reads: its address, d, and d + 1 for cas (R193, R194). -/
def atomSrcs (op : AtomOp) (d : Dst) (a : Src) : List Src :=
  [a, .oc d.reg] ++ (match op with | .cas => [.oc (d.reg + 1)] | _ => [])

/-- Completes an atom performed at once. -/
def State.atomDone (s : State) (t : Nat) (srcs : List Src) (vs : List Val) (op : AtomOp) (w : Width) (d : Dst) (old : Word)
    (ts : Nat) : Except Stop State :=
  match (s.commit t srcs vs).writeRegs t d.reg.val d.k [atomResult op w old] with
  | .error e => .error e
  | .ok s2 => .ok (s2.modT t fun x => { x with lt := ts }.finish (s.codeBase t) s.cur.len)

/-- An atom (R195): .gang, .span and pad atoms are performed by the thread's ports; .dev and .sys atoms, and those to the
peer window, wait at their instruction for the place that performs them. -/
def atomOp (w : Width) (op : AtomOp) (sc : Scope) (d : Dst) (a : Src) : LaneOp := fun s t =>
  match s.threads.get? t, s.gangs.get? (gangOf t) with
  | some x, some g =>
    let srcs := atomSrcs op d a
    match s.readAll t srcs with
    | .error e => .error e
    | .ok vs =>
      let va := dataAt vs 0
      match s.resolve t va (wbits w / 8) .atomic with
      | .error e => .error e
      | .ok r =>
        if r.rep then .error (.trap cPROTECTION va none)
        else if !x.accs.isEmpty then .error (.block .drain)
        else
          let f (old : Word) : Nat := atomNew op w old (dataAt vs 1) (dataAt vs 2)
          let pend : Except Stop State :=
            let s := match r.place with | .peer pa => s.askPeer (.atom t pa) | _ => s
            .ok ((s.holdPops t [a]).modT t fun y => { y with
              accs := [.atom va r.place w op sc r.key (x.wb + d.reg.val) d.k (dataAt vs 1) (dataAt vs 2) srcs]
              wait := .regs })
          let b := Nat.max x.lt (s.srcTimes t srcs 0 srcs)
          let near (h : Holder) (pa gpa : Nat) : Except Stop State :=
            match s.atomLine pa gpa r.key w f sc (s.scopeInst t sc) h b with
            | .error (c, p) => .error (.trap c (atomXval va c) p)
            | .ok (old, ts, s1) => s1.atomDone t srcs vs op w d old ts
          match r.place, sc with
          | .pad p off, _ =>
            match s.atomPad p off w f b with
            | .error (c, pa) => .error (.trap c (atomXval va c) pa)
            | .ok (old, ts, s1) => s1.atomDone t srcs vs op w d old ts
          | .peer _, _ => pend
          | .dev pa gpa, .gang => near (.core g.core) pa gpa
          | .dev pa gpa, .span => near (.cluster (clusterOf g.core)) pa gpa
          | .dev _ _, .dev => pend
          | .dev _ _, .sys => pend
  | _, _ => .ok s

/-- The shadow of an atom: it waits with its even thread, or takes the value that one received (17 R388). -/
def atomShadow (op : AtomOp) (d : Dst) (a : Src) : LaneOp := fun s t =>
  match s.threads.get? (t - 1) with
  | none => .ok s
  | some y =>
    if y.inAccess then .ok (s.modT t fun x => { x with wait := .regs })
    else
      let srcs := atomSrcs op d a
      match s.readAll t srcs, s.slotVal (t - 1) y (y.wb + d.reg.val) with
      | .ok vs, .ok v =>
        match (s.commit t srcs vs).writeRegs t d.reg.val d.k [v] with
        | .error e => .error e
        | .ok s2 => .ok (s2.modT t fun x => { x with lt := y.lt }.finish (s.codeBase t) s.cur.len)
      | .error e, _ => .error e
      | _, .error e => .error e

def execAtom (w : Width) (op : AtomOp) (sc : Scope) (d : Dst) (a : Src) (s : State) : Result :=
  perLane { op := atomOp w op sc d a, srcs := atomSrcs op d a, sig := sigOf (atomSrcs op d a), va := vaOf a 0, once := true,
            shadow := some (atomShadow op d a) } s

/-! ## scope.drop, fence.rep, pf, wait (08 R196 to R200) -/

/-- scope.drop: binds in program order, stamps nothing. -/
def scopeDropOp (a : Src) : LaneOp := fun s t =>
  match s.threads.get? t with
  | none => .ok s
  | some x =>
    match s.readAll t [a] with
    | .error e => .error e
    | .ok vs =>
      let va := dataAt vs 0
      let fin (s : State) : Except Stop State := .ok ((s.commit t [a] vs).modT t fun y => y.next s t)
      if 2 ^ 57 ≤ va.toNat then .error (.trap cTRANSLATION va none)
      else if windowBase ≤ va.toNat then if x.accs.isEmpty then fin s else .error (.block .drain)
      else match s.resolve t va 1 .load with
        | .error e => .error e
        | .ok g =>
          if !x.accs.isEmpty then .error (.block .drain)
          else match g.place with
            | .dev pa _ =>
              if g.rep then fin s
              else fin { s.recallLine (pa / 64) with
                l2 := (s.recallLine (pa / 64)).l2.modify (pa / 64) fun e => { e with tag := none } }
            | _ => fin s
def execScopeDrop (a : Src) (s : State) : Result :=
  perLane { op := scopeDropOp a, srcs := [a], sig := sigOf [a], va := vaOf a 0, once := true } s

/-- fence.rep: binds after every replicated store bound before it has been acknowledged (05 R123). -/
def fenceRepOp : LaneOp := fun s t =>
  match s.threads.get? t with
  | none => .ok s
  | some x =>
    if !(s.accsOf t).isEmpty then .error (.block .drain)
    else if !x.reps.isEmpty then .error (.block .reps)
    else .ok ((s.closeReps (RepMark.dropThread t)).setT t ({ x with lt := Nat.max x.lt x.repTs, repTs := 0 }.next s t))
def execFenceRep (s : State) : Result :=
  perLane { op := fenceRepOp, srcs := [], sig := fun _ _ => [], va := fun _ _ => none, once := false } s

/-- An L1 copy arrives at a core: it replaces the older one; copies stand in lent acres, 64 lines each, beside the lines that
the core holds checked out (06 R135, R138). -/
def State.putL1 (s : State) (core : Nat) (c : L1Copy) : State :=
  let room := 64 * (s.core core).loan - (s.linesHeld core).length
  s.setCore core fun x => { x with l1 := (c :: x.l1.filter (·.line != c.line)).take room }

/-- pf: requests an L1 copy with b = lt; an address that fails changes nothing (R198). -/
def pfOp (a : Src) : LaneOp := fun s t =>
  match s.threads.get? t, s.gangs.get? (gangOf t), s.readAll t [a] with
  | some x, some g, .ok vs =>
    let va := (dataAt vs 0).toNat
    let s1 := if va < windowBase then
        match s.xlateFill g.core g.aspace va .load (s.replSlot g) with
        | (.ok e, s) =>
          match e.place va g.core with
          | .dev pa _ =>
            let r := s.lineLoad (pa / 64) (leafKey e.leaf) x.lt
            r.2.putL1 g.core ⟨pa / 64, r.1.line, r.1.wts, r.1.rts, r.1.time, leafKey e.leaf⟩
          | _ => s
        | (_, s) => s
      else s
    .ok ((s1.commit t [a] vs).modT t fun y => y.next s t)
  | _, _, .error e => .error e
  | _, _, _ => .ok s
def execPf (a : Src) (s : State) : Result :=
  perLane { op := pfOp a, srcs := [a], sig := sigOf [a], va := vaOf a 0, once := true } s

/-- The copies of a crew from issue to completion (R199). -/
def State.copiesOf (s : State) (ck : Nat) : Nat :=
  s.copies.countP fun e => ckey e.2.gang e.2.crew == ck && !e.2.prologue && !e.2.orphan

/-- Whether every class of a mask has at most `n` outstanding (R200). -/
def State.classesDone (s : State) (t : Nat) (m : Mask4) (n : Nat) : Bool :=
  let l := s.accsOf t
  (!m.getLsbD 0 || decide (loadsOf l ≤ n)) && (!m.getLsbD 1 || decide (storesOf l ≤ n)) &&
  (!m.getLsbD 2 || decide (atomsOf l ≤ n)) && (!m.getLsbD 3 || decide (s.copiesOf (ckOf t) ≤ n))

/-- wait: on return the thread has observed the completed copies of its crew, if copies were selected (05 R125). -/
def waitOp (c : Byte) (m : Mask4) : LaneOp := fun s t =>
  if s.classesDone t m c.toNat then
    let ts := if m.getLsbD 3 then (match s.crews.get? (ckOf t) with | some y => y.copyTs | none => 0) else 0
    .ok (s.modT t fun x => { x with lt := Nat.max x.lt ts }.next s t)
  else .error (.block (.classes m c.toNat))
def execWait (c : Byte) (m : Mask4) (s : State) : Result :=
  perLane { op := waitOp c m, srcs := [], sig := fun _ _ => [], va := fun _ _ => none, once := false } s

end Sys2Proof.Machine
end

