-- ==== Sys2Proof/Machine/Pool.lean ====
section
/-! DEFINITION. The pool: quotas, the pot, handles, and the instructions that change them (06 R132 to R154). The allocator's own
steps stand in `Allocator.lean`. -/

namespace Sys2Proof.Machine

/-! ## Acres and perches -/

/-- The acres a gang owns. -/
def Gang.acres (g : Gang) : Nat := g.frameAcres + g.padAcres + g.tileAcres

/-- xval of POOL_LIMIT (R154). -/
def poolXval (reason n : Nat) : Word := BitVec.ofNat 64 (reason + n % 2 ^ 32 * 2 ^ 32)

/-- The class of a request in the order of R139. -/
def ReqKind.rank : ReqKind → Nat
  | .resume _ => 0
  | .grow _ _ _ _ | .talloc _ _ _ _ _ => 1
  | .admission _ => 2

/-- A new request stands behind those of its class and before those of later classes; a request being served stays first
(R139). -/
def insertReq (r : PoolReq) : List PoolReq → List PoolReq
  | [] => [r]
  | x :: l => if x.phase == .waiting && decide (r.kind.rank < x.kind.rank) then r :: x :: l else x :: insertReq r l

def State.addReq (s : State) (core : Nat) (k : ReqKind) (acres frame : Nat) : State :=
  s.setCore core fun c => { c with reqs := insertReq ⟨k, acres, frame, .waiting⟩ c.reqs }

/-- A crew takes `n` perches: those that it has drawn, then those of `acres` new frame acres, then slack of its gang (R149). -/
def State.takeSlack (s : State) (ck n acres : Nat) : State :=
  match s.gangs.get? (ck / 32) with
  | none => s
  | some g =>
    let all := g.drawn.getD (ck % 32) [] ++ (List.range (16 * acres)).map (16 * g.frameAcres + ·) ++ g.slack
    let s := s.modG (ck / 32) fun g => { g with
      slack := all.drop n, drawn := g.drawn.erase (ck % 32), frameAcres := g.frameAcres + acres }
    s.modC ck fun c => { c with quota := c.quota + n, perchMap := c.perchMap ++ all.take n }

/-! ### Compaction (R140) -/

/-- Renumbers the perches of a gang, wherever they stand. -/
def State.mapPerches (s : State) (g : Nat) (f : Nat → Nat) : State :=
  let s := s.modG g fun y => { y with
    slack := y.slack.map f, pot := y.pot.map f, drawn := y.drawn.mapVals fun _ l => l.map f }
  { s with crews := s.crews.mapVals fun k c => if k / 32 = g then { c with perchMap := c.perchMap.map f } else c }

/-- Of two perches that exchange their places. -/
def swapPerch (moved : List (Nat × Nat)) (p : Nat) : Nat :=
  match moved.find? fun m => m.1 == p || m.2 == p with
  | some m => if m.1 = p then m.2 else m.1
  | none => p

/-- The perches of a frame acre that are not slack. -/
def Gang.occupied (g : Gang) (a : Nat) : List Nat := ((List.range 16).map (16 * a + ·)).filter fun p => !g.slack.contains p

/-- Empties partly used acres, the highest-numbered first, into slack perches of others, as long as `copies` perch copies
suffice. An acre is emptied whole or not at all, and the first perches of the slack list take the copies. DESIGN CHOICE (log entry
98). -/
def State.emptyAcres (s : State) (g copies : Nat) : Nat → State
  | 0 => s
  | fuel + 1 =>
    match s.gangs.get? g with
    | none => s
    | some x =>
      match (List.range x.frameAcres).reverse.find? fun a => (x.occupied a).length != 0 && (x.occupied a).length != 16 with
      | none => s
      | some a =>
        let occ := x.occupied a
        let free := x.slack.filter fun p => p / 16 != a
        if copies < occ.length || decide (free.length < occ.length) then s
        else (s.mapPerches g (swapPerch (occ.zip free))).emptyAcres g (copies - occ.length) fuel

/-- Returns the highest frame acre that is wholly slack; the acres above it are renumbered. -/
def State.returnAcres (s : State) (g : Nat) : Nat → State
  | 0 => s
  | fuel + 1 =>
    match s.gangs.get? g with
    | none => s
    | some x =>
      match (List.range x.frameAcres).reverse.find? fun a => (x.occupied a).isEmpty with
      | none => s
      | some a =>
        let s := s.modG g fun y => { y with slack := y.slack.filter fun p => p / 16 != a, frameAcres := y.frameAcres - 1 }
        ((s.mapPerches g fun p => if 16 * a < p then p - 16 else p).freeAcres x.core 1).returnAcres g fuel

/-- Perches of a gang have become slack: at most 16 perch copies, then whole acres return (R140). -/
def State.compact (s : State) (g : Nat) : State := (s.emptyAcres g 16 16).returnAcres g 760

/-- Spills what leaves the resident ranges of a crew's threads when its quota has become smaller (R144, 09 R207). -/
def State.spillCrew (s : State) : List Nat → Except (Nat → Stop) State
  | [] => .ok s
  | t :: r =>
    match s.rangeMove t with
    | (_, some st) => .error fun u => if u = t then st else .block .coll
    | (s', none) => s'.spillCrew r

/-- Takes `n` perches from a crew, after their registers are spilled: the crew's state and the perches. -/
def State.dropPerches (s : State) (ck n : Nat) : Except (Nat → Stop) (List Nat × State) :=
  match s.crews.get? ck with
  | none => .ok ([], s)
  | some c =>
    let keep := c.quota - n
    let s := s.modC ck fun c => { c with quota := keep, perchMap := c.perchMap.take keep }
    match s.spillCrew (s.liveThreads ck) with
    | .error f => .error f
    | .ok s' => .ok (c.perchMap.drop keep, s')

/-- A crew waits at the allocator or at the pot: its queue pops stay reserved. -/
def State.crewBlock (s : State) (ck : Nat) (a : Src) (w : Wait) : State :=
  ((s.liveThreads ck).reverse.foldl (fun s t => s.holdPops t [a]) s).crewWait ck w

/-! ## grow, shrink, claim, release (R149, R150) -/

def growOp (a : Src) : CrewOp := fun s ck =>
  match s.crewRead ck [a], s.crews.get? ck, s.gangs.get? (ck / 32) with
  | .error f, _, _ => .error f
  | .ok (vs, s1), some c, some g =>
    let n := (dataAt vs 0).toNat
    let acres := (n - g.slack.length + 15) / 16
    if n = 0 then .ok (s1.finishCrew ck)
    else if 256 < c.quota + n then .error (allTrap cPOOL_LIMIT (poolXval 1 n))
    else if 760 < g.acres + acres then .error (allTrap cPOOL_LIMIT (poolXval 2 n))
    else if acres = 0 then .ok ((s1.takeSlack ck n 0).finishCrew ck)
    else
      let s2 := (s.crewBlock ck a .grow).modG (ck / 32) fun g => { g with
        slack := [], drawn := g.drawn.set (ck % 32) g.slack }
      .ok (s2.addReq g.core (.grow (ck / 32) (ck % 32) n a) acres acres)
  | _, _, _ => .ok s

def shrinkOp (a : Src) : CrewOp := fun s ck =>
  match s.crewRead ck [a], s.crews.get? ck with
  | .error f, _ => .error f
  | .ok (vs, s1), some c =>
    let n := (dataAt vs 0).toNat
    if n = 0 then .ok (s1.finishCrew ck)
    else if c.quota < n + 8 then .error (allTrap cPOOL_LIMIT (poolXval 3 n))
    else match s1.dropPerches ck n with
      | .error f => .error f
      | .ok (ps, s2) =>
        let s3 := s2.modG (ck / 32) fun g => { g with slack := g.slack ++ ps }
        .ok ((s3.compact (ck / 32)).finishCrew ck)
  | _, _ => .ok s

def claimOp (a : Src) : CrewOp := fun s ck =>
  match s.crewRead ck [a], s.crews.get? ck with
  | .error f, _ => .error f
  | .ok (vs, s1), some c =>
    let n := (dataAt vs 0).toNat
    if n = 0 then .ok (s1.finishCrew ck)
    else if 256 < c.quota + n then .error (allTrap cPOOL_LIMIT (poolXval 1 n))
    else
      let s2 := (s.crewBlock ck a .claim).modG (ck / 32) fun g => { g with claims := g.claims ++ [(ck % 32, n, a)] }
      .ok (s2.serveClaims (ck / 32) 40)
  | _, _ => .ok s

def releaseOp (a : Src) : CrewOp := fun s ck =>
  match s.crewRead ck [a], s.crews.get? ck with
  | .error f, _ => .error f
  | .ok (vs, s1), some c =>
    let n := (dataAt vs 0).toNat
    if n = 0 then .ok (s1.finishCrew ck)
    else if c.quota < n + 8 then .error (allTrap cPOOL_LIMIT (poolXval 3 n))
    else match s1.dropPerches ck n with
      | .error f => .error f
      | .ok (ps, s2) =>
        let s3 := s2.modG (ck / 32) fun g => { g with pot := g.pot ++ ps }
        .ok ((s3.finishCrew ck).serveClaims (ck / 32) 40)
  | _, _ => .ok s

def execGrow (a : Src) (s : State) : Result := collective [a] (growOp a) s
def execShrink (a : Src) (s : State) : Result := collective [a] (shrinkOp a) s
def execClaim (a : Src) (s : State) : Result := collective [a] (claimOp a) s
def execRelease (a : Src) (s : State) : Result := collective [a] (releaseOp a) s

/-! ## pinfo (R151) -/

/-- The acres of a request in DRAIN or FILL (R138). -/
def PoolReq.chosen (r : PoolReq) : Nat :=
  match r.phase with | .waiting => 0 | .drain => r.acres | .fill => r.acres - r.frame

/-- The pool word of a thread. -/
def State.poolWord (s : State) (t : Nat) : Word :=
  match s.gangs.get? (gangOf t), s.crews.get? (ckOf t) with
  | some g, some c =>
    let k := s.core g.core
    let chosen := (k.reqs.map PoolReq.chosen).foldl (· + ·) 0
    BitVec.ofNat 64 (c.quota + g.pot.length * 2 ^ 16 + g.acres * 2 ^ 32 + (k.loan - 8) * 2 ^ 42 +
      (k.loan + chosen) * 2 ^ 52)
  | _, _ => 0

def execPinfo (d : Dst) (s : State) : Result :=
  perLane (regInstr (fun _ _ => []) fun s t _ _ => .ok (resultNoLatch d (pt (s.poolWord t)))) s

/-! ## Handles (R152) -/

/-- Whether a region [o, o + n) meets no bound handle. -/
def freeAt (hs : Tab Handle) (o n : Nat) : Bool :=
  hs.all fun h => decide (o + n ≤ h.2.off ∨ h.2.off + 1024 * h.2.kib ≤ o)

/-- The end of the highest bound region. -/
def tileTop (hs : Tab Handle) : Nat := maxOf (hs.map fun h => h.2.off + 1024 * h.2.kib)

/-- The lowest free region of `n` bytes below `limit`: it starts at 0 or where a bound region ends. -/
def lowestFree (hs : Tab Handle) (n limit : Nat) : Option Nat :=
  minBy id ((0 :: hs.map fun h => h.2.off + 1024 * h.2.kib).filter fun o => decide (o + n ≤ limit) && freeAt hs o n)

/-- Whole acres that the tile store must grow by for `n` more bytes at its top. -/
def Gang.tileNeed (g : Gang) (n : Nat) : Nat := (tileTop g.handles + n + 4095) / 4096 - g.tileAcres

/-- Zero in a range of a store: what a grant leaves (R136). -/
def Store.clear (m : Store) (a n : Nat) : Store :=
  { bytes := m.bytes.filter fun c => !decide (a ≤ c.1 ∧ c.1 < a + n)
    grains := m.grains.filter fun c => !decide (a ≤ 8 * c.1 ∧ 8 * c.1 < a + n)
    poison := m.poison.filter fun k => !decide (a ≤ 8 * k ∧ 8 * k < a + n) }

/-- New tile-store acres join a gang, reading zero. -/
def State.addTileAcres (s : State) (g n : Nat) : State :=
  match s.gangs.get? g with
  | none => s
  | some x =>
    let pool := (List.range n).foldl (fun m i => m.clear (x.tilePa (4096 * (x.tileAcres + i))) 4096) s.pool
    { s with pool }.modG g fun y => { y with tileAcres := y.tileAcres + n }

/-- Each byte of a newly bound region holds zero or what a unit of the gang last wrote there: a free choice per byte (R152,
log entry 2). -/
def State.scramble (s : State) (x : Gang) (off n : Nat) : State :=
  (List.range (n / 8)).foldl (fun s i =>
    let a := x.tilePa (off + 8 * i)
    let v := (s.poolGran a).data
    if v = 0 then s
    else
      let m := Config.freeWord s.free
      let w := (List.range 8).foldl (fun w j => if m.getLsbD j then w else setByte w j 0) v
      { s with pool := s.pool.setGran (a / 8) (Gran.mk' w a), free := s.free + 1 }) s

/-- Binds a handle to the lowest free region that fits. -/
def State.bindHandle (s : State) (g h kib : Nat) : State :=
  match s.gangs.get? g with
  | none => s
  | some x =>
    match lowestFree x.handles (1024 * kib) (4096 * x.tileAcres) with
    | none => s
    | some off =>
      (s.scramble x off (1024 * kib)).modG g fun y => { y with handles := y.handles.set h ⟨off, kib, none, none⟩ }

/-- A handle of a gang. -/
def State.handle (s : State) (g h : Nat) : Option Handle :=
  match s.gangs.get? g with | some x => x.handles.get? h | none => none

/-- The handles among `hs` that a copy owns (07 R164). -/
def State.owned (s : State) (g : Nat) (hs : List Nat) : List Nat :=
  hs.filter fun h => match s.handle g h with | some x => x.owner.isSome | none => false

/-- What a talloc of `n` bytes for a handle comes to: a region is there, a reason of R154, or acres that the tile store needs. -/
inductive TallocStep where
  | bind | limit (reason : Nat) | grows (acres : Nat)
  deriving DecidableEq, Repr

def Gang.tallocStep (g : Gang) (h n : Nat) : TallocStep :=
  let len := 1024 * ((n + 1023) / 1024)
  if (g.handles.get? h).isSome then .limit 5
  else if (lowestFree g.handles len (4096 * g.tileAcres)).isSome then .bind
  else if 760 < g.acres + g.tileNeed len then .limit 2 else .grows (g.tileNeed len)

/-- A talloc of a crew waits behind those of its gang. -/
def State.tallocWait (s : State) (ck h n : Nat) (a : Src) : State :=
  (s.crewBlock ck a .talloc).modG (ck / 32) fun g => { g with tallocs := g.tallocs ++ [(ck % 32, h, n, a)] }

def tallocOp (m : MReg) (a : Src) : CrewOp := fun s ck =>
  match s.crewRead ck [a], s.gangs.get? (ck / 32) with
  | .error f, _ => .error f
  | .ok (vs, s1), some g =>
    let n := (dataAt vs 0).toNat
    let kib := (n + 1023) / 1024
    if !(s.owned (ck / 32) [m.val]).isEmpty then .error fun _ => .block (.tile [m.val])
    else if n = 0 ∨ 262144 < n then .error (allTrap cPOOL_LIMIT (poolXval 4 n))
    else match g.tallocStep m.val n with
      | .bind => if g.tallocs.isEmpty then .ok ((s1.bindHandle (ck / 32) m.val kib).finishCrew ck) else .ok (s.tallocWait ck m.val n a)
      | .limit r => if g.tallocs.isEmpty then .error (allTrap cPOOL_LIMIT (poolXval r n)) else .ok (s.tallocWait ck m.val n a)
      | .grows acres =>
        let s2 := s.tallocWait ck m.val n a
        .ok (if g.tallocs.isEmpty then s2.addReq g.core (.talloc (ck / 32) (ck % 32) m.val kib a) acres 0 else s2)
  | _, _ => .ok s

/-- The first waiting talloc of a gang, once nothing of it stands at the allocator: the tallocs of a gang are performed in issue
order (R155). -/
def State.serveTallocs (s : State) (gk : Nat) : State :=
  match s.gangs.get? gk with
  | none => s
  | some g =>
    match g.tallocs with
    | [] => s
    | (j, h, n, a) :: rest =>
      if g.phase != .resident || (s.core g.core).reqs.any (fun r => match r.kind with
          | .talloc x _ _ _ _ => x == gk
          | _ => false) || !(s.owned gk [h]).isEmpty then s
      else
        let kib := (n + 1023) / 1024
        let done := s.modG gk fun y => { y with tallocs := rest }
        match g.tallocStep h n with
        | .bind => (done.bindHandle gk h kib).finishReq (ckey gk j) a
        | .limit r => (s.liveThreads (ckey gk j)).foldl (fun s t => s.stopT t (.trap cPOOL_LIMIT (poolXval r n) none)) done
        | .grows acres => s.addReq g.core (.talloc gk j h kib a) acres 0

/-- Acres above both the highest bound byte and TILES return (R140), but not below a talloc that waits for acres on top. -/
def State.trimTiles (s : State) (g : Nat) : State :=
  match s.gangs.get? g with
  | none => s
  | some x =>
    let keep := Nat.max ((tileTop x.handles + 4095) / 4096) ((x.kernel.tiles + 4095) / 4096)
    if x.tileAcres ≤ keep || !x.tallocs.isEmpty then s
    else (s.modG g fun y => { y with tileAcres := keep }).freeAcres x.core (x.tileAcres - keep)

/-- Whether a tile instruction in progress of a gang names a handle. -/
def State.tileBusy (s : State) (g h : Nat) : Bool :=
  s.tileOps.any fun o => o.2.gang == g && (o.2.d == h || o.2.a == h || o.2.b == h)

def tfreeOp (m : MReg) : CrewOp := fun s ck =>
  let g := ck / 32
  if !(s.owned g [m.val]).isEmpty then .error fun _ => .block (.tile [m.val])
  else if s.tileBusy g m.val then .error fun _ => .block .fold
  else
    let s := s.modG g fun y => { y with handles := y.handles.erase m.val }
    .ok ((s.trimTiles g).finishCrew ck)

def execTalloc (m : MReg) (a : Src) (s : State) : Result := collective [a] (tallocOp m a) s
def execTfree (m : MReg) (s : State) : Result := collective [] (tfreeOp m) s

end Sys2Proof.Machine
end

