-- ==== Sys2Proof/Machine/TileFmt.lean ====
section
/-! DEFINITION. Tile headers (02 R36 to R41), element formats (R27, R30 to R32), planes (R33 to R35) and where a tile's bytes lie
(R38). -/

namespace Sys2Proof

/-- The format width and the storage width in bits (02 R31, R32). -/
def EFmt.width : EFmt → Nat
  | .f32 | .s32 => 32 | .f16 | .bf16 | .s16 => 16 | .e4m3 | .e5m2 | .s8 | .n8 => 8 | .e3m2 | .e2m3 => 6
  | .e2m1 | .s4 | .n4 => 4 | .s2 => 2 | .b1 => 1
def EFmt.store : EFmt → Nat | .e3m2 | .e2m3 => 8 | f => f.width

def EFmt.isFloat : EFmt → Bool
  | .f32 | .f16 | .bf16 | .e4m3 | .e5m2 | .e3m2 | .e2m3 | .e2m1 => true
  | _ => false
def EFmt.isMx : EFmt → Bool | .e4m3 | .e5m2 | .e3m2 | .e2m3 | .e2m1 => true | _ => false
/-- Whether an integer format is signed. -/
def EFmt.isSigned : EFmt → Bool | .n8 | .n4 | .b1 => false | _ => true

end Sys2Proof

namespace Sys2Proof.Machine

/-! ## Elements -/

/-- Exponent and mantissa bits of a float format. -/
def efFmt : EFmt → Fmt
  | .f32 => fmt32 | .f16 => fmt16 | .bf16 => fmtBf | .e4m3 => ⟨4, 3⟩ | .e5m2 => ⟨5, 2⟩ | .e3m2 => ⟨3, 2⟩
  | .e2m3 => ⟨2, 3⟩ | .e2m1 => ⟨2, 1⟩ | _ => fmt32

/-- A finite value of a format without infinities or NaNs at the all-ones exponent (02 R27). -/
def Fmt.decodeAll (f : Fmt) (v : Nat) : FP :=
  let neg := bitAt v (f.e + f.m)
  let e := fld v f.m f.e
  let m := fld v 0 f.m
  if e = 0 then .fin neg m f.lsb else .fin neg (m + 2 ^ f.m) (f.lsb + (e - 1 : Nat))

/-- The value of a float element (02 R27). -/
def decodeEl (f : EFmt) (v : Nat) : FP :=
  match f with
  | .f32 | .f16 | .bf16 | .e5m2 => (efFmt f).decode v
  | .e4m3 => if v % 128 = 127 then .nan false else (efFmt f).decodeAll v
  | _ => (efFmt f).decodeAll v

/-- The largest finite magnitude of an MX format, and its NaN (02 R27, R29). -/
def mxMax : EFmt → Nat | .e4m3 => 0x7E | .e5m2 => 0x7B | .e3m2 | .e2m3 => 0x1F | _ => 0x07
def mxNan : EFmt → Nat | .e4m3 => 0x7F | .e5m2 => 0x7E | _ => 0

/-- A conversion into a float format: to nearest even; MX formats saturate (02 R30, 12 R289). -/
def encodeEl (f : EFmt) (v : FP) : Nat :=
  let F := efFmt f
  if f.isMx then
    match v with
    | .nan _ => mxNan f
    | .inf s => (if s then F.sign else 0) + mxMax f
    | .fin s m e =>
      let g := if s then F.sign else 0
      if m = 0 then g
      else
        let top := e + (m.log2 : Int)
        let q := if top - F.m < F.lsb then F.lsb else top - F.m
        let n := (roundTo .rne s m e false q).1
        g + Nat.min ((q - F.lsb).toNat * 2 ^ F.m + n) (mxMax f)
  else match v with
    | .nan _ => F.nan
    | .inf s => (F.infR s 0).1
    | .fin s m e => (F.round .rne s m e false).1

/-- The value of an integer element. -/
def intEl (f : EFmt) (v : Nat) : Int := if f.isSigned then sxInt v f.width else (v % 2 ^ f.width : Nat)

/-! ## Headers (02 R37) -/

structure Hdr where
  hchk : Nat
  rsvd : Nat
  soff : Nat
  epoch : Nat
  pitch : Nat
  cols : Nat
  rows : Nat
  role : Nat
  layout : Nat
  sparse : Nat
  scale : Nat
  planes : Nat
  efmt : Nat
  magic : Nat
  deriving DecidableEq, Repr

def Hdr.ofBits (h : BitVec 128) : Hdr :=
  let n := h.toNat
  { hchk := fld n 112 16, rsvd := fld n 96 16, soff := fld n 80 16, epoch := fld n 64 16, pitch := fld n 52 12
    cols := fld n 40 12, rows := fld n 28 12, role := fld n 26 2, layout := fld n 24 2, sparse := fld n 22 2
    scale := fld n 19 3, planes := fld n 14 5, efmt := fld n 8 6, magic := fld n 0 8 }

/-- CRC-16/CCITT (R39). -/
def crc16Bit (c : BitVec 16) : BitVec 16 := if c.msb then (c <<< 1) ^^^ 0x1021 else c <<< 1
def crc16Byte (c : BitVec 16) (b : Byte) : BitVec 16 :=
  (List.range 8).foldl (fun c _ => crc16Bit c) (c ^^^ (b.zeroExtend 16 <<< 8))
def crc16 (l : List Byte) : Nat := (l.foldl crc16Byte 0xFFFF).toNat

/-- The 128 bits of a header with a fresh HCHK (R39). -/
def hdrSeal (low : Nat) : BitVec 128 :=
  let l := low % 2 ^ 112
  BitVec.ofNat 128 (l + crc16 (leBytes 14 l) * 2 ^ 112)
def Hdr.bits (h : Hdr) : BitVec 128 :=
  hdrSeal (h.magic + h.efmt * 2 ^ 8 + h.planes * 2 ^ 14 + h.scale * 2 ^ 19 + h.sparse * 2 ^ 22 + h.layout * 2 ^ 24 +
    h.role * 2 ^ 26 + h.rows * 2 ^ 28 + h.cols * 2 ^ 40 + h.pitch * 2 ^ 52 + h.epoch * 2 ^ 64 + h.soff * 2 ^ 80)

/-! ## Geometry (R33, R38) -/

def Hdr.isB (h : Hdr) : Bool := h.role == 2
/-- The number of K-vectors and the K extent. -/
def Hdr.vecs (h : Hdr) : Nat := (if h.isB then h.cols else h.rows) + 1
def Hdr.kLen (h : Hdr) : Nat := (if h.isB then h.rows else h.cols) + 1
/-- K positions that are stored. -/
def Hdr.kStored (h : Hdr) : Nat := if h.sparse = 1 then h.kLen / 2 else h.kLen
def Hdr.nb (h : Hdr) : Nat := (h.kStored + 31) / 32
/-- The format; a damaged code counts as f32 and fails R40. -/
def Hdr.fmt (h : Hdr) : EFmt := (EFmt.ofNat? h.efmt).getD .f32

/-- Whether the K axis runs along a stored row. -/
def Hdr.kAlong (h : Hdr) : Bool := (h.layout == 1) == h.isB
/-- The number of stored rows (columns, or K-vectors), and the elements of one. -/
def Hdr.nRows (h : Hdr) : Nat :=
  if h.layout = 2 then h.vecs
  else if h.kAlong then h.vecs else h.kStored
def Hdr.rowLen (h : Hdr) : Nat := if h.kAlong then h.kStored else h.vecs
/-- The stored bytes of one row. -/
def Hdr.rowBytes (h : Hdr) : Nat :=
  if h.layout = 2 then 4 * h.nb * h.planes else (h.rowLen * h.fmt.store + 7) / 8
/-- The end of the element data, and of the metadata or bitmap behind it. -/
def Hdr.dataEnd (h : Hdr) : Nat := 32 + h.nRows * h.pitch * 32
def Hdr.metaEnd (h : Hdr) : Nat :=
  h.dataEnd + (if h.sparse = 1 then (h.vecs * (h.kLen / 4) + 1) / 2
    else if h.sparse = 2 then (h.vecs * h.nb + 7) / 8 else 0)
def Hdr.scaleBytes (h : Hdr) : Nat :=
  match h.scale with
  | 1 | 2 => h.vecs * h.nb
  | 3 => 4 * (h.rows + 1)
  | 4 => 4 * (h.cols + 1)
  | 5 => 4
  | _ => 0
/-- The bytes of the whole tile. -/
def Hdr.size (h : Hdr) : Nat := Nat.max h.metaEnd (h.soff * 32 + h.scaleBytes)

/-- PLANES against R33. -/
def planesOk (f : EFmt) (p : Nat) : Bool :=
  if f.isFloat then decide (2 ≤ p ∧ p ≤ 16)
  else match f with | .s32 => false | _ => p == f.width

/-- Well-formed (R40). -/
def hdrOk (b : BitVec 128) : Bool :=
  let h := Hdr.ofBits b
  h.magic == 0xA7 && decide (hdrSeal b.toNat = b) && h.rsvd == 0 &&
  (EFmt.ofNat? h.efmt).isSome && h.layout != 3 && h.sparse != 3 && decide (h.scale ≤ 5) && decide (h.planes ≤ 16) &&
  ((h.layout == 2) == (h.planes != 0)) && (h.planes == 0 || planesOk h.fmt h.planes) &&
  ((h.scale == 2) == (h.layout == 2 && h.fmt.isFloat)) &&
  (h.scale != 1 || (h.fmt.isMx && h.layout != 2)) &&
  ((h.soff == 0) == (h.scale == 0)) && (h.soff == 0 || decide (h.metaEnd ≤ h.soff * 32)) &&
  (!(h.layout == 2 || h.sparse != 0) || h.kLen % 32 == 0) &&
  decide (h.rowBytes ≤ h.pitch * 32)

/-- The bit of a tile where an element begins: element layouts, by stored row and place (R38). -/
def Hdr.elBit (h : Hdr) (row col : Nat) : Nat := 8 * (32 + row * h.pitch * 32) + col * h.fmt.store
/-- The byte of plane word `j` of block `b` of K-vector `v`. -/
def Hdr.planeAt (h : Hdr) (v b j : Nat) : Nat := 32 + v * h.pitch * 32 + (b * h.planes + j) * 4
/-- The byte of a block's scale. -/
def Hdr.scaleAt (h : Hdr) (v b : Nat) : Nat := h.soff * 32 + v * h.nb + b

/-! ## Tile store access -/

/-- The header bits of a handle's tile. -/
def State.hdrBits (s : State) (x : Gang) (h : Handle) : BitVec 128 :=
  BitVec.ofNat 128 ((s.poolGran (x.tilePa h.off)).data.toNat + (s.poolGran (x.tilePa (h.off + 8))).data.toNat * 2 ^ 64)

/-- A byte of a tile. -/
def State.tileByte (s : State) (x : Gang) (h : Handle) (o : Nat) : Byte :=
  s.pool.byte (x.tilePa (h.off + o / 8 * 8) + o % 8)

/-- `n` bits of a tile from a bit on. -/
def State.tileBits (s : State) (x : Gang) (h : Handle) (bit n : Nat) : Nat :=
  fld (leNat ((List.range ((bit % 8 + n + 7) / 8)).map fun i => s.tileByte x h (bit / 8 + i))) (bit % 8) n

/-- Writes bytes of a tile, granule by granule, with fresh grains (02 R46). -/
def State.tileWriteList (s : State) (x : Gang) (h : Handle) (l : List (Nat × Byte)) : State :=
  l.foldl (fun s e =>
    let a := x.tilePa (h.off + e.1 / 8 * 8)
    { s with pool := s.pool.setGran (a / 8) (Gran.mk' (setByte (s.poolGran a).data (e.1 % 8) e.2) a) }) s
def State.tileWrite (s : State) (x : Gang) (h : Handle) (o : Nat) (l : List Byte) : State :=
  s.tileWriteList x h (l.zipIdx.map fun b => (o + b.2, b.1))

/-- Writes `n` bits of a tile. -/
def State.tileSetBits (s : State) (x : Gang) (h : Handle) (bit n v : Nat) : State :=
  let k := (bit % 8 + n + 7) / 8
  let old := leNat ((List.range k).map fun i => s.tileByte x h (bit / 8 + i))
  let w := old - fld old (bit % 8) n * 2 ^ (bit % 8) + v % 2 ^ n * 2 ^ (bit % 8)
  s.tileWrite x h (bit / 8) (leBytes k w)

/-- Writes a header with bytes 16 to 31 zero (R36). -/
def State.putHdr (s : State) (x : Gang) (h : Handle) (b : BitVec 128) : State :=
  s.tileWrite x h 0 (leBytes 16 b.toNat ++ List.replicate 16 0)

/-- The first granule of a list of byte ranges that fails its check: its offset and cause (12 R273). -/
def State.tileBad (s : State) (x : Gang) (h : Handle) (ranges : List (Nat × Nat)) : Option (Nat × Byte) :=
  (ranges.flatMap fun r => (List.range ((r.1 % 8 + r.2 + 7) / 8)).map fun i => r.1 / 8 * 8 + 8 * i).findSome? fun o =>
    ((s.poolGran (x.tilePa (h.off + o))).check (x.tilePa (h.off + o))).map fun c => (o, c)

/-- The byte ranges of a tile that a unit reads: header, rows, metadata or bitmap, scales. Blocks that a bitmap marks zero and columns
that the instruction does not use are among them. DESIGN CHOICE (log entry 103). -/
def Hdr.ranges (h : Hdr) : List (Nat × Nat) :=
  (0, 16) :: ((List.range h.nRows).map fun i => (32 + i * h.pitch * 32, h.rowBytes)) ++
    [(h.dataEnd, h.metaEnd - h.dataEnd), (h.soff * 32, h.scaleBytes)]

/-! ## Values of a tile -/

/-- Bit `n` of a metadata nibble sequence: the kept positions of group `g` of K-vector `v` (R38). -/
def State.kept (s : State) (x : Gang) (hd : Handle) (h : Hdr) (v g : Nat) : Nat × Nat :=
  let n := s.tileBits x hd (8 * h.dataEnd + 4 * (v * (h.kLen / 4) + g)) 4
  (n % 4, n / 4)

/-- The stored position of K position `k` of a K-vector; none where it is not kept. Of metadata that names one position twice the
first element counts. DESIGN CHOICE (log entry 104). -/
def State.storedPos (s : State) (x : Gang) (hd : Handle) (h : Hdr) (v k : Nat) : Option Nat :=
  if h.sparse = 1 then
    let p := s.kept x hd h v (k / 4)
    if p.1 = k % 4 then some (k / 4 * 2) else if p.2 = k % 4 then some (k / 4 * 2 + 1) else none
  else some k

/-- Whether a block is marked zero in the bitmap. -/
def State.zeroBlock (s : State) (x : Gang) (hd : Handle) (h : Hdr) (v b : Nat) : Bool :=
  h.sparse == 2 && s.tileBits x hd (8 * h.dataEnd + v * h.nb + b) 1 == 0

/-- The raw bits of the stored element `p` of K-vector `v`: element layouts. -/
def State.elRaw (s : State) (x : Gang) (hd : Handle) (h : Hdr) (v p : Nat) : Nat :=
  let (r, c) := if h.kAlong then (v, p) else (p, v)
  s.tileBits x hd (h.elBit r c) h.fmt.width

/-- The plane value of stored element `p` of K-vector `v` (R33). -/
def State.planeVal (s : State) (x : Gang) (hd : Handle) (h : Hdr) (v p : Nat) : Int :=
  let u := (List.range h.planes).foldl (fun n j =>
    n + (s.tileBits x hd (8 * h.planeAt v (p / 32) j + p % 32) 1) * 2 ^ j) 0
  if h.fmt.isFloat || h.fmt.isSigned then sxInt u h.planes else u

/-- The derived exponent code of a block. -/
def State.dCode (s : State) (x : Gang) (hd : Handle) (h : Hdr) (v b : Nat) : Nat := s.tileBits x hd (8 * h.scaleAt v b) 8

/-- The value of a plane element of the float class (R35). -/
def State.planeFP (s : State) (x : Gang) (hd : Handle) (h : Hdr) (v p : Nat) : FP :=
  let d := s.dCode x hd h v (p / 32)
  if d = 0xFF then .nan false
  else
    let u := s.planeVal x hd h v p
    .fin (decide (u < 0)) u.natAbs (d - 127 - h.planes + 2 : Int)

/-- A value written as f32: the one code beyond its range becomes the largest negative value (R35). -/
def planeF32 (v : FP) : Nat :=
  match v with
  | .nan _ => fmt32.nan
  | .inf s => (fmt32.infR s 0).1
  | .fin s m e => (fmt32.round .rz s m e false).1

/-! ## Plane conversion (R34) -/

/-- x · 2^s as a decoded value. -/
def FP.scale (v : FP) (k : Int) : FP := match v with | .fin s m e => .fin s m (e + k) | w => w

/-- floor(log2 |v|) of a nonzero finite value. -/
def FP.exp? : FP → Option Int
  | .fin _ m e => if m = 0 then none else some (e + m.log2)
  | _ => none

/-- One block: the derived exponent code and the plane values. -/
def planeBlock (xs : List FP) (p : Nat) (sc : Option Nat) : Nat × List Int :=
  if sc = some 0xFF ∨ xs.any (fun v => v.isNan || v.isInf) then (0xFF, xs.map fun _ => 0)
  else
    let k : Int := match sc with | some c => (c : Int) - 127 | none => 0
    let e := (xs.filterMap FP.exp?).foldl (fun (a : Option Int) b => match a with
      | none => some b
      | some a => some (if a ≤ b then b else a)) none
    let emax : Int := Min.min (Max.max ((e.getD (-126)) + k) (-126)) 127
    let q : Int := emax - p + 2
    let us := xs.map fun v => match v with
      | .fin s m ex =>
        let n : Int := (roundTo .rne s m (ex + k) false q).1
        Min.min (Max.max (if s then -n else n) (-2 ^ (p - 1))) (2 ^ (p - 1) - 1)
      | _ => 0
    ((emax + 127).toNat, us)

/-- The plane words of 32 plane values. -/
def planeWords (us : List Int) (p : Nat) : List Nat :=
  (List.range p).map fun j => us.zipIdx.foldl (fun n u => n + (if bitAt ((u.1 % 2 ^ 32).toNat) j then 2 ^ u.2 else 0)) 0

/-- The header of a tile made by a copy or by mcvt (07 R165, 12 R289). -/
def mkHdr (rows cols : Nat) (f : EFmt) (role epoch planes : Nat) (e8 : Bool) : Hdr :=
  let n := (if role = 2 then cols else rows) + 1
  let nb := ((if role = 2 then rows else cols) + 1) / 32
  let pitch := if planes = 0 then ((cols + 1) * f.store + 255) / 256 else (nb * planes + 7) / 8
  { hchk := 0, rsvd := 0, soff := if planes = 0 then (if e8 then 1 + (rows + 1) * pitch else 0)
      else (if f.isFloat then 1 + n * pitch else 0)
    epoch, pitch, cols, rows, role, layout := if planes = 0 then 0 else 2, sparse := 0
    scale := if planes = 0 then (if e8 then 1 else 0) else (if f.isFloat then 2 else 0), planes, efmt := f.code
    magic := 0xA7 }

end Sys2Proof.Machine
end

