-- ==== Sys2Proof/Machine/Tile.lean ====
section
/-! DEFINITION. Tile instructions of the Bushel and the tile vector unit (12 R273 to R295). mma, mcvt and the vector forms are
checked at issue and write their tile when they complete (TILE_INSTRUCTION_COMPLETE). -/

namespace Sys2Proof.Machine

/-! ## Checks at issue -/

/-- One operand: its handle number, handle and header. -/
structure TOpd where
  n : Nat
  h : Handle
  b : BitVec 128
  deriving DecidableEq, Repr

def TOpd.hdr (o : TOpd) : Hdr := Hdr.ofBits o.b

/-- xval of a failed granule check: handle and byte offset (R273). -/
def tileXval (n o : Nat) : Word := BitVec.ofNat 64 (n % 256 + o * 256)

/-- Whether an instruction of a gang that reads `rd` and writes `wr` must wait for one in progress (R274). -/
def State.tileWait (s : State) (g : Nat) (rd wr : List Nat) : Bool :=
  s.tileOps.any fun o => o.2.gang == g &&
    ((rd ++ wr).contains o.2.d || wr.contains o.2.a || wr.contains o.2.b)

/-- The operands of a tile instruction after OWNER, the ownership stall and the order of R274. -/
def State.tileOpds (s : State) (g : Nat) (rd wr : List Nat) : Except (Nat → Stop) (List TOpd) :=
  match s.gangs.get? g with
  | none => .error fun _ => .block .none
  | some x =>
    let hs := rd ++ wr
    match hs.find? fun h => (x.handles.get? h).isNone with
    | some h => .error (allTrap cOWNER (BitVec.ofNat 64 h))
    | none =>
      if !(s.owned g hs).isEmpty then .error fun _ => .block (.tile (s.owned g hs))
      else if s.tileWait g rd wr then .error fun _ => .block .fold
      else .ok (hs.filterMap fun n => (x.handles.get? n).map fun h => ⟨n, h, s.hdrBits x h⟩)

/-- The first failing condition of a list, in order: the handle it is charged to and its cause. -/
def firstFail : List (Bool × Nat × Byte) → Option (Nat × Byte)
  | [] => none
  | (ok, h, c) :: r => if ok then firstFail r else some (h, c)

/-- A list of conditions as a stop of every live member (R41). -/
def tileChecks (l : List (Bool × Nat × Byte)) : Except (Nat → Stop) Unit :=
  match firstFail l with
  | some (h, c) => .error (allTrap c (BitVec.ofNat 64 h))
  | none => .ok ()

/-- The first failing granule of operands in order (R273). -/
def State.tileGrains (s : State) (x : Gang) : List (TOpd × List (Nat × Nat)) → Except (Nat → Stop) Unit
  | [] => .ok ()
  | (o, r) :: l =>
    match s.tileBad x o.h r with
    | some (k, c) => .error fun _ => .trap c (tileXval o.n k) (some (x.tilePa (o.h.off + k)))
    | none => s.tileGrains x l

/-- A tile instruction enters its unit and completes for the crew. -/
def State.startTile (s : State) (ck : Nat) (k : TileOpKind) (d a b : TOpd) : State :=
  ({ s with nextId := s.nextId + 1
            tileOps := s.tileOps.set s.nextId ⟨ck / 32, ck % 32, k, d.n, a.n, b.n, d.b, a.b, b.b⟩ }).finishCrew ck

def opdAt (l : List TOpd) (i : Nat) : TOpd := l.getD i ⟨0, ⟨0, 0, none, none⟩, 0⟩

/-! ## Element access of f32 and s32 tiles -/

/-- A 32-bit element of an element row-major tile. -/
def State.el32 (s : State) (x : Gang) (o : Handle) (h : Hdr) (i j : Nat) : Nat := s.tileBits x o (h.elBit i j) 32

/-! ## mma (R283 to R286) -/

/-- The KEY of a plan (R278). -/
def mmaKey (a b : Hdr) (acc : Nat) (sat : Bool) : Nat :=
  a.efmt + b.efmt * 2 ^ 6 + a.planes * 2 ^ 12 + b.planes * 2 ^ 17 + a.sparse * 2 ^ 22 + b.sparse * 2 ^ 24 +
    a.scale * 2 ^ 26 + b.scale * 2 ^ 29 + acc * 2 ^ 32 + (if sat then 2 ^ 38 else 0)

/-- The accumulator format for an input class (R43). -/
def accCode (isFloat : Bool) : Nat := if isFloat then 0x01 else 0x10

def mmaChecks (x : Gang) (sat : Bool) (d a b : TOpd) : List (Bool × Nat × Byte) :=
  let hd := d.hdr
  let ha := a.hdr
  let hb := b.hdr
  let fl := ha.fmt.isFloat
  [b, a, d].map (fun o => (hdrOk o.b, o.n, cHDR_INTEGRITY)) ++
  [ (hb.layout == 2 && (hb.role == 2 || hb.role == 0) && ha.cols == hb.rows && hd.cols == hb.cols && d.n != b.n,
      b.n, cHDR_MISMATCH),
    (ha.layout == 2 && (ha.role == 1 || ha.role == 0) && hd.rows == ha.rows && hd.efmt == accCode fl && d.n != a.n,
      a.n, cHDR_MISMATCH),
    (hd.layout == 0 && (hd.role == 3 || hd.role == 0) && hd.pitch == ((hd.cols + 1) * 4 + 31) / 32, d.n, cHDR_MISMATCH),
    (fl == hb.fmt.isFloat && !(fl && decide (ha.planes * hb.planes < 16)) && decide (hb.scale < 3) && hb.sparse != 1
      && decide (hb.cols + 1 ≤ x.gcols), b.n, cUNSUPPORTED),
    (decide (ha.scale < 3) && !(ha.sparse == 1 && (ha.cols + 1) % 64 != 0) && !(sat && fl)
      && decide (ha.rows + 1 ≤ x.grows), a.n, cUNSUPPORTED) ]

/-- The KEY of a plan entry, bits [63:0] of its 32 bytes (R278). -/
def planKey (e : List Byte) : Nat := leNat (e.take 8)

/-- B's K-vectors are its columns whatever its ROLE. -/
def Hdr.asB (h : Hdr) : Hdr := { h with role := 2 }
def Hdr.asA (h : Hdr) : Hdr := { h with role := 1 }

/-- An accumulator read densely and without scales, whatever its header says of them. -/
def Hdr.plain (h : Hdr) : Hdr := { h with sparse := 0, scale := 0 }

/-- mma and mma.sat for a crew. The header rounds and the look-up of the plan work on the header as it stands; then every granule
that the unit reads is checked (log entry 85). -/
def mmaOp (sat : Bool) (e : Epoch) (d a b : MReg) : CrewOp := fun s ck =>
  let g := ck / 32
  match s.tileOpds g [b.val, a.val] [d.val], s.gangs.get? g with
  | .error f, _ => .error f
  | .ok l, some x =>
    let ob := opdAt l 0
    let oa := opdAt l 1
    let od := opdAt l 2
    match tileChecks (mmaChecks x sat od oa ob) with
    | .error f => .error f
    | .ok _ =>
      let key := mmaKey oa.hdr ob.hdr (accCode oa.hdr.fmt.isFloat) sat
      if !(x.plan.any fun p => planKey p == key) then .error (allTrap cNO_PLAN (BitVec.ofNat 64 key))
      else match s.tileGrains x [(ob, ob.hdr.asB.ranges), (oa, oa.hdr.asA.ranges), (od, od.hdr.plain.ranges)] with
        | .error f => .error f
        | .ok _ => .ok (s.startTile ck (.mma sat e.val) od oa ob)
  | _, _ => .ok s

/-- The values of A's stored positions that lie in logical block `b` of row `i`, with their logical positions. -/
def State.blockVals (s : State) (x : Gang) (o : Handle) (h : Hdr) (v b : Nat) : List (Nat × Int) :=
  ((List.range 32).map (32 * b + ·)).filterMap fun k =>
    (s.storedPos x o h v k).map fun p => (k, s.planeVal x o h v p)

/-- blk(i, j, b) of R285: the sum over plane pairs is the sum of products of plane values. -/
def State.blk (s : State) (x : Gang) (oa ob : Handle) (ha hb : Hdr) (i j b : Nat) : Int :=
  (s.blockVals x oa ha i b).foldl (fun n p => n + p.2 * s.planeVal x ob hb j p.1) 0

/-- The stored block of A for logical block `b`. -/
def aBlock (ha : Hdr) (b : Nat) : Nat := if ha.sparse = 1 then b / 2 else b

/-- The f64 value of a block (R285): +0, NaN, or exact. -/
def State.blkF64 (s : State) (x : Gang) (oa ob : Handle) (ha hb : Hdr) (i j b : Nat) : Nat :=
  if s.zeroBlock x oa ha i (aBlock ha b) || s.zeroBlock x ob hb j b then 0
  else
    let da := s.dCode x oa ha i (aBlock ha b)
    let db := s.dCode x ob hb j b
    if da = 0xFF ∨ db = 0xFF then fmt64.nan
    else (fmt64.roundInt .rne (s.blk x oa ob ha hb i j b)
      ((da : Int) - 127 - ha.planes + 2 + ((db : Int) - 127 - hb.planes + 2)) false).1

/-- One element of the result over the chunks in ascending K. -/
def State.mmaElem (s : State) (x : Gang) (oa ob : Handle) (ha hb : Hdr) (sat : Bool) (i j c0 : Nat) : Nat :=
  let kc := if ha.sparse = 1 then 1024 else 512
  let kl := ha.kLen
  let nb := (kl + 31) / 32
  (List.range ((kl + kc - 1) / kc)).foldl (fun c ch =>
    let bs := ((List.range (kc / 32)).map (ch * (kc / 32) + ·)).filter (· < nb)
    if ha.fmt.isFloat then
      let sum := bs.foldl (fun (t : Option Nat) b =>
        let v := s.blkF64 x oa ob ha hb i j b
        match t with
        | none => some v
        | some t => some (fmt64.addP .rne (fmt64.decode t) (fmt64.decode v)).1) none
      (fmt32.addP .rne (fmt32.decode c) (fmt64.decode (sum.getD 0))).1
    else
      let n := bs.foldl (fun n b =>
        if s.zeroBlock x oa ha i (aBlock ha b) || s.zeroBlock x ob hb j b then n
        else n + s.blk x oa ob ha hb i j b) (0 : Int)
      let t := sxInt c 32 + n
      let t := if sat then Min.min (Max.max t (-2 ^ 31)) (2 ^ 31 - 1) else t
      ((t % 2 ^ 32).toNat)) c0

/-- The header of an mma result (02 R43). -/
def mmaHdr (a b : Hdr) (epoch : Nat) : Hdr :=
  { mkHdr a.rows b.cols (if a.fmt.isFloat then .f32 else .s32) 3 epoch 0 false with pitch := ((b.cols + 1) * 4 + 31) / 32 }

/-- All positions of a tile of `m` rows and `n` columns. -/
def cells (m n : Nat) : List (Nat × Nat) := (List.range m).flatMap fun i => (List.range n).map fun j => (i, j)

/-- Writes 32-bit elements of an element row-major tile. -/
def State.putEls (s : State) (x : Gang) (o : Handle) (h : Hdr) (l : List ((Nat × Nat) × Nat)) : State :=
  l.foldl (fun s e => s.tileSetBits x o (h.elBit e.1.1 e.1.2) 32 e.2) s

/-- The completion of mma. An md whose SPARSE or SCALE is not zero, of which 12 R284 lists no check, is read as a dense tile without
scales. DESIGN CHOICE (log entry 106). -/
def State.mmaDone (s : State) (x : Gang) (od oa ob : Handle) (hd ha hb : Hdr) (sat : Bool) (epoch : Nat) : State :=
  let a := ha.asA
  let b := hb.asB
  let els := (cells (hd.rows + 1) (hd.cols + 1)).map fun p =>
    (p, s.mmaElem x oa ob a b sat p.1 p.2 (s.el32 x od hd p.1 p.2))
  (s.putEls x od hd els).putHdr x od (mmaHdr ha hb epoch).bits

def execMma (e : Epoch) (d a b : MReg) (s : State) : Result := collective [] (mmaOp false e d a b) s
def execMmaSat (e : Epoch) (d a b : MReg) (s : State) : Result := collective [] (mmaOp true e d a b) s

/-! ## The tile vector unit (R287, R288) -/

/-- What a tile of the vector unit is (R284). -/
def f32Tile (h : Hdr) : Bool :=
  h.efmt == 0x01 && h.layout == 0 && h.sparse == 0 && h.scale == 0 && (h.role == 0 || h.role == 3)

/-- A vector form for a crew: `rel` gives the shape conditions, those against mb first. The operands are mb (if any), ma (if
any), md. -/
def vecOp (k : TileOpKind) (b a : Option MReg) (d : MReg) (rb ra : Hdr → Hdr → Bool) (rd : Hdr → Bool) : CrewOp :=
  fun s ck =>
    let g := ck / 32
    let names := (b.toList ++ a.toList).map (·.val)
    match s.tileOpds g names [d.val], s.gangs.get? g with
    | .error f, _ => .error f
    | .ok l, some x =>
      let od := opdAt l (l.length - 1)
      let ins := l.take (l.length - 1)
      let checks := l.map (fun o => (hdrOk o.b, o.n, cHDR_INTEGRITY)) ++
        ins.zipIdx.map (fun o =>
          (f32Tile o.1.hdr && (if b.isSome && o.2 == 0 then rb od.hdr o.1.hdr else ra od.hdr o.1.hdr), o.1.n,
            cHDR_MISMATCH)) ++
        [(f32Tile od.hdr && rd od.hdr, od.n, cHDR_MISMATCH)]
      match tileChecks checks with
      | .error f => .error f
      | .ok _ =>
        match s.tileGrains x (l.map fun o => (o, o.hdr.ranges)) with
        | .error f => .error f
        | .ok _ =>
          let ob := if b.isSome then opdAt ins 0 else od
          let oa := if a.isSome then opdAt ins (ins.length - 1) else od
          .ok (s.startTile ck k od oa ob)
    | _, _ => .ok s

def noRel : Hdr → Hdr → Bool := fun _ _ => true
def sameRows (d o : Hdr) : Bool := d.rows == o.rows

def execMrmax (d a : MReg) (s : State) : Result :=
  collective [] (vecOp .mrmax none (some a) d noRel sameRows fun h => h.cols == 1) s
def execMrsum (d a : MReg) (s : State) : Result :=
  collective [] (vecOp .mrsum none (some a) d noRel sameRows fun _ => true) s
def execMexp2 (d a : MReg) (s : State) : Result :=
  collective [] (vecOp .mexp2 none (some a) d noRel sameRows fun _ => true) s
def execMrscale (d a b : MReg) (s : State) : Result :=
  collective [] (vecOp .mrscale (some b) (some a) d sameRows
    (fun d o => d.rows == o.rows && d.cols == o.cols) fun _ => true) s
/-- mmask reads its k register at issue. -/
def execMmask (d : MReg) (k : KReg16) (s : State) : Result :=
  collective [] (fun s ck =>
    if s.kPending ck (k16 k).val then .error fun _ => .block .regs
    else vecOp (.mmask (s.kreg ck (k16 k))) none none d noRel noRel (fun _ => true) (s.observeK ck (k16 k)) ck) s

/-- fexp2.f32 of a difference. -/
def exp2Diff (a b : Nat) : Nat := (exp2Pt .f32 (fmt32.addP .rne (fmt32.decode a) (fmt32.decode (negBits fmt32 b))).1).1

/-- The tree sum of a row, padded with -0.0 (R288). -/
def treeSum : Nat → List Nat → Nat
  | 0, l => l.headD fmt32.sign
  | n + 1, l => if l.length ≤ 1 then l.headD fmt32.sign
    else treeSum n (pairUp (fun a b => (fmt32.addP .rne (fmt32.decode a) (fmt32.decode b)).1)
      (if l.length % 2 = 1 then l ++ [fmt32.sign] else l))

def padPow2 (n : Nat) : Nat := if n ≤ 1 then 1 else 2 ^ ((n - 1).log2 + 1)

def f32NegInf : Nat := fmt32.sign + fmt32.inf

/-- The elements that a vector form writes. -/
def State.vecEls (s : State) (x : Gang) (k : TileOpKind) (od oa ob : Handle) (hd ha hb : Hdr) :
    List ((Nat × Nat) × Nat) :=
  let rows := List.range (hd.rows + 1)
  let row (o : Handle) (h : Hdr) (i : Nat) : List Nat := (List.range (h.cols + 1)).map fun j => s.el32 x o h i j
  match k with
  | .mrmax => rows.flatMap fun i =>
      let t := (row oa ha i).foldl (fun m v => (fmt32.minmax true m v).1) f32NegInf
      let old := s.el32 x od hd i 0
      let new := (fmt32.minmax true old t).1
      [((i, 0), new), ((i, 1), if new = f32NegInf then oneBits fmt32 else exp2Diff old new)]
  | .mrsum => rows.map fun i =>
      let r := row oa ha i
      let t := treeSum 13 (r ++ List.replicate (padPow2 r.length - r.length) fmt32.sign)
      ((i, hd.cols), (fmt32.addP .rne (fmt32.decode (s.el32 x od hd i hd.cols)) (fmt32.decode t)).1)
  | .mexp2 => (cells (hd.rows + 1) (hd.cols + 1)).map fun p =>
      let m := s.el32 x oa ha p.1 0
      (p, if m = f32NegInf then 0 else exp2Diff (s.el32 x od hd p.1 p.2) m)
  | .mrscale => (cells (hd.rows + 1) (hd.cols + 1)).map fun p =>
      (p, (fmt32.mulP .rne (fmt32.decode (s.el32 x oa ha p.1 p.2)) (fmt32.decode (s.el32 x ob hb p.1 hb.cols))).1)
  | .mmask w =>
    let o := sxInt w.toNat 32
    let v := fld w.toNat 32 16
    let rr := fld w.toNat 48 16
    (cells (hd.rows + 1) (hd.cols + 1)).map fun p =>
      (p, if (p.1 : Int) + o < p.2 ∨ v ≤ p.2 ∨ rr ≤ p.1 then f32NegInf else s.el32 x od hd p.1 p.2)
  | _ => []

/-! ## mcvt (R289) -/

/-- The conditions on a source charged to ma (R284). An integer element source to planes of another integer format, which the spec
neither lists nor gives a result, is an unsupported combination. DESIGN CHOICE (log entry 105). -/
def mcvtOk (h : Hdr) (f : EFmt) (p : Nat) : Bool :=
  let src := h.fmt
  let k := if h.isB then h.rows + 1 else h.cols + 1
  h.sparse == 0 && decide (h.scale < 3) && src.isFloat == f.isFloat && !(h.layout == 2 && p != 0)
    && (p == 0 || planesOk f p)
    && !(h.layout == 2 && src.isFloat && !(f == .f32 && p == 0))
    && !(h.layout == 2 && !src.isFloat && (f.isFloat || p != 0))
    && !(p != 0 && !src.isFloat && f != src)
    && (p == 0 || k % 32 == 0)

def mcvtHdr (h : Hdr) (f : EFmt) (p : Nat) : Hdr := mkHdr h.rows h.cols f h.role h.epoch p false

def mcvtOp (f : EFmt) (p : Nat) (d a : MReg) : CrewOp := fun s ck =>
  let g := ck / 32
  match s.tileOpds g [a.val] [d.val], s.gangs.get? g with
  | .error f, _ => .error f
  | .ok l, some x =>
    let oa := opdAt l 0
    let od := opdAt l 1
    let checks := [(hdrOk oa.b, oa.n, cHDR_INTEGRITY),
      (decide ((mcvtHdr oa.hdr f p).size ≤ 1024 * od.h.kib), od.n, cHDR_MISMATCH),
      (mcvtOk oa.hdr f p, oa.n, cUNSUPPORTED)]
    match tileChecks checks with
    | .error f => .error f
    | .ok _ =>
      match s.tileGrains x [(oa, oa.hdr.ranges)] with
      | .error f => .error f
      | .ok _ => .ok (s.startTile ck (.mcvt f p) od oa od)
  | _, _ => .ok s

def execMcvt (f : EFmt) (p : Planes) (d a : MReg) (s : State) : Result :=
  collective [] (mcvtOp f p.val d a) s

/-- The E8M0 code of a source element's block, if the source has scales. -/
def State.e8Of (s : State) (x : Gang) (o : Handle) (h : Hdr) (v p : Nat) : Option Nat :=
  if h.scale = 1 then some (s.tileBits x o (8 * h.scaleAt v (p / 32)) 8) else none

/-- A source element of the float class with its scale applied; a NaN block gives NaN. -/
def State.scaledEl (s : State) (x : Gang) (o : Handle) (h : Hdr) (v p : Nat) : FP :=
  let w := decodeEl h.fmt (s.elRaw x o h v p)
  match s.e8Of x o h v p with
  | none => w
  | some 0xFF => .nan false
  | some c => FP.scale w ((c : Int) - 127)

/-- The completion of mcvt: all bytes from 32 on are formed from the source before they are written. -/
def State.mcvtBytes (s : State) (x : Gang) (oa : Handle) (h : Hdr) (f : EFmt) (p : Nat) : List (Nat × Nat × Nat) :=
  let t := mcvtHdr h f p
  let els := cells h.vecs h.kLen
  if p = 0 then
    -- element layout: (bit, width, value)
    els.map fun e =>
      let (i, j) := if h.isB then (e.2, e.1) else (e.1, e.2)
      let v : Nat :=
        if h.layout = 2 then
          if h.fmt.isFloat then planeF32 (s.planeFP x oa h e.1 e.2)
          else ((s.planeVal x oa h e.1 e.2) % 2 ^ f.width).toNat
        else if f.isFloat then encodeEl f (s.scaledEl x oa h e.1 e.2)
        else ((intEl h.fmt (s.elRaw x oa h e.1 e.2)) % 2 ^ f.width).toNat
      (t.elBit i j, f.store, v)
  else
    (cells h.vecs t.nb).flatMap fun e =>
      let ps := (List.range 32).map (32 * e.2 + ·)
      if f.isFloat then
        let r := planeBlock (ps.map fun k => decodeEl h.fmt (s.elRaw x oa h e.1 k)) p (s.e8Of x oa h e.1 (32 * e.2))
        (8 * t.scaleAt e.1 e.2, 8, r.1) ::
          (planeWords r.2 p).zipIdx.map fun w => (8 * t.planeAt e.1 e.2 w.2, 32, w.1)
      else
        (planeWords (ps.map fun k => intEl h.fmt (s.elRaw x oa h e.1 k)) p).zipIdx.map fun w =>
          (8 * t.planeAt e.1 e.2 w.2, 32, w.1)

def State.mcvtDone (s : State) (x : Gang) (od oa : Handle) (h : Hdr) (f : EFmt) (p : Nat) : State :=
  let t := mcvtHdr h f p
  let l := s.mcvtBytes x oa h f p
  let z := s.tileWrite x od 32 (List.replicate (t.size - 32) 0)
  (l.foldl (fun s e => s.tileSetBits x od e.1 e.2.1 e.2.2) z).putHdr x od t.bits

/-! ## Completion -/

/-- A tile instruction completes: its tile is written (R273, R286 to R289). -/
def State.tileDone (s : State) (o : TileOp) : State :=
  match s.gangs.get? o.gang with
  | none => s
  | some x =>
    match x.handles.get? o.d, x.handles.get? o.a, x.handles.get? o.b with
    | some d, some a, some b =>
      let hd := Hdr.ofBits o.hd
      let ha := Hdr.ofBits o.ha
      let hb := Hdr.ofBits o.hb
      match o.kind with
      | .mma sat e => s.mmaDone x d a b hd ha hb sat e
      | .mcvt f p => s.mcvtDone x d a ha f p
      | k => (s.putEls x d hd (s.vecEls x k d a b hd ha hb)).putHdr x d hd.bits
    | _, _, _ => s

def execTileInstructionComplete (n : Nat) (s : State) : Result :=
  match s.tileOps.get? n with
  | none => .refused (.notEnabled "TILE_INSTRUCTION_COMPLETE")
  | some o => .next { s.tileDone o with tileOps := s.tileOps.erase n }

/-! ## mhdr.get, mhdr.set (R290) -/

/-- Gives every live member of a crew the same registers, without a latch update, and completes. -/
def State.giveCrew (s : State) (r : Nat) (k : Bool) (vs : List Val) : List Nat → Except (Nat → Stop) State
  | [] => .ok s
  | t :: l =>
    match s.writeRegs t r k vs with
    | .error e => .error fun u => if u = t then e else .block .coll
    | .ok s' => (s'.finishT t).giveCrew r k vs l

def mhdrGetOp (d : Dst) (m : MReg) : CrewOp := fun s ck =>
  match s.tileOpds (ck / 32) [m.val] [] with
  | .error f => .error f
  | .ok l =>
    let n := (opdAt l 0).b.toNat
    s.giveCrew d.reg.val d.k [pt (BitVec.ofNat 64 n), pt (BitVec.ofNat 64 (n / 2 ^ 64))] (s.liveThreads ck)

def mhdrSetOp (d : Reg) (m : MReg) : CrewOp := fun s ck =>
  match s.tileOpds (ck / 32) [] [m.val], s.gangs.get? (ck / 32) with
  | .error f, _ => .error f
  | .ok l, some x =>
    let low := s.lowest ck
    match s.crewRead ck [.oc d, .oc (d + 1)], s.readAll low [.oc d, .oc (d + 1)] with
    | .error f, _ => .error f
    | _, .error e => .error fun _ => e
    | .ok (_, s1), .ok vs =>
      let b := hdrSeal ((dataAt vs 0).toNat + (dataAt vs 1).toNat * 2 ^ 64)
      let o := opdAt l 0
      match tileChecks [(hdrOk b, m.val, cHDR_INTEGRITY),
          (decide ((Hdr.ofBits b).size ≤ 1024 * o.h.kib), m.val, cHDR_MISMATCH)] with
      | .error f => .error f
      | .ok _ => .ok ((s1.putHdr x o.h b).finishCrew ck)
  | _, _ => .ok s

def execMhdrGet (d : Dst) (m : MReg) (s : State) : Result := collective [] (mhdrGetOp d m) s
def execMhdrSet (d : Reg) (m : MReg) (s : State) : Result :=
  collective [.oc d, .oc (d + 1)] (mhdrSetOp d m) s

/-! ## mget, mput (R291) -/

/-- Row and column of an index operand. -/
def idxRow (v : Word) : Nat := fld v.toNat 16 16
def idxCol (v : Word) : Nat := fld v.toNat 0 16

/-- K-vector and K position of element (i, j). -/
def Hdr.vk (h : Hdr) (i j : Nat) : Nat × Nat := if h.isB then (j, i) else (i, j)

/-- The value that mget gives for element (i, j). -/
def State.elemVal (s : State) (x : Gang) (o : Handle) (h : Hdr) (i j : Nat) : Word :=
  let (v, k) := h.vk i j
  match s.storedPos x o h v k with
  | none => 0
  | some p =>
    if s.zeroBlock x o h v (p / 32) then 0
    else if h.layout = 2 then
      if h.fmt.isFloat then BitVec.ofNat 64 (planeF32 (s.planeFP x o h v p))
      else BitVec.ofInt 64 (s.planeVal x o h v p)
    else
      let r := s.elRaw x o h v p
      if h.fmt.isFloat then BitVec.ofNat 64 r else BitVec.ofInt 64 (intEl h.fmt r)

/-- The byte ranges that hold element (i, j), its scale, its metadata nibble and its bitmap bit. -/
def State.elemRanges (s : State) (x : Gang) (o : Handle) (h : Hdr) (i j : Nat) : List (Nat × Nat) :=
  let (v, k) := h.vk i j
  let extra := if h.sparse = 1 then [(h.dataEnd + (v * (h.kLen / 4) + k / 4) / 2, 1)]
    else if h.sparse = 2 then [(h.dataEnd + (v * h.nb + k / 32) / 8, 1)] else []
  match s.storedPos x o h v k with
  | none => extra
  | some p =>
    extra ++ (if h.layout = 2 then
        (if h.fmt.isFloat then [(h.scaleAt v (p / 32), 1)] else []) ++
        (List.range h.planes).map fun q => (h.planeAt v (p / 32) q, 4)
      else
        let (r, c) := if h.kAlong then (v, p) else (p, v)
        [(h.elBit r c / 8, (h.elBit r c % 8 + h.fmt.store + 7) / 8)])

/-- Whether an index lies in a tile. -/
def Hdr.inside (h : Hdr) (i j : Nat) : Bool := decide (i ≤ h.rows ∧ j ≤ h.cols)

/-- The cause of a member that names an element outside the tile. -/
def outside (o : TOpd) (t : Nat) : Nat × Stop := (t, .trap cHDR_MISMATCH (BitVec.ofNat 64 o.n) none)

/-- mget for the members in home-lane order; a member outside the tile takes HEADER_MISMATCH, once the others have completed. -/
def mgetEach (d : Dst) (b : Src) (x : Gang) (o : TOpd) (before : Vector (List QEntry) 8) (out : List (Nat × Stop)) :
    List Nat → State → Except (Nat → Stop) State
  | [], s => .ok (s.stopAll out)
  | t :: r, s =>
    let now := s.queuesOf (gangOf t)
    match s.readFor before t [b] with
    | .error e => .error fun u => if u = t then e else .block .coll
    | .ok (vs, s1) =>
      let i := idxRow (dataAt vs 0)
      let j := idxCol (dataAt vs 0)
      if !o.hdr.inside i j then mgetEach d b x o before (out ++ [outside o t]) r s
      else match s.tileGrains x [(o, (0, 16) :: s.elemRanges x o.h o.hdr i j)] with
        | .error f => .error f
        | .ok _ =>
          match s1.writeRegs t d.reg.val d.k [pt (s.elemVal x o.h o.hdr i j)] with
          | .error e => .error fun u => if u = t then e else .block .coll
          | .ok s' => mgetEach d b x o now out r (s'.finishT t)

def mgetOp (d : Dst) (m : MReg) (b : Src) : CrewOp := fun s ck =>
  match s.tileOpds (ck / 32) [m.val] [], s.gangs.get? (ck / 32) with
  | .error f, _ => .error f
  | .ok l, some x =>
    match tileChecks [(hdrOk (opdAt l 0).b, m.val, cHDR_INTEGRITY)] with
    | .error f => .error f
    | .ok _ => mgetEach d b x (opdAt l 0) (s.queuesOf (ck / 32)) [] (s.liveThreads ck) s
  | _, _ => .ok s

/-- Writes element (i, j). -/
def State.putElem (s : State) (x : Gang) (o : Handle) (h : Hdr) (i j : Nat) (w : Word) : State :=
  let (v, k) := h.vk i j
  if h.layout = 2 then
    (List.range h.planes).foldl (fun s q =>
      s.tileSetBits x o (8 * h.planeAt v (k / 32) q + k % 32) 1 (if w.getLsbD q then 1 else 0)) s
  else
    let (r, c) := if h.kAlong then (v, k) else (k, v)
    s.tileSetBits x o (h.elBit r c) h.fmt.store (w.toNat % 2 ^ h.fmt.width)

/-- mput for the members in home-lane order. When several write one element, which value stays is a free choice (log entry
2): `done` lists the elements written so far. -/
def mputEach (d : Reg) (b : Src) (x : Gang) (o : TOpd) (out : List (Nat × Stop)) :
    List Nat → List (Nat × Nat) → State → Except (Nat → Stop) State
  | [], _, s => .ok (s.stopAll out)
  | t :: r, done, s =>
    match s.readAll t [.oc d, b] with
    | .error e => .error fun u => if u = t then e else .block .coll
    | .ok vs =>
      let i := idxRow (dataAt vs 1)
      let j := idxCol (dataAt vs 1)
      if !o.hdr.inside i j then mputEach d b x o (out ++ [outside o t]) r done s
      else match s.tileGrains x [(o, (0, 16) :: s.elemRanges x o.h o.hdr i j)] with
        | .error f => .error f
        | .ok _ =>
          let (c, s) := if s.isShadow t then (0, s) else if done.contains (i, j) then s.pick 2 else (1, s)
          let s := if c = 0 then s else s.putElem x o.h o.hdr i j (dataAt vs 0)
          mputEach d b x o out r ((i, j) :: done) ((s.commit t [.oc d, b] vs).finishT t)

def mputOp (d : Reg) (m : MReg) (b : Src) : CrewOp := fun s ck =>
  match s.tileOpds (ck / 32) [] [m.val], s.gangs.get? (ck / 32) with
  | .error f, _ => .error f
  | .ok l, some x =>
    let o := opdAt l 0
    match tileChecks [(hdrOk o.b, m.val, cHDR_INTEGRITY),
        (o.hdr.sparse == 0 && !(o.hdr.layout == 2 && o.hdr.fmt.isFloat), m.val, cHDR_MISMATCH)] with
    | .error f => .error f
    | .ok _ => mputEach d b x o [] (s.liveThreads ck) [] s
  | _, _ => .ok s

def execMget (d : Dst) (m : MReg) (b : Src) (s : State) : Result := collective [b] (mgetOp d m b) s
def execMput (d : Reg) (m : MReg) (b : Src) (s : State) : Result := collective [.oc d, b] (mputOp d m b) s

/-! ## mzero, tshape, mplan (R292, R276, R279) -/

def mzeroOp (d : MReg) : CrewOp := fun s ck =>
  match s.tileOpds (ck / 32) [] [d.val], s.gangs.get? (ck / 32) with
  | .error f, _ => .error f
  | .ok l, some x =>
    let o := opdAt l 0
    match tileChecks [(hdrOk o.b, d.val, cHDR_INTEGRITY)] with
    | .error f => .error f
    | .ok _ =>
      match s.tileGrains x [(o, [(0, 16)])] with
      | .error f => .error f
      | .ok _ => .ok ((s.tileWrite x o.h 32 (List.replicate (o.hdr.dataEnd - 32) 0)).finishCrew ck)
  | _, _ => .ok s
def execMzero (d : MReg) (s : State) : Result := collective [] (mzeroOp d) s

/-- The fold granted for a request: rows and columns (R276). -/
def foldFor (rq cq : Nat) : Option (Nat × Nat) :=
  [(16, 256), (32, 128), (64, 64), (128, 32), (256, 16)].find? fun f => decide (rq ≤ f.1 ∧ cq ≤ f.2)

def tshapeOp (r : KReg16) : CrewOp := fun s ck =>
  if s.kPending ck (k16 r).val then .error fun _ => .block .regs
  else if s.tileOps.any fun o => o.2.gang == ck / 32 && (match o.2.kind with | .mma _ _ => true | _ => false) then
    .error fun _ => .block .fold
  else
    let v := (s.kreg ck (k16 r)).toNat
    let s := s.observeK ck (k16 r)
    let f := foldFor (Nat.max (fld v 0 16) 1) (Nat.max (fld v 16 16) 1)
    .ok ((s.modG (ck / 32) fun g => match f with
      | some (a, b) => { g with grows := a, gcols := b, fit := true }
      | none => { g with fit := false }).finishCrew ck)
def execTshape (r : KReg16) (s : State) : Result := collective [] (tshapeOp r) s

/-- Why a plan table fails R278: the xval index, 0xFFFF for the head. -/
def planHeadOk (l : List Byte) : Bool :=
  let n := leNat (l.take 2)
  decide (1 ≤ n ∧ n ≤ 256) && leNat ((l.drop 2).take 2) == 1 && ((l.drop 4).take 28).all (· == 0)

/-- One plan entry (R278). -/
def planEntryOk (e : List Byte) : Bool :=
  let n := leNat e
  fld n 240 16 == crc16 (e.take 30) && fld n 88 152 == 0 && (fld n 80 8 == 1 || fld n 80 8 == 2) &&
  fld n 72 8 == fld n 12 5 * fld n 17 5 && decide (fld n 64 8 ≤ 1) && fld n 39 25 == 0

/-- The first bad entry from index `i` on; keys rise. -/
def planBad : Nat → Option Nat → List (List Byte) → Option Nat
  | _, _, [] => none
  | i, prev, e :: r =>
    if !planEntryOk e || (match prev with | some k => decide (planKey e ≤ k) | none => false) then some i
    else planBad (i + 1) (some (planKey e)) r

/-- Pieces of 32 bytes. -/
def chunks32 : Nat → List Byte → List (List Byte)
  | 0, _ => []
  | n + 1, l => l.take 32 :: chunks32 n (l.drop 32)

/-- xval of NO_PLAN from mplan. -/
def planXval (i : Nat) : Word := BitVec.ofNat 64 (2 ^ 63 + i)

/-- Granules read for a thread, checked at the load port: their bytes, or the trap of the first that fails; `home`: whether it has
a home slice here. -/
def checkedBytes (va : Word) (home : Bool) (gs : List (Nat × Gran)) : Except Stop (List Byte) :=
  match firstBad 0 gs with
  | some (i, c, p) => .error (.trap c (va + BitVec.ofNat 64 (8 * i)) (if home then some p else none))
  | none => .ok (granBytes (gs.map (·.2)))

/-- Reads `32` bytes for a thread as ldk reads its word (08 R188): the bytes, the timestamp and the state. -/
def State.read32 (s : State) (t : Nat) (va : Word) (b : Nat) : Except Stop (List Byte × Nat × State) :=
  match s.resolve t va 32 .load with
  | .error e => .error e
  | .ok g =>
    match g.place with
    | .dev pa gpa =>
      let (r, s) := s.lineLoad (pa / 64) g.key b
      (checkedBytes va true (coveredGrans r.line gpa 32)).map fun l => (l, Nat.max b r.wts, s)
    | .pad p off =>
      let (ts, s) := s.padTick p b
      (checkedBytes va true (s.padGrans p off 32)).map fun l => (l, ts, s)
    | .peer pa => match s.peerRead pa 4 with
      | (none, _) => .error (.trap cPROTECTION va none)
      | (some gs, s) => (checkedBytes va false gs).map fun l => (l, b, s)

/-- Reads `n` consecutive pieces of 32 bytes. -/
def State.read32s (t : Nat) : Nat → Word → Nat → State → Except Stop (List Byte × Nat × State)
  | 0, _, b, s => .ok ([], b, s)
  | n + 1, va, b, s =>
    match s.read32 t va b with
    | .error e => .error e
    | .ok (l, ts, s') =>
      match State.read32s t n (va + 32) ts s' with
      | .error e => .error e
      | .ok (l', ts', s'') => .ok (l ++ l', ts', s'')

/-- The plan image of a gang (R277). -/
def State.writePlan (s : State) (g : Gang) : State :=
  let l := leBytes 2 g.plan.length ++ [1, 0] ++ List.replicate 28 0 ++ g.plan.flatten
  s.ctxWrite g 0x8_0000 ((List.range (4 + 4 * g.plan.length)).map fun i =>
    BitVec.ofNat 64 (leNat ((l.drop (8 * i)).take 8)))

/-- mplan: the table is read in one step (log entry 19). -/
def mplanOp (r : KReg16) : CrewOp := fun s ck =>
  if s.kPending ck (k16 r).val then .error fun _ => .block .regs
  else if !s.crewDrained ck then .error fun _ => .block .drain
  else
    let va := s.kreg ck (k16 r)
    let s := s.observeK ck (k16 r)
    let low := s.lowest ck
    let b := s.maxLt (s.liveThreads ck)
    if va.toNat % 32 ≠ 0 then .error (allTrap cNO_PLAN (planXval 0xFFFF))
    else match s.read32 low va b with
      | .error e => .error fun _ => e
      | .ok (h, ts, s1) =>
        if !planHeadOk h then .error (allTrap cNO_PLAN (planXval 0xFFFF))
        else
          let n := leNat (h.take 2)
          match State.read32s low n (va + 32) ts s1 with
          | .error e => .error fun _ => e
          | .ok (l, ts', s2) =>
            let es := chunks32 n l
            match planBad 0 none es with
            | some i => .error (allTrap cNO_PLAN (planXval i))
            | none =>
              let s3 := s2.modG (ck / 32) fun g => { g with plan := es }
              let s3 := match s3.gangs.get? (ck / 32) with | some g => s3.writePlan g | none => s3
              .ok ((s3.onThreads (s3.liveThreads ck) fun x => { x with lt := ts' }).finishCrew ck)
def execMplan (t : KReg16) (s : State) : Result := collective [] (mplanOp t) s

end Sys2Proof.Machine
end

