-- ==== Sys2Proof/Machine/Faults.lean ====
section
/-! DEFINITION. The fault buffers, the processors' own accesses, and the undo-page log (04 R95, R96, R98, R100, R101, R441,
17 R385). -/

namespace Sys2Proof.Machine

/-- The VA of a waiter's access. -/
def Waiter.va : Waiter → Nat | .thread _ v _ | .frame _ v _ | .copy _ v _ => v.toNat

/-! ## The processors' accesses -/

/-- The state after the loads of a walk that a command processor of a die makes (04 R99). -/
def State.procLoads (s : State) (die aspace va : Nat) : State := s.walkLoads (s.walkCache.getD die []) aspace va

/-- A translation for a command processor of a die. -/
def State.procXlate (s : State) (die aspace va : Nat) (k : AccKind) (repl : Option Nat) : WalkRes :=
  s.walk (s.walkCache.getD die []) aspace va k repl

/-- What a processor's access ends with: a value, or the ERR code of 15 R331; and the state after. -/
abbrev PRes (α : Type) := Except Nat α × State

/-- A processor's walk for an access: its loads, its end, and the scruples of a damaged entry (04 R441). -/
def State.procWalk (s : State) (die aspace va : Nat) (k : AccKind) : PRes TlbEntry :=
  let s := s.procLoads die aspace va
  match s.procXlate die aspace va k none with
  | .ok e => (.ok e, s)
  | .fail _ => (.error 4, s)
  | .damaged _ pa => (.error 7, s.walkScruples none pa)

/-- The scruples of a failing granule (17 R390). -/
def State.damage (s : State) (c : Byte) (core : Option Nat) (pa : Nat) : State := s.checkScruples c core pa

/-- A word that a processor reads at a PA under key slot 0, checked. -/
def State.procWord (s : State) (pa : Nat) : PRes Word :=
  let s := s.fillLine (pa / 64)
  match s.peekWord pa pa 0 with
  | .ok w => (.ok w, s)
  | .error c => (.error 7, s.damage c none pa)

/-- An access that a processor makes for a queue outside its blocks halts it with a code of 15 R331: 0x04 where it does not
translate, 0x07 where it meets damage. The block in hand is no failed block (log entry 88). -/
def State.procHalt (s : State) (q code : Nat) : State :=
  let x := s.queues.getD q Queue.init
  if x.state = 3 then s
  else ({ s with queues := s.queues.set q { x with state := 3, err := BitVec.ofNat 8 code, skip := false } }).interrupt 2

/-! ## TLB invalidation (R98) -/

/-- Drops from every TLB level the entries that satisfy a test, and what may still be used of them; the walk caches are emptied. -/
def State.dropTlb (s : State) (p : TlbEntry → Bool) : State :=
  { s with
    cores := s.cores.mapVals fun _ c => { c with
      tlb := c.tlb.filter fun e => !p e, utlb := c.utlb.mapVals fun _ l => l.filter fun e => !p e }
    dieTlb := s.dieTlb.mapVals fun _ l => l.filter fun e => !p e
    oldTlb := s.oldTlb.filter fun e => !p e
    walkCache := [] }

/-- Whether a TLB entry covers a VA. -/
def TlbEntry.covers (e : TlbEntry) (aspace va : Nat) : Bool :=
  e.aspace == aspace && va / 2 ^ e.bits * 2 ^ e.bits == e.base

/-! ## The fault buffers (R100) -/

/-- The trap cause of a failing row of R95. -/
def rowCause (row : Nat) : Byte := if row ≤ 1 then cTRANSLATION else cPROTECTION

/-- The number of an entry of a die's buffer. -/
def fkey (die i : Nat) : Nat := die * 4096 + i

/-- A die's buffer entries. -/
def State.dieFaults (s : State) (die : Nat) : List (Nat × FaultEntry) := s.faults.filter fun e => e.1 / 4096 == die

/-- A waiter enters a die's fault buffer: it joins the pending entry of its page or takes the lowest free one, and the
driver is interrupted when the buffer was empty. None when the buffer is full. -/
def State.enterFault (s : State) (die aspace va : Nat) (k : AccKind) (row : Nat) (queue lid : Nat) (w : Waiter) :
    Option (Nat × State) :=
  let vpn := va / 65536
  let here := s.dieFaults die
  match here.find? fun e => e.2.aspace == aspace && e.2.vpn == vpn with
  | some e => some (e.1 % 4096, { s with faults := s.faults.modify e.1 fun f => { f with waiters := f.waiters ++ [(w, row)] } })
  | none =>
    match leastFrom (fun i => (s.faults.get? (fkey die i)).isNone) 0 4096 with
    | none => none
    | some i =>
      let s := if here.isEmpty then s.interrupt die else s
      let f : FaultEntry := ⟨s.count125 % 2 ^ 32, aspace, queue, lid, row, k, vpn, [(w, row)]⟩
      some (i, { s with faults := s.faults.set (fkey die i) f })

/-- The queue and identifier of the launch in a slot. -/
def State.launchIds (s : State) (slot : Nat) : Nat × Nat :=
  match s.launches.get? slot with | some l => (l.queue, l.lid) | none => (0, 0)

/-! ## The undo-page log (R96, 17 R385) -/

/-- The granules of a line, re-based from one address to another, unchecked. -/
def State.movedLine (s : State) (src skey dst : Nat) : List (Nat × Gran) :=
  (List.range 8).map fun i => (i, (s.peekGran (src / 8 + i) skey).rebase (src + 8 * i) (dst + 8 * i))

/-- Copies `n` lines between physical addresses, re-based unchecked, without a timestamp (log entry 63). -/
def State.copyLines (s : State) (src skey dst dkey : Nat) : Nat → State
  | 0 => s
  | n + 1 =>
    let s := (s.copyLines src skey dst dkey n).fillLine (src / 64 + n)
    s.pokeGrans (dst / 64 + n) dkey (s.movedLine (src + 64 * n) skey (dst + 64 * n))

/-- The VA of a launch's undo-page log (R385). -/
def Launch.logVa (l : Launch) : Nat := l.record.ctxVa + l.record.gsets * 0x40_0000

/-- The address space of a queue. -/
def State.queue (s : State) (q : Nat) : Queue := s.queues.getD q Queue.init
def State.setQueue (s : State) (q : Nat) (f : Queue → Queue) : State := { s with queues := s.queues.set q (f (s.queue q)) }
def qDie (q : Nat) : Nat := q / 32

/-- The physical address of an offset in a launch's log. -/
def State.logPa (s : State) (l : Launch) (off : Nat) : PRes Nat :=
  match s.procWalk (qDie l.queue) (s.queue l.queue).aspace (l.logVa + off) .store with
  | (.ok e, s) => (.ok (e.pa (l.logVa + off)), s)
  | (.error c, s) => (.error c, s)

/-- A word of a launch's log, and the writing of one. -/
def State.logWord (s : State) (l : Launch) (off : Nat) : PRes Word :=
  match s.logPa l off with
  | (.ok pa, s) => s.procWord pa
  | (.error c, s) => (.error c, s)
def State.logWrite (s : State) (l : Launch) (off : Nat) (v : Nat) : PRes Unit :=
  match s.logPa l off with
  | (.ok pa, s) => (.ok (), s.pokeWord pa 0 (BitVec.ofNat 64 v))
  | (.error c, s) => (.error c, s)

/-- Copies units of 64 KiB of a page into the log from unit `u`. -/
def State.saveUnits (s : State) (l : Launch) (page key u : Nat) : Nat → PRes Unit
  | 0 => (.ok (), s)
  | n + 1 =>
    match s.saveUnits l page key u n with
    | (.error c, s) => (.error c, s)
    | (.ok _, s) => match s.logPa l (65536 + 65536 * (u + n)) with
      | (.ok d, s) => (.ok (), s.copyLines (page + 65536 * n) key d 0 1024)
      | (.error c, s) => (.error c, s)

/-- LOG_CAP and LOG_USED of a launch's log (R385). -/
def State.logUse (s : State) (l : Launch) : PRes (Nat × Nat) :=
  match s.logWord l 0 with
  | (.error c, s) => (.error c, s)
  | (.ok cap, s) =>
    if l.snaps.isEmpty then (.ok (cap.toNat, 0), s)
    else match s.logWord l 8 with
      | (.error c, s) => (.error c, s)
      | (.ok used, s) => (.ok (cap.toNat, used.toNat), s)

/-- Writes the words of a log's next entry: the page, its first unit and its size, and LOG_USED. -/
def State.logEntry (s : State) (l : Launch) (page used units : Nat) : PRes Unit :=
  [(64 + 16 * l.snaps.length, page), (72 + 16 * l.snaps.length, used + units * 2 ^ 32), (8, used + units)].foldl
    (fun (r : PRes Unit) w => match r with
      | (.ok _, s) => s.logWrite l w.1 w.2
      | e => e) (.ok (), s)

/-- Takes the pre-image of the page that maps a VA for the launch in `slot`: the units, the log entry, SNAP_SLOT, and the
invalidation of the old leaf, which is answered. Error 0: the log has no room; 4 or 7: an access of the processor fails (15
R331). -/
def State.takeSnap (s : State) (slot aspace va : Nat) : PRes TlbEntry :=
  match s.launches.get? slot with
  | none => (.error 0, s)
  | some l =>
    match s.procWalk (qDie l.queue) aspace va .load with
    | (.error c, s) => (.error c, s)
    | (.ok e, s) => match s.leafPa aspace va, s.logUse l with
      | none, _ => (.error 0, s)
      | _, (.error c, s) => (.error c, s)
      | some lp, (.ok (cap, used), s) =>
        let units := 2 ^ (e.bits - 16)
        if cap < used + units || 4092 ≤ l.snaps.length then (.error 0, s)
        else match s.saveUnits l (leafPage e.leaf) (leafKey e.leaf) used units with
          | (.error c, s) => (.error c, s)
          | (.ok _, s) => match s.logEntry l (leafPage e.leaf) used units with
            | (.error c, s) => (.error c, s)
            | (.ok _, s) =>
              let s := s.pokeWord lp 0
                (BitVec.ofNat 64 (e.leaf.toNat - leafSnap e.leaf * 2 ^ 56 + (slot + 1) * 2 ^ 56))
              (.ok e, (s.dropTlb fun x => x.covers aspace va).modL slot fun l =>
                { l with snaps := l.snaps ++ [lp], undoUsed := true })

/-- Whether the leaf that maps a VA has no pre-image taken. -/
def State.snapFree (s : State) (aspace va : Nat) : Bool :=
  match s.leafPa aspace va with
  | some lp => leafSnap (s.peekGran (lp / 8) 0).data == 0
  | none => false

/-- A thread or copy replays its access: threads go on from their fault (R101). -/
def State.replayWaiter (s : State) (w : Waiter) : State :=
  match w with
  | .thread t _ _ | .frame t _ _ => s.modT t fun x => match x.wait with
      | .fault _ _ | .walk _ => { x with wait := if x.due then .coll else .none }
      | _ => x
  | .copy c _ _ => { s with copies := s.copies.modify c fun y => match y.phase with
      | .faulted _ _ _ | .walking _ => { y with phase := .accepted }
      | _ => y }

/-- The waiters of CAUSE 0b100 in one entry that satisfy a test replay; an entry without waiters left is freed (R96, R101). -/
def State.retrySnap (s : State) (p : Waiter → Bool) (key : Nat) : State :=
  match s.faults.get? key with
  | none => s
  | some f =>
    let goes (w : Waiter × Nat) : Bool := w.2 == 4 && p w.1
    let rest := f.waiters.filter fun w => !goes w
    let s := { s with faults := if rest.isEmpty then s.faults.erase key else s.faults.set key { f with waiters := rest } }
    (f.waiters.filter goes).foldl (fun s w => s.replayWaiter w.1) s

/-- The replayable launch whose slot a waiter's access named. -/
def State.waiterSlot (s : State) (w : Waiter) : Option Nat :=
  let g := match w with
    | .thread t _ _ => s.gangs.get? (gangOf t)
    | .copy c _ _ => (match s.copies.get? c with
      | some y => (match y.env with | some g => some g | none => s.gangs.get? y.gang)
      | none => none)
    | .frame _ _ _ => none
  match g with | some g => s.replSlot g | none => none

/-- Whether the queue of the launch in a slot stands halted by a failed access of its processor. -/
def State.procFailed (s : State) (slot : Nat) : Bool :=
  let q := s.queue (s.launchIds slot).1
  q.state == 3 && (q.err == 4 || q.err == 7)

/-- The command processor resolves an entry's CAUSE 0b100 (R96): it takes the pre-image of a page that has none, and the waiters of
that launch at the page, whose entries may be several of a large leaf, replay. An access of its own that fails halts the queue, and
it tries no more until software clears ERR. None when no waiter waits for that, or the log has no room. -/
def State.resolveSnap (s : State) (key : Nat) : Option State :=
  match s.faults.get? key with
  | none => none
  | some f =>
    match f.waiters.find? fun w => w.2 == 4 && s.snapFree f.aspace w.1.va with
    | none => none
    | some w => match s.waiterSlot w.1 with
      | none => none
      | some slot =>
        if s.procFailed slot then none
        else match s.takeSnap slot f.aspace w.1.va with
          | (.ok e, s) => some ((s.faults.filter fun x => x.2.aspace == f.aspace && e.covers f.aspace (65536 * x.2.vpn)).foldl
              (fun s x => s.retrySnap (fun w => s.waiterSlot w == some slot) x.1) s)
          | (.error 0, _) => none
          | (.error c, s) => some (s.procHalt (s.launchIds slot).1 c)

end Sys2Proof.Machine
end

