-- ==== Sys2Proof/Machine/Copy.lean ====
section
/-! DEFINITION. Copy instructions at issue, rec.fence, rec.pf and own (07 R160 to R164, R168, R170 to R178, 12 R293). The
engine's side stands in `CopyEngine.lean`. -/

namespace Sys2Proof.Machine

/-! ## The record cache (R160) -/

/-- The bytes of a record line in a core's record cache. -/
def State.recHit (s : State) (core aspace va : Nat) : Option (List Byte) :=
  ((s.core core).recs.find? fun r => r.aspace == aspace && r.va == va).map (·.bytes)

/-- Puts a line into a core's record cache; the least recently used of 64 leaves. -/
def State.putRec (s : State) (core : Nat) (r : RecLine) : State :=
  s.setCore core fun c => { c with
    recs := (r :: c.recs.filter fun x => !(x.aspace == r.aspace && x.va == r.va)).take 64 }

/-- What a fill of a record line ends with: the bytes and their timestamp, a TLB miss, a failing granule with its PA if it has a home
here, or a peer's error. -/
inductive RecRes where
  | ok (bytes : List Byte) (ts : Nat)
  | miss
  | bad (cause : Byte) (pa : Option Nat)
  | refused
  deriving DecidableEq, Repr

/-- A record line read while it is being changed: of each granule its contents, or those with the bytes of a store on its way
(R161). -/
def State.whileChanged (s : State) (ln gpa : Nat) (l : List Gran) : List Gran × State :=
  l.zipIdx.foldl (fun (acc : List Gran × State) g =>
    let a := gpa / 64 * 64 + 8 * g.2
    let new := ((s.storesTo ln).filter fun e => !(e.within g.2).isEmpty &&
      ((e.within g.2).length == 8 || (g.1.check a).isNone)).map fun e => Gran.mk' (e.over g.2 g.1.data) a
    let (c, s) := acc.2.pick (new.length + 1)
    (acc.1 ++ [(g.1 :: new).getD c g.1], s)) ([], s)

/-- Reads a record line through the record cache of a core, with lower bound `b` (R160). -/
def State.readRec (s : State) (core aspace va b : Nat) (repl : Option Nat) : RecRes × State :=
  match s.recHit core aspace va with
  | some l => (.ok l b, s.putRec core ⟨aspace, va, l⟩)
  | none =>
    match s.tlbLook core none aspace va .load repl with
    | some e =>
      match e.place va core with
      | .dev pa gpa =>
        let (r, s) := s.lineLoad (pa / 64) (leafKey e.leaf) b
        let (line, s) := s.whileChanged (pa / 64) gpa r.line
        match firstBad 0 (coveredGrans line gpa 64) with
        | some (_, c, p) => (.bad c (some p), s)
        | none =>
          let l := granBytes line
          (.ok l (Nat.max b r.wts), s.putRec core ⟨aspace, va, l⟩)
      | .peer pa => match s.peerRead pa 8 with
        | (none, s) => (.refused, s)
        | (some gs, s) => match firstBad 0 gs with
          | some (_, c, _) => (.bad c none, s)
          | none => (.ok (granBytes (gs.map (·.2))) b, s.putRec core ⟨aspace, va, granBytes (gs.map (·.2))⟩)
      | .pad _ _ => (.miss, s)
    | none => (.miss, s)

/-! ## Issue -/

/-- What a copy instruction names: its operation, token register, handle, and the k registers of its record, its origin and
its third operand. -/
structure CopyForm where
  op : CopyOp
  tok : KReg
  h : Option MReg
  r : Option KReg16
  o : Option KReg16
  aux : Option KReg16

def CopyForm.ks (f : CopyForm) : List KReg16 := f.r.toList ++ f.o.toList ++ f.aux.toList

/-- The value of an optional k register. -/
def State.kOpt (s : State) (ck : Nat) (k : Option KReg16) : Word :=
  match k with | some k => s.kreg ck (k16 k) | none => 0

/-- The forms whose header is checked at issue (R173, R175, R178, 12 R293), and those that are tile instructions. -/
def CopyOp.hdrAtIssue : CopyOp → Bool | .cpOut | .cpOutAdd | .cpFill | .mdrain | .mdrainAdd => true | _ => false
def CopyOp.isDrain : CopyOp → Bool | .mdrain | .mdrainAdd => true | _ => false

/-- The copies of a gang that hold its slots (R162). -/
def State.slotsUsed (s : State) (g : Nat) : Nat := s.copies.countP fun e => e.2.gang == g && !e.2.orphan

/-- The handle that a copy makes ENGINE-owned at issue: its own, for cp.mc only when the issuing gang is a receiver. -/
def State.takesHandle (s : State) (ck : Nat) (f : CopyForm) : Option Nat :=
  match f.h, s.gangs.get? (ck / 32) with
  | some m, some g =>
    if f.op = .cpMc ∧ !(s.kOpt ck f.aux).getLsbD (g.core % 8) then none else some m.val
  | _, _ => none

/-- The issue conditions of R178 in order: OWNER, the stalls on the tile, the header. mdrain and mdrain.add, which are tile
instructions, also stall by the order of 12 R274; the other copies are ordered against tile instructions by the owner bits alone (log
entry 44). -/
def State.copyReady (s : State) (ck : Nat) (f : CopyForm) (x : Gang) : Except (Nat → Stop) Unit :=
  match s.takesHandle ck f with
  | none => match f.h with
    | some m => if (x.handles.get? m.val).any (·.owner.isSome) then .error fun _ => .block (.tile [m.val]) else .ok ()
    | none => .ok ()
  | some n =>
    match x.handles.get? n with
    | none => if f.op = .cpMc then .ok () else .error (allTrap cOWNER (BitVec.ofNat 64 n))
    | some h =>
      if h.owner.isSome then .error fun _ => .block (.tile [n])
      else if f.op.isDrain && s.tileWait (ck / 32) [] [n] then .error fun _ => .block .fold
      else if f.op.hdrAtIssue then
        let b := s.hdrBits x h
        tileChecks [(hdrOk b, n, cHDR_INTEGRITY), (!f.op.isDrain || (Hdr.ofBits b).role == 3, n, cHDR_MISMATCH)]
      else .ok ()

/-- A copy enters a slot of its gang: the token becomes pending and the handle ENGINE-owned; every live member takes ts_i
(R162, R164, R168, R170). -/
def State.placeCopy (s : State) (ck : Nat) (f : CopyForm) (x : Gang) : State :=
  let recVa := s.kOpt ck f.r
  let origin := s.kOpt ck f.o
  let aux := s.kOpt ck f.aux
  let own := s.takesHandle ck f
  let s := (f.ks.foldl (fun s k => s.observeK ck (k16 k)) s)
  let tsi := s.maxLt (s.liveThreads ck)
  let c : Copy :=
    { gang := ck / 32, crew := ck % 32, core := x.core, op := f.op, tok := f.tok.val
      handle := (match f.h with | some m => m.val | none => 0), recVa, origin, aux, tsi, tsc := tsi
      phase := .queued, xfer := .init, orphan := false, prologue := false, env := none }
  let id := s.nextId
  let s := { s with nextId := id + 1, copies := s.copies.set id c }
  let s := match own with
    | some n => s.modG (ck / 32) fun g => { g with handles := g.handles.modify n fun h => { h with owner := some id } }
    | none => s
  (s.setK ck f.tok 0xFF).onThreads (s.liveThreads ck) fun t => { t with lt := tsi }

/-- A copy instruction for a crew. -/
def copyOp (f : CopyForm) : CrewOp := fun s ck =>
  match s.gangs.get? (ck / 32) with
  | none => .ok s
  | some x =>
    if (f.ks.any fun k => s.kPending ck (k16 k).val) || s.kPending ck f.tok.val then .error fun _ => .block .regs
    else if !s.crewDrained ck then .error fun _ => .block .drain
    else match s.copyReady ck f x with
      | .error e => .error e
      | .ok _ =>
        if Nat.max x.kernel.copies 1 ≤ s.slotsUsed (ck / 32) then .error fun _ => .block .copyQueue
        else .ok ((s.placeCopy ck f x).finishCrew ck)

def copyInstr (f : CopyForm) (s : State) : Result := collective [] (copyOp f) s

def execCpIn (t : KReg) (n : MReg) (r o : KReg16) (s : State) : Result :=
  copyInstr ⟨.cpIn, t, some n, some r, some o, none⟩ s
def execCpOut (t : KReg) (n : MReg) (r o : KReg16) (s : State) : Result :=
  copyInstr ⟨.cpOut, t, some n, some r, some o, none⟩ s
def execCpOutAdd (t : KReg) (n : MReg) (r o : KReg16) (s : State) : Result :=
  copyInstr ⟨.cpOutAdd, t, some n, some r, some o, none⟩ s
def execCpMc (t : KReg) (n : MReg) (r o m : KReg16) (s : State) : Result :=
  copyInstr ⟨.cpMc, t, some n, some r, some o, some m⟩ s
def execCpPad (t : KReg) (p r o : KReg16) (s : State) : Result :=
  copyInstr ⟨.cpPad, t, none, some r, some o, some p⟩ s
def execCpPadOut (t : KReg) (p r o : KReg16) (s : State) : Result :=
  copyInstr ⟨.cpPadOut, t, none, some r, some o, some p⟩ s
def execCpFill (t : KReg) (n : MReg) (v : KReg16) (s : State) : Result :=
  copyInstr ⟨.cpFill, t, some n, none, none, some v⟩ s
def execMdrain (t : KReg) (n : MReg) (r o : KReg16) (s : State) : Result :=
  copyInstr ⟨.mdrain, t, some n, some r, some o, none⟩ s
def execMdrainAdd (t : KReg) (n : MReg) (r o : KReg16) (s : State) : Result :=
  copyInstr ⟨.mdrainAdd, t, some n, some r, some o, none⟩ s

/-! ## rec.fence, rec.pf, own (R176, R177) -/

/-- Every live member takes the greatest lt among them (R170). -/
def State.levelLt (s : State) (ck : Nat) : State :=
  s.onThreads (s.liveThreads ck) fun t => { t with lt := s.maxLt (s.liveThreads ck) }

def recFenceOp : CrewOp := fun s ck =>
  if !s.crewDrained ck then .error fun _ => .block .drain
  else match s.gangs.get? (ck / 32) with
    | none => .ok s
    | some x => .ok (((s.levelLt ck).setCore x.core fun c => { c with recs := [] }).finishCrew ck)
def execRecFence (s : State) : Result := collective [] recFenceOp s

/-- rec.pf: a fill that faults or fails its grain is dropped; a line present is kept (log entry 92 for a misaligned VA). -/
def recPfOp (r : KReg16) : CrewOp := fun s ck =>
  if s.kPending ck (k16 r).val then .error fun _ => .block .regs
  else if !s.crewDrained ck then .error fun _ => .block .drain
  else match s.gangs.get? (ck / 32) with
    | none => .ok s
    | some x =>
      let va := (s.kreg ck (k16 r)).toNat
      let s1 := (s.observeK ck (k16 r)).levelLt ck
      let s2 := if va % 64 ≠ 0 ∨ windowBase ≤ va then s1
        else match s1.xlateFill x.core x.aspace va .load (s.replSlot x) with
          | (.ok _, s1) => (s1.readRec x.core x.aspace va (s1.maxLt (s1.liveThreads ck)) (s.replSlot x)).2
          | (_, s1) => s1
      .ok (s2.finishCrew ck)
def execRecPf (r : KReg16) (s : State) : Result := collective [] (recPfOp r) s

/-- own: waits for the tile, then observes the completion of the last copy that owned it. -/
def ownOp (n : MReg) : CrewOp := fun s ck =>
  match s.handle (ck / 32) n.val with
  | none => .error (allTrap cOWNER (BitVec.ofNat 64 n.val))
  | some h =>
    if h.owner.isSome then .error fun _ => .block (.tile [n.val])
    else if !s.crewDrained ck then .error fun _ => .block .drain
    else
      let ts := Nat.max (s.maxLt (s.liveThreads ck)) (h.tsc.getD 0)
      .ok ((s.onThreads (s.liveThreads ck) fun t => { t with lt := ts }).finishCrew ck)
def execOwn (n : MReg) (s : State) : Result := collective [] (ownOp n) s

end Sys2Proof.Machine
end

