-- ==== Sys2Proof/Machine/CopyEngine.lean ====
section
/-! DEFINITION. The copy engine: acceptance, the transfer of a box or an image, and completion (07 R156 to R175, R179, R180,
05 R118 to R125, 12 R293). A transfer is made step by step in box order (log entry 19). -/

namespace Sys2Proof.Machine

/-! ## Records (R156) -/

structure Tsr where
  base : Nat
  ext0 : Nat
  ext1 : Nat
  rstr : Nat
  sbase : Nat
  sstr : Nat
  boxc : Nat
  boxr : Nat
  efmt : Nat
  role : Nat
  planes : Nat
  img : Bool
  strict : Bool
  epoch : Nat
  amode : Nat
  fill : Nat
  rsvd : Bool
  deriving DecidableEq, Repr

def Tsr.ofBytes (l : List Byte) : Tsr :=
  let n := leNat l
  { base := fld n 0 64, ext0 := fld n 64 32, ext1 := fld n 96 32, rstr := fld n 128 48, sbase := fld n 192 64
    sstr := fld n 256 32, boxc := fld n 288 12, boxr := fld n 300 12, efmt := fld n 312 6, role := fld n 318 2
    planes := fld n 320 5, img := bitAt n 325, strict := bitAt n 326, epoch := fld n 328 16, amode := fld n 344 2
    fill := fld n 352 32
    rsvd := fld n 176 16 != 0 || bitAt n 327 || fld n 346 6 != 0 || fld n 384 128 != 0 }

def Tsr.fmt (r : Tsr) : EFmt := (EFmt.ofNat? r.efmt).getD .f32
/-- The storage width of an element in bits (R157). -/
def Tsr.w (r : Tsr) : Nat := r.fmt.store
def Tsr.nc (r : Tsr) : Nat := r.boxc + 1
def Tsr.nr (r : Tsr) : Nat := r.boxr + 1
def Tsr.isB (r : Tsr) : Bool := r.role == 2
/-- The K extent of the box, and its K-vectors. -/
def Tsr.kExt (r : Tsr) : Nat := if r.isB then r.nr else r.nc
def Tsr.vecs (r : Tsr) : Nat := if r.isB then r.nc else r.nr
/-- The row bytes of the box in a pad (R174). -/
def Tsr.padRow (r : Tsr) : Nat := (r.nc * r.w + 63) / 64 * 8

/-- The origin: column and row of the box's first element (R157). -/
def originC (o : Word) : Int := sxInt o.toNat 32
def originR (o : Word) : Int := sxInt (o.toNat / 2 ^ 32) 32

/-- Whether box element (i, j) is in bounds (R157). -/
def Tsr.inB (r : Tsr) (o : Word) (i j : Nat) : Bool :=
  decide (0 ≤ originR o + i ∧ originR o + i < r.ext1 ∧ 0 ≤ originC o + j ∧ originC o + j < r.ext0)

/-- The bit of memory where box element (i, j) begins (R157). -/
def Tsr.bitVa (r : Tsr) (o : Word) (i j : Nat) : Nat :=
  8 * (r.base + (originR o + i).toNat * r.rstr) + (originC o + j).toNat * r.w

/-- The VA of the scale of the block that holds element (i, j) (R157). -/
def Tsr.scaleVa (r : Tsr) (o : Word) (i j : Nat) : Nat :=
  let c := (originC o + j).toNat
  let q := (originR o + i).toNat
  if r.isB then r.sbase + q / 32 * r.sstr + c else r.sbase + q * r.sstr + c / 32

/-- The header that cp.in and cp.mc write (R165). -/
def Tsr.hdr (r : Tsr) : Hdr := mkHdr r.boxr r.boxc r.fmt r.role r.epoch r.planes (r.sbase != 0)

def CopyOp.isAdd : CopyOp → Bool | .cpOutAdd | .mdrainAdd => true | _ => false
def CopyOp.isPad : CopyOp → Bool | .cpPad | .cpPadOut => true | _ => false
def CopyOp.isOut : CopyOp → Bool | .cpOut | .cpOutAdd | .mdrain | .mdrainAdd => true | _ => false

/-! ## Checks of a record (R159) -/

/-- Reserved values (0x02); BASE[63:57] is not among them (log entry 91). -/
def Tsr.bad02 (r : Tsr) (op : CopyOp) (aux : Word) : Bool :=
  r.rsvd || (!r.img && ((EFmt.ofNat? r.efmt).isNone || decide (17 ≤ r.planes) || r.amode == 3))
  || (op == .cpMc && fld aux.toNat 8 56 != 0) || (op.isPad && fld aux.toNat 36 28 != 0)

/-- Unsupported combinations (0x03); `th`: the header of the tile that leaves. -/
def Tsr.bad03 (r : Tsr) (op : CopyOp) (th : Hdr) : Bool :=
  if r.img then op.isPad || op == .cpFill || op.isAdd
  else (r.planes != 0 && (!planesOk r.fmt r.planes || op.isPad || op.isOut))
    || (r.sbase != 0 && (!r.fmt.isMx || op.isPad || op.isOut))
    || (r.amode != 0 && !op.isAdd)
    || (op.isOut && (th.layout != 0 || th.sparse != 0 || th.scale != 0 || th.efmt != r.efmt ||
        th.rows != r.boxr || th.cols != r.boxc))
    || (op.isAdd && !(r.fmt == .f32 || r.fmt == .s32))

/-- Misaligned data (0x04). -/
def Tsr.bad04 (r : Tsr) (op : CopyOp) (o aux : Word) : Bool :=
  if r.img then r.base % 32 != 0
  else
    let k := if r.isB then originR o else originC o
    (r.planes == 0 && (r.base % 8 != 0 || r.rstr % 8 != 0 || originC o * r.w % 64 != 0))
    || originC o * r.w % 8 != 0 || (op.isPad && fld aux.toNat 0 32 % 8 != 0) || (r.sbase != 0 && k % 32 != 0)

/-- Whether some box element is out of bounds. -/
def Tsr.clips (r : Tsr) (o : Word) : Bool := !(r.inB o 0 0 && r.inB o r.boxr r.boxc)

/-- The first failing reason of R159 but those that need an image header; `room`: bytes of the destination region;
`pad`: whether the pad range is there. -/
def Tsr.reason (r : Tsr) (op : CopyOp) (va : Nat) (o aux : Word) (th : Hdr) (room : Option Nat) (pad : Bool) : Option Nat :=
  (([ (va % 64 != 0, 1), (r.bad02 op aux, 2), (r.bad03 op th, 3), (r.bad04 op o aux, 4)
    , (!r.img && r.strict && r.clips o, 5)
    , (!r.img && (match room with | some n => decide (n < r.hdr.size) | none => false), 6), (!pad, 7)
    , (!r.img && decide (16777215 < r.nr * r.nc), 8)
    , (!r.img && (r.planes != 0 || r.sbase != 0) && r.kExt % 32 != 0, 9) ] : List (Bool × Nat)).find? (·.1)).map (·.2)

/-! ## Accesses -/

/-- A transfer under way: the state and the greatest timestamp. -/
structure Xf where
  s : State
  ts : Nat

/-- Why a transfer goes no further: an access that needs a walk, or an end with STATUS and CODE and what failed; `part`: after a part of
the step, up to element `n`. -/
inductive CFail where
  | walk (va : Nat) (k : AccKind)
  | stop (status code : Nat) (dmg : Option (Byte × Nat))
  | part (x : Xf) (n status code : Nat) (dmg : Option (Byte × Nat))

/-- What the engine needs to reach memory: core, address space, launch slot of a replayable launch, ts_i, the copy. `blind`: it
looks for what it would have written, and takes a free value where it cannot read (R169, log entry 19). -/
structure Eng where
  core : Nat
  aspace : Nat
  repl : Option Nat
  b : Nat
  copy : Nat
  blind : Bool

/-- The end that a failing granule gives (R167); `home`: its PA if it has a home here. -/
def grainFail (c : Byte) (home : Option Nat) (detail : Nat) : CFail :=
  if c = 0x31 then .stop 1 0x31 (home.map (c, ·)) else .stop 4 detail (home.map (c, ·))

/-- A translated access (R169, 07 R183). A miss waits for a walk (04 R99), which reports what it finds. -/
def Eng.trans (e : Eng) (x : Xf) (va : Nat) (k : AccKind) : Except CFail (Target × Xf) :=
  let target (t : TlbEntry) : Target := ⟨t.place va e.core, leafKey t.leaf, leafRep t.leaf, leafComp t.leaf⟩
  if windowBase ≤ va then .error (.stop 1 0x10 none)
  else match x.s.tlbLook e.core none e.aspace va k e.repl with
    | some t => .ok (target t, x)
    | none =>
      if !e.blind then .error (.walk va k)
      else match x.s.xlateFill e.core e.aspace va k e.repl with
        | (.ok t, s) => .ok (target t, { x with s })
        | _ => .error (.stop 1 0x10 none)

/-- A peer's answer to the engine: performed, or an error (19 R404); from the atomic unit of a Vilza target (`unit`) also a refused
granule (R405). Without an assigned device ID every answer is an error. -/
def State.peerEnd (x : Xf) (unit : Bool) : Except CFail Xf :=
  if !x.s.host.ualValid then .error (.stop 1 0x11 none)
  else
    let (c, s) := x.s.pick (if unit then 3 else 2)
    if c = 0 then .ok { x with s } else if c = 1 then .error (.stop 1 0x11 none) else .error (.stop 4 0x03 none)

/-- A granule that the engine has read: as it came, with the address its grain is made for, and its PA if it has a home here. -/
structure ReadGran where
  g : Gran
  gpa : Nat
  home : Option Nat

/-- The granule that holds a VA. -/
def Eng.read (e : Eng) (x : Xf) (va : Nat) : Except CFail (ReadGran × Xf) :=
  let take (g : Gran) (gpa : Nat) (home : Option Nat) (x : Xf) : Except CFail (ReadGran × Xf) :=
    if g.poison && !e.blind then .error (grainFail 0x31 home 0x02) else .ok (⟨{ g with poison := false }, gpa, home⟩, x)
  let found : Except CFail (ReadGran × Xf) :=
    match e.trans x va .load with
    | .error f => .error f
    | .ok (t, x) =>
      match t.place with
      | .dev pa gpa =>
        let (r, s) := x.s.lineLoad (pa / 64) t.key e.b
        take (r.line.getD (pa / 8 % 8) ⟨0, 0, true⟩) (gpa / 8 * 8) (some (pa / 8 * 8)) ⟨s, Nat.max x.ts (Nat.max e.b r.wts)⟩
      | .peer pa => match x.s.peerRead pa 1 with
        | (some ((a, g) :: _), s) => take g a none { x with s }
        | _ => .error (.stop 1 0x11 none)
      | .pad _ _ => .error (.stop 1 0x10 none)
  match found with
  | .ok r => .ok r
  | .error f =>
    if e.blind then
      .ok (⟨Gran.mk' (Config.freeWord x.s.free) 0, 0, none⟩, { x with s := { x.s with free := x.s.free + 1 } })
    else .error f

/-- What the check of a granule read by a party or producer finds (R167). -/
def Eng.checkRead (e : Eng) (r : ReadGran) : Except CFail Unit :=
  match r.g.check r.gpa with
  | some c => if e.blind then .ok () else .error (grainFail c r.home 0x02)
  | none => .ok ()

/-- The same, with the check of a party or producer. -/
def Eng.readChecked (e : Eng) (x : Xf) (va : Nat) : Except CFail (Gran × Xf) :=
  match e.read x va with
  | .error f => .error f
  | .ok (r, x) => (e.checkRead r).map fun _ => (r.g, x)

/-- `n` bytes from a VA, checked, as a number. -/
def Eng.readBytes (e : Eng) (x : Xf) (va : Nat) : Nat → Except CFail (Nat × Xf)
  | 0 => .ok (0, x)
  | n + 1 =>
    match e.readBytes x va n with
    | .error f => .error f
    | .ok (v, x) => match e.readChecked x (va + n) with
      | .error f => .error f
      | .ok (g, x) => .ok (v + (g.byte ((va + n) % 8)).toNat * 256 ^ n, x)

/-- The update of the other die's copy of a replicated page (05 R121). Where the other die has stored to a granule without a
fence of its writers since, this copy keeps an arbitrary one of the two values (R122). -/
def State.replicate (s : State) (t : Target) (pa gpa : Nat) (w : List (Nat × Gran)) (ts1 : Nat) (threads : List Nat)
    (copy : Option Nat) : State :=
  if t.rep then
    let die := 1 - dieOf pa
    let r : Replica :=
      { die, line := (gpa + die * dieBytes) / 64, gr := w, key := t.key, comp := t.comp, ts1, ts2 := none, threads, copy }
    let s := { s with nextId := s.nextId + 1, replicas := s.replicas.set s.nextId r }
    w.foldl (fun s g => (s.unfenced (dieOf pa) (pa / 64) (gpa / 64 * 8 + g.1) g.1).markRep
      ⟨dieOf pa, gpa / 64 * 8 + g.1, g.2, threads, copy⟩) s
  else s

/-- Writes whole granules from a VA up, within one line: each as a function of its grain address. -/
def Eng.write (e : Eng) (x : Xf) (va : Nat) (gs : List (Nat → Gran)) : Except CFail Xf :=
  match e.trans x va .store with
  | .error f => .error f
  | .ok (t, x) =>
    match t.place with
    | .dev pa gpa =>
      let w := gs.zipIdx.map fun g => (pa / 8 % 8 + g.2, g.1 (gpa / 8 * 8 + 8 * g.2))
      let (ts, s) := x.s.lineStore (pa / 64) t.key t.comp w e.b
      .ok ⟨s.replicate t pa gpa w ts [] (some e.copy), Nat.max x.ts ts⟩
    | .peer pa =>
      let send (s : State) (g : (Nat → Gran) × Nat) : State :=
        s.peerSend e.core (pa + 8 * g.2) (g.1 (fld pa 0 41 / 8 * 8 + 8 * g.2))
      State.peerEnd { x with s := gs.zipIdx.foldl send x.s } false
    | .pad _ _ => .error (.stop 1 0x10 none)

/-- Merges bits into a granule of memory at the L2 atomic unit (R167, 02 R48): `f` gives the new data from the old. -/
def Eng.merge (e : Eng) (x : Xf) (va : Nat) (f : Word → Word) : Except CFail Xf :=
  match e.trans x va .store with
  | .error f => .error f
  | .ok (t, x) =>
    match t.place with
    | .dev pa gpa =>
      let a := gpa / 8 * 8
      let s := ((x.s.fillLine (pa / 64)).readyLine (pa / 64) t.key t.comp false)
      match ((s.line (pa / 64)).gr.getD (pa / 8 % 8) ⟨0, 0, true⟩) with
      | g => match g.check a with
        | some c => .error (grainFail c (some (pa / 8 * 8)) 0x03)
        | none =>
          let w := [(pa / 8 % 8, Gran.mk' (f g.data) a)]
          let (ts, s) := s.lineStore (pa / 64) t.key t.comp w e.b
          .ok ⟨s.replicate t pa gpa w ts [] (some e.copy), Nat.max x.ts ts⟩
    | .peer pa => State.peerEnd x (vilzaPa pa)
    | .pad _ _ => .error (.stop 1 0x10 none)

/-- Adds one element of 32 bits as an atomic of scope .dev (R173, 05 R118, R120). A foreign target answers with an error and DONE = 0
(19 R405). -/
def Eng.add (e : Eng) (x : Xf) (va : Nat) (f : Word → Nat) : Except CFail Xf :=
  match e.trans x va .atomic with
  | .error f => .error f
  | .ok (t, x) =>
    if t.rep then .error (.stop 1 0x11 none)
    else match t.place with
      | .dev pa gpa =>
        match (x.s.recallLine (pa / 64)).atomLine pa gpa t.key .w32 f .dev 0 .none e.b with
        | .ok (_, ts, s) => .ok ⟨s, Nat.max x.ts ts⟩
        | .error (c, p) => .error (if c = cSCOPE then .stop 1 0x13 none else grainFail c p 0x03)
      | .peer pa => if vilzaPa pa then State.peerEnd x true else .error (.part x 0 1 0x11 none)
      | .pad _ _ => .error (.stop 1 0x10 none)

/-! ## Box order -/

/-- The steps of a transfer in box order, each with the count of elements before it. -/
abbrev Items := List (Nat × (Xf → Except CFail Xf))

/-- Puts a granule into the pool at each of several PAs; `g` gives it at its grain address. -/
def State.putPool (s : State) (l : List Nat) (g : Nat → Gran) : State :=
  { s with pool := l.foldl (fun m a => m.setGran (a / 8) (g a)) s.pool }

/-- The first box column of granule `q`, and the columns of the box that it holds. -/
def Tsr.granCols (r : Tsr) (q : Nat) : List Nat :=
  ((List.range (64 / r.w)).map (q * (64 / r.w) + ·)).filter (· ≤ r.boxc)

/-- The bits of column `j` within its granule. -/
def Tsr.colBit (r : Tsr) (j : Nat) : Nat := j % (64 / r.w) * r.w

/-- A word with `n` bits replaced. -/
def putBits (w : Word) (bit n v : Nat) : Word :=
  BitVec.ofNat 64 (w.toNat - fld w.toNat bit n * 2 ^ bit + v % 2 ^ n * 2 ^ bit)

/-- One granule of a box copied without conversion into the pool (R166, R167): `dst` its PAs. -/
def Eng.inGran (e : Eng) (r : Tsr) (o : Word) (i q : Nat) (dst : List Nat) (x : Xf) : Except CFail Xf :=
  let cols := r.granCols q
  let ins := cols.filter (r.inB o i ·)
  let fillAll : Word := cols.foldl (fun w j => putBits w (r.colBit j) r.w (r.fill % 2 ^ r.fmt.width)) 0
  match ins with
  | [] => .ok { x with s := x.s.putPool dst (Gran.mk' fillAll) }
  | j0 :: _ =>
    match e.read x (r.bitVa o i j0 / 8) with
    | .error f => .error f
    | .ok (u, x) =>
      if ins.length = 64 / r.w then .ok { x with s := x.s.putPool dst fun a => u.g.rebase u.gpa a }
      else (e.checkRead u).map fun _ =>
        let w := ins.foldl (fun w j => putBits w (r.colBit j) r.w (fld u.g.data.toNat (r.colBit j) r.w)) fillAll
        { x with s := x.s.putPool dst (Gran.mk' w) }

/-- The count of elements before granule (i, q)'s first element that is read. -/
def Tsr.before (r : Tsr) (o : Word) (i q : Nat) : Nat :=
  i * r.nc + ((r.granCols q).find? (r.inB o i ·)).getD (q * (64 / r.w))

/-- The receivers of a transfer into tiles: each gang with its handle. -/
abbrev Dests := List (Gang × Handle)

/-- Writes bytes into the tile of every receiver. -/
def State.putTiles (s : State) (ds : Dests) (off : Nat) (l : List Byte) : State :=
  ds.foldl (fun s d => s.tileWrite d.1 d.2 off l) s

/-- The scale byte of the block that holds element (i, j): read if some element of the block is in bounds; the spec states
no byte for a block that lies wholly outside (a free value). -/
def Eng.scale (e : Eng) (r : Tsr) (o : Word) (i j : Nat) (anyIn : Bool) (x : Xf) : Except CFail (Nat × Xf) :=
  if anyIn then e.readBytes x (r.scaleVa o i j) 1
  else .ok ((Config.freeWord x.s.free).toNat % 256, { x with s := { x.s with free := x.s.free + 1 } })

/-- Whether some element of block `b` of K-vector `v` is in bounds. -/
def Tsr.blockIn (r : Tsr) (o : Word) (v b : Nat) : Bool :=
  (List.range 32).any fun p => if r.isB then r.inB o (32 * b + p) v else r.inB o v (32 * b + p)

/-- The scale bytes that begin in granule (i, q) of an element-layout tile. -/
def Eng.scaleItems (e : Eng) (r : Tsr) (o : Word) (i q : Nat) (ds : Dests) : Items :=
  if r.sbase = 0 then []
  else (r.granCols q).filterMap fun j =>
    let (v, k) := if r.isB then (j, i) else (i, j)
    if k % 32 = 0 then
      some (i * r.nc + j, fun x => match e.scale r o i j (r.blockIn o v (k / 32)) x with
        | .error f => .error f
        | .ok (c, x) => .ok { x with s := x.s.putTiles ds (r.hdr.scaleAt v (k / 32)) [BitVec.ofNat 8 c] })
    else none

/-- cp.in and cp.mc without conversion. -/
def Eng.inItems (e : Eng) (r : Tsr) (o : Word) (ds : Dests) : Items :=
  let h := r.hdr
  (List.range r.nr).flatMap fun i => (List.range (4 * h.pitch)).flatMap fun q =>
    (r.before o i q, e.inGran r o i q (ds.map fun d => d.1.tilePa (d.2.off + 32 + i * h.pitch * 32 + 8 * q))) ::
      e.scaleItems r o i q ds

/-- The raw bits of box element (i, j): FILL where it is clipped. -/
def Eng.raw (e : Eng) (r : Tsr) (o : Word) (i j : Nat) (x : Xf) : Except CFail (Nat × Xf) :=
  if r.inB o i j then
    let bit := r.bitVa o i j
    match e.readBytes x (bit / 8) ((bit % 8 + r.w + 7) / 8) with
    | .error f => .error f
    | .ok (n, x) => .ok (fld n (bit % 8) r.fmt.width, x)
  else .ok (r.fill % 2 ^ r.fmt.width, x)

/-- The raw bits of the elements of a list of places. -/
def Eng.raws (e : Eng) (r : Tsr) (o : Word) : List (Nat × Nat) → Xf → Except CFail (List Nat × Xf)
  | [], x => .ok ([], x)
  | p :: l, x => match e.raw r o p.1 p.2 x with
    | .error f => .error f
    | .ok (n, x) => match e.raws r o l x with
      | .error f => .error f
      | .ok (ns, x) => .ok (n :: ns, x)

/-- One block of a conversion to planes (R171, 02 R33, R34). -/
def Eng.planeItem (e : Eng) (r : Tsr) (o : Word) (ds : Dests) (v b : Nat) (x : Xf) : Except CFail Xf :=
  let h := r.hdr
  let places := (List.range 32).map fun p => if r.isB then (32 * b + p, v) else (v, 32 * b + p)
  match e.raws r o places x with
  | .error f => .error f
  | .ok (ns, x) =>
    let put (s : State) (ws : List Nat) : State :=
      (ws.zipIdx).foldl (fun s w => s.putTiles ds (h.planeAt v b w.2) (leBytes 4 w.1)) s
    if r.fmt.isFloat then
      let anyIn := r.blockIn o v b
      let sc : Except CFail (Option Nat × Xf) :=
        if r.sbase ≠ 0 && anyIn then
          match e.readBytes x (let p := if r.isB then (32 * b, v) else (v, 32 * b); r.scaleVa o p.1 p.2) 1 with
          | .error f => .error f
          | .ok (c, x) => .ok (some c, x)
        else .ok (none, x)
      match sc with
      | .error f => .error f
      | .ok (c, x) =>
        let (d, us) := planeBlock (ns.map (decodeEl r.fmt)) r.planes c
        .ok { x with s := (put x.s (planeWords us r.planes)).putTiles ds (h.scaleAt v b) [BitVec.ofNat 8 d] }
    else .ok { x with s := put x.s (planeWords (ns.map (intEl r.fmt)) r.planes) }

/-- cp.in and cp.mc with conversion to planes. -/
def Eng.planeItems (e : Eng) (r : Tsr) (o : Word) (ds : Dests) : Items :=
  (List.range r.vecs).flatMap fun v => (List.range (r.kExt / 32)).map fun b =>
    (32 * (v * (r.kExt / 32) + b), e.planeItem r o ds v b)

/-- A tile image into tiles. The reserved bytes 16 to 31 of its header are ignored and written as zero (02 R36). -/
def Eng.imgIn (e : Eng) (base n : Nat) (ds : Dests) : Items :=
  (List.range n).map fun i => (i, fun x => match e.read x (base + 8 * i) with
    | .error f => .error f
    | .ok (u, x) =>
      if i = 2 ∨ i = 3 then .ok { x with s := x.s.putPool (ds.map fun d => d.1.tilePa (d.2.off + 8 * i)) (Gran.mk' 0) }
      else .ok { x with s := x.s.putPool (ds.map fun d => d.1.tilePa (d.2.off + 8 * i)) fun a => u.g.rebase u.gpa a })

/-- A granule of the pool at a PA; a poisoned one ends the copy (R167). -/
def Xf.poolGran (x : Xf) (a : Nat) : Except CFail Gran :=
  let g := x.s.poolGran a
  if g.poison then .error (.stop 1 0x31 (some (0x31, a))) else .ok g

/-- A granule that leaves the pool, with the count of elements before it: a whole granule of memory at a VA, or a merge into one. -/
inductive Piece where
  | whole (n va : Nat) (src : Xf → Except CFail (Nat → Gran))
  | merge (n : Nat) (f : Xf → Except CFail Xf)

def Piece.before : Piece → Nat | .whole n _ _ | .merge n _ => n

/-- Whether a list of granules begins with the eight of a memory line. -/
def startsLine (l : List Piece) : Bool :=
  match l.head? with
  | some (.whole _ va _) => va % 64 == 0 && decide (8 ≤ l.length) && (l.take 8).zipIdx.all fun p => match p.1 with
      | .whole _ v _ => v == va + 8 * p.2
      | .merge _ _ => false
  | _ => false

/-- The granules of a list up to the first that cannot be read, with that one's element and failure. -/
def gather (x : Xf) : List Piece → List (Nat → Gran) × Option (Nat × CFail)
  | .whole n _ src :: r => match src x with
    | .ok g => let q := gather x r; (g :: q.1, q.2)
    | .error f => ([], some (n, f))
  | _ => ([], none)

/-- Writes granules of one line together: the home slice receives what precedes the first failing element (R169, 13 R298). -/
def Eng.writeRun (e : Eng) (ps : List Piece) (x : Xf) : Except CFail Xf :=
  match gather x ps, ps.head? with
  | ([], some (_, f)), _ => .error f
  | (gs, bad), some (.whole _ va _) => match e.write x va gs, bad with
    | .ok y, some (n, .stop st cd d) => .error (.part y n st cd d)
    | r, _ => r
  | _, _ => .ok x

/-- The steps of leaving granules: those that make up a memory line go together. -/
def Eng.pieceItems (e : Eng) : Nat → List Piece → Items
  | 0, _ | _, [] => []
  | n + 1, p :: r =>
    if startsLine (p :: r) then (p.before, e.writeRun ((p :: r).take 8)) :: e.pieceItems n (r.drop 7)
    else (match p with
      | .whole k _ _ => (k, e.writeRun [p])
      | .merge k f => (k, f)) :: e.pieceItems n r

/-- A tile image out of a tile. A last granule that the image covers in part is written whole. DESIGN CHOICE (log entry 100). -/
def Eng.imgOut (e : Eng) (base n : Nat) (y : Gang) (h : Handle) : Items :=
  e.pieceItems n ((List.range n).map fun i =>
    let a := y.tilePa (h.off + 8 * i)
    .whole i (base + 8 * i) fun x => (x.poolGran a).map fun g gpa => if i = 2 ∨ i = 3 then Gran.mk' 0 gpa else g.rebase a gpa)

/-- An access of a copy to the pad of a gang takes its clock (05 R115). -/
def Eng.padTick (e : Eng) (pad : Option Nat) (x : Xf) : Xf :=
  match pad with
  | none => x
  | some m => let (ts, s) := x.s.padTick m e.b; ⟨s, Nat.max x.ts ts⟩

/-- One granule of a box out of the pool: written whole or merged (R167, 13 R301). -/
def Eng.outPiece (e : Eng) (r : Tsr) (o : Word) (i q : Nat) (ins : List Nat) (a : Nat) : Piece :=
  let va := r.bitVa o i (ins.headD 0) / 8
  if ins.length = 64 / r.w then .whole (r.before o i q) va fun x => (x.poolGran a).map fun g gpa => g.rebase a gpa
  else .merge (r.before o i q) fun x => match x.poolGran a with
    | .error f => .error f
    | .ok g => match g.check a with
      | some c => .error (grainFail c (some a) 0x03)
      | none => e.merge x va fun old =>
          ins.foldl (fun w j => putBits w (r.colBit j) r.w (fld g.data.toNat (r.colBit j) r.w)) old

/-- cp.out, mdrain and cp.pad.out: `src` gives the PA of a granule of the box, `pad` the gang whose pad it lies in. -/
def Eng.outItems (e : Eng) (r : Tsr) (o : Word) (grans : Nat) (src : Nat → Nat → Nat) (pad : Option Nat) : Items :=
  (e.pieceItems (r.nr * grans) ((List.range r.nr).flatMap fun i => (List.range grans).filterMap fun q =>
    let ins := (r.granCols q).filter (r.inB o i ·)
    if ins.isEmpty then none else some (e.outPiece r o i q ins (src i q)))).map fun p => (p.1, fun x => p.2 (e.padTick pad x))

/-- The new value of an added element (R173). -/
def addNew32 (f : EFmt) (amode : Nat) (t : Nat) (old : Word) : Nat :=
  let v := low .w32 old
  match f with
  | .f32 =>
    if amode = 0 then (fmt32.addP .rne (fmt32.decode v) (fmt32.decode t)).1
    else (fmt32.minmax (amode == 1) v t).1
  | _ => atomNew (if amode = 0 then .add else if amode = 1 then .maxS else .minS) .w32 old (BitVec.ofNat 64 t) 0

/-- cp.out.add and mdrain.add. -/
def Eng.addItems (e : Eng) (r : Tsr) (o : Word) (src : Nat → Nat → Nat) : Items :=
  (cells r.nr r.nc).filterMap fun p =>
    if r.inB o p.1 p.2 then
      some (p.1 * r.nc + p.2, fun x =>
        let a := src p.1 (p.2 / 2)
        match x.poolGran a with
        | .error f => .error f
        | .ok g => match g.check a with
          | some c => .error (grainFail c (some a) 0x03)
          | none => e.add x (r.bitVa o p.1 p.2 / 8) (addNew32 r.fmt r.amode (fld g.data.toNat (r.colBit p.2) 32)))
    else none

/-! ## One copy -/

/-- What a step of a copy comes to: it goes on, waits for a walk, lands with STATUS, CODE, E, REFUSED and its greatest
timestamp, or fails with STATUS, CODE and the count of elements performed (R168, R169). -/
inductive CStep where
  | go (s : State) (x : Xfer)
  | walk (s : State) (va : Nat) (k : AccKind)
  | land (s : State) (status code e refused ts : Nat)
  | fail (s : State) (status code e : Nat) (dmg : Option (Byte × Nat))

/-- The token's status word (R168). -/
def tokenWord (status code e refused : Nat) : Word :=
  BitVec.ofNat 64 (status + e % 2 ^ 24 * 2 ^ 8 + code * 2 ^ 32 + refused * 2 ^ 56)

/-- The receivers of a multicast and the mask of those refused at acceptance, but for the size of the tile (R172). -/
def State.mcDests (s : State) (g : Gang) (gk id n : Nat) (mask : Word) : List (Nat × Gang × Handle) × Nat :=
  (List.range 8).foldl (fun (acc : List (Nat × Gang × Handle) × Nat) i =>
    if mask.getLsbD i then
      let core := 8 * clusterOf g.core + i
      let mate := if core = g.core then some gk else s.spanMate g core
      match mate with
      | none => (acc.1, acc.2 + 2 ^ i)
      | some m => match s.gangs.get? m with
        | none => (acc.1, acc.2 + 2 ^ i)
        | some y => match y.handles.get? n with
          | none => (acc.1, acc.2 + 2 ^ i)
          | some h =>
            if h.owner.isSome && h.owner != some id then (acc.1, acc.2 + 2 ^ i)
            else (acc.1 ++ [(m, y, h)], acc.2)
    else acc) ([], 0)

/-- Whether a pad range is there (0x07): the gang and the pad offset. -/
def State.padTarget (s : State) (g : Gang) (gk : Nat) (p : Word) (bytes : Nat) : Option (Nat × Gang × Nat) :=
  let off := fld p.toNat 0 32
  let core := 8 * clusterOf g.core + fld p.toNat 32 3
  let mate := if p.getLsbD 35 && core != g.core then s.spanMate g core else some gk
  match mate with
  | none => none
  | some m => match s.gangs.get? m with
    | none => none
    | some y => if off + bytes ≤ y.kernel.pad then some (m, y, off) else none

/-- The first `n` granules of a tile. -/
def State.tileFirst (s : State) (y : Gang) (h : Handle) (n : Nat) : List Gran :=
  (List.range n).map fun i => s.poolGran (y.tilePa (h.off + 8 * i))

/-- The owner of handle `n` of each gang of a list. -/
def State.setOwner (s : State) (n : Nat) (o : Option Nat) (l : List (Nat × Gang × Handle)) : State :=
  l.foldl (fun s d => s.modG d.1 fun y => { y with handles := y.handles.modify n fun h => { h with owner := o } }) s

/-- Readies the tiles of an incoming copy: zero from byte 32 on. -/
def State.startTiles (s : State) (l : List (Nat × Gang × Handle)) (size : Nat) : State :=
  l.foldl (fun s d => s.tileWrite d.2.1 d.2.2 32 (List.replicate (size - 32) 0)) s

/-- At its acceptance a multicast tests its receivers and makes their handles ENGINE-owned (R164, R172). -/
def State.claimDests (s : State) (id : Nat) : State :=
  match s.copies.get? id with
  | none => s
  | some c => match c.op, s.gangs.get? c.gang with
    | .cpMc, some g =>
      let d := s.mcDests g c.gang id c.handle c.aux
      { s.setOwner c.handle (some id) d.1 with
        copies := s.copies.set id { c with xfer := { c.xfer with dests := d.1, refused := d.2 } } }
    | _, _ => s

/-- Whether a receiver still has its tile: one whose gang has gone has none. -/
def State.liveDest (s : State) (id n : Nat) (d : Nat × Gang × Handle) : Bool :=
  match s.gangs.get? d.1 with
  | some y => match y.handles.get? n with | some h => h.owner == some id | none => false
  | none => false

/-- The tiles that a copy still writes. -/
def State.liveDests (s : State) (id n : Nat) (x : Xfer) : Dests := (x.dests.filter (s.liveDest id n)).map (·.2)

/-- The bytes of the tile image or tile that arrives. -/
def Xfer.tileSize (x : Xfer) (r : Tsr) : Nat :=
  ((match x.hdr with | some b => (Hdr.ofBits b).size | none => r.hdr.size) + 7) / 8 * 8

/-- The header of the tile that a copy names. -/
def State.copyHdr (s : State) (c : Copy) (g : Gang) : Handle × Hdr :=
  let h := (g.handles.get? c.handle).getD ⟨0, 0, none, none⟩
  (h, Hdr.ofBits (s.hdrBits g h))

/-- The steps of a started copy in box order. -/
def State.copyItems (s : State) (e : Eng) (id : Nat) (c : Copy) (g : Gang) (r : Tsr) (x : Xfer) : Items :=
  let o := c.origin
  let ds := s.liveDests id c.handle x
  let (h, th) := s.copyHdr c g
  let src (i q : Nat) : Nat := g.tilePa (h.off + 32 + i * th.pitch * 32 + 8 * q)
  match c.op with
  | .cpIn | .cpMc =>
    if r.img then e.imgIn r.base (x.tileSize r / 8) ds
    else if r.planes = 0 then e.inItems r o ds else e.planeItems r o ds
  | .cpOut | .mdrain => if r.img then e.imgOut r.base ((th.size + 7) / 8) g h else e.outItems r o (4 * th.pitch) src none
  | .cpOutAdd | .mdrainAdd => e.addItems r o src
  | .cpPad | .cpPadOut =>
    match x.pad with
    | none => []
    | some (m, y) =>
      let at' (i q : Nat) : Nat := y.padPa (fld c.aux.toNat 0 32 + i * r.padRow + 8 * q)
      if c.op = .cpPad then
        (List.range r.nr).flatMap fun i => (List.range (r.padRow / 8)).map fun q =>
          (r.before o i q, fun x => (e.inGran r o i q [at' i q] x).map (e.padTick (some m)))
      else e.outItems r o (r.padRow / 8) at' (some m)
  | .cpFill => []

/-- The elements of a copy (R168). -/
def State.copyTotal (s : State) (c : Copy) (g : Gang) (r : Tsr) (x : Xfer) : Nat :=
  if !r.img then r.nr * r.nc
  else match c.op with
    | .cpIn | .cpMc => x.tileSize r / 8
    | _ => ((s.copyHdr c g).2.size + 7) / 8

/-- The checks of a record, and what follows from it before the first element (R159, R172, R166): a tile image's header is read
and checked first (0x0A); receivers of a multicast whose region is too small give their handle back. -/
def State.startCopy (s : State) (e : Eng) (c : Copy) (g : Gang) (r : Tsr) (x : Xfer) : CStep :=
  let (h, th) := s.copyHdr c g
  let pt := s.padTarget g c.gang c.aux (r.nr * r.padRow)
  let room := if c.op = .cpIn then some (1024 * h.kib) else none
  let tiles := c.op = .cpIn ∨ c.op = .cpMc
  match r.reason c.op c.recVa.toNat c.origin c.aux th room (!(c.op.isPad && !r.img) || pt.isSome) with
  | some n => .land s 3 n 0 x.refused x.ts
  | none =>
    if windowBase ≤ r.base ∨ (!r.img && decide (windowBase ≤ r.sbase)) = true then .fail s 1 0x10 0 none
    else if tiles ∧ r.img = true ∧ x.hdr = none then
      match e.read ⟨s, x.ts⟩ r.base with
      | .error (.walk va k) => .walk s va k
      | .error (.stop st cd d) | .error (.part _ _ st cd d) => .fail s st cd 0 d
      | .ok (u0, y) => match e.read y (r.base + 8) with
        | .error (.walk va k) => .walk s va k
        | .error (.stop st cd d) | .error (.part _ _ st cd d) => .fail s st cd 0 d
        | .ok (u1, y) =>
          let b := BitVec.ofNat 128 (u0.g.data.toNat + u1.g.data.toNat * 2 ^ 64)
          if !hdrOk b then .land y.s 3 0x0A 0 x.refused y.ts
          else if (match room with | some k => decide (k < (Hdr.ofBits b).size) | none => false) then .land y.s 3 6 0 0 y.ts
          else .go y.s { x with hdr := some b, ts := y.ts }
    else if tiles then
      let size := x.tileSize r
      let all := if c.op = .cpMc then x.dests else [(c.gang, g, h)]
      let dests := all.filter fun d => c.op != .cpMc || decide (size ≤ 1024 * d.2.2.kib)
      let small := all.filter fun d => c.op == .cpMc && decide (1024 * d.2.2.kib < size)
      let refused := small.foldl (fun n d => n + 2 ^ (d.2.1.core % 8)) x.refused
      let s := s.setOwner c.handle none small
      if dests.isEmpty then .land s 2 0 0 refused x.ts
      else .go (s.startTiles dests size)
        { x with started := true, dests, refused, olds := dests.map fun u => s.tileFirst u.2.1 u.2.2 (size / 8) }
    else if c.op.isPad then
      match pt with
      | none => .land s 3 7 0 0 x.ts
      | some (m, y, _) => .go s { x with started := true, pad := some (m, y) }
    else .go s { x with started := true }

/-- ts_c of a copy is the greatest of its times so far (05 R125). -/
def State.copyTime (s : State) (id ts : Nat) : State :=
  { s with copies := s.copies.modify id fun c => { c with tsc := Nat.max c.tsc ts } }

/-- mdrain leaves zero elements behind when it ends with status 0 (12 R293). -/
def State.drained (s : State) (c : Copy) (g : Gang) : State :=
  match c.op.isDrain, g.handles.get? c.handle with
  | true, some h => s.tileWrite g h 32 (List.replicate ((Hdr.ofBits (s.hdrBits g h)).dataEnd - 32) 0)
  | _, _ => s

/-- A transfer whose last element is done: the header of a tile in elements or planes, and the end (R165, R168). -/
def State.finishXfer (s : State) (id : Nat) (c : Copy) (g : Gang) (r : Tsr) (x : Xfer) : CStep :=
  let n := s.copyTotal c g r x
  let s := match c.op, r.img with
    | .cpIn, false | .cpMc, false =>
      (s.liveDests id c.handle x).foldl
        (fun (s : State) (d : Gang × Handle) => s.putHdr d.1 d.2 (hdrSeal r.hdr.bits.toNat)) s
    | _, _ => s
  .land (s.drained c g) (if x.refused = 0 then 0 else 2) 0 n x.refused x.ts

/-- cp.fill: a value to every granule of the element data (R175). -/
def State.runFill (s : State) (c : Copy) (g : Gang) : CStep :=
  match g.handles.get? c.handle with
  | none => .land s 0 0 0 0 c.tsi
  | some h =>
    let n := ((Hdr.ofBits (s.hdrBits g h)).dataEnd - 32) / 8
    .land ((List.range n).foldl (fun s i => s.putPool [g.tilePa (h.off + 32 + 8 * i)] (Gran.mk' c.aux)) s) 0 0 n 0 c.tsi

/-- The engine of a copy: its accesses bind at no less than ts_i. -/
def State.engine (s : State) (id : Nat) (c : Copy) (g : Gang) : Eng := ⟨c.core, g.aspace, s.replSlot g, c.tsi, id, false⟩

/-- The next step of an accepted copy: its record, which it reads once and keeps (R161); its start; one step in box order; its
end. A poisoned granule of the record ends it with status 0x01 and CODE 0x31, as one of the source data. DESIGN CHOICE (log entry
99). -/
def State.xferStep (s : State) (id : Nat) (c : Copy) (g : Gang) : CStep :=
  let x := c.xfer
  let e := s.engine id c g
  if c.op = .cpFill then s.runFill c g
  else if c.op = .cpMc ∧ fld c.aux.toNat 0 8 = 0 then .land s 0 0 0 0 c.tsi
  else match x.record with
    | none =>
      if c.recVa.toNat % 64 ≠ 0 then .land s 3 1 0 0 c.tsi
      else if windowBase ≤ c.recVa.toNat then .fail s 1 0x10 0 none
      else match s.readRec c.core g.aspace c.recVa.toNat c.tsi e.repl with
        | (.ok l ts, s) => .go s { x with record := some l, ts := Nat.max c.tsi ts }
        | (.miss, s) => .walk s c.recVa.toNat .load
        | (.bad z pa, s) => .fail s (if z = 0x31 then 1 else 4) (if z = 0x31 then 0x31 else 1) 0 (pa.map (z, ·))
        | (.refused, s) => .fail s 1 0x11 0 none
    | some l =>
      let r := Tsr.ofBytes l
      if !x.started then s.startCopy e c g r x
      else match (s.copyItems e id c g r x)[x.done]? with
        | none => s.finishXfer id c g r x
        | some (n, f) => match f ⟨s, x.ts⟩ with
          | .ok y => .go y.s { x with done := x.done + 1, ts := y.ts }
          | .error (.walk va k) => .walk s va k
          | .error (.stop st cd d) => .fail s st cd n d
          | .error (.part y n st cd d) => .fail (y.s.copyTime id y.ts) st cd n d

/-- The count of elements that a copy has performed (R169). -/
def State.elementsDone (s : State) (id : Nat) (c : Copy) (g : Gang) : Nat :=
  match c.xfer.record, c.xfer.started with
  | some l, true =>
    let r := Tsr.ofBytes l
    match (s.copyItems (s.engine id c g) id c g r c.xfer)[c.xfer.done]? with
    | some (n, _) => n
    | none => s.copyTotal c g r c.xfer
  | _, _ => 0

/-- The tiles as the copy would have left them: its remaining steps, with a free value for what it cannot read. -/
def State.wouldBe (s : State) (id : Nat) (c : Copy) (g : Gang) : State :=
  match c.xfer.record with
  | none => s
  | some l =>
    ((s.copyItems { s.engine id c g with blind := true } id c g (Tsr.ofBytes l) c.xfer).drop c.xfer.done).foldl
      (fun s i => match i.2 ⟨s, c.xfer.ts⟩ with | .ok y => y.s | .error _ => s) s

/-- Each byte of a word from one of two. -/
def State.mixBytes (s : State) (a b : Word) : Word × State :=
  (List.range 8).foldl (fun (acc : Word × State) i =>
    let u := fld a.toNat (8 * i) 8
    let v := fld b.toNat (8 * i) 8
    let (c, s) := acc.2.pick (if u = v then 1 else 2)
    (if c = 0 then acc.1 else setByte acc.1 i (BitVec.ofNat 8 v), s)) (a, s)

/-- A tile after a failed copy (R169): a zero header, and each further byte the old one or the one the copy would have
written; `old` the granules before, `w` the state with those that would have been written. -/
def State.spoilTile (s w : State) (y : Gang) (h : Handle) (old : List Gran) : State :=
  let s := (old.zipIdx.drop 4).foldl (fun (s : State) g =>
    let a := y.tilePa (h.off + 8 * g.2)
    let (d, s) := s.mixBytes g.1.data (w.poolGran a).data
    { s with pool := s.pool.setGran (a / 8) (Gran.mk' d a) }) s
  s.tileWrite y h 0 (List.replicate 32 0)

/-- The transfer of a copy has ended: its completion event is to come. -/
def State.landCopy (s : State) (id : Nat) (w : Word) (ts : Nat) : State :=
  { s.copyTime id ts with copies := (s.copyTime id ts).copies.modify id fun c => { c with phase := .landed w } }

/-- A copy ends with status 0x01 or 0x04: its tiles and the scruples of what failed (R169, 17 R390). -/
def State.endCopy (s : State) (id : Nat) (c : Copy) (g : Gang) (st cd n : Nat) (dmg : Option (Byte × Nat)) : State :=
  let x := c.xfer
  let w := s.wouldBe id c g
  let s := match dmg with | some (z, pa) => s.damage z none pa | none => s
  let s := if st = 4 ∨ cd = 0x31 then s.addScruples (.core c.core) 16 else s
  let s := if !(c.op = .cpIn ∨ c.op = .cpMc) then s
    else if x.started then
      ((x.dests.zip x.olds).filter fun d => s.liveDest id c.handle d.1).foldl (fun s d => s.spoilTile w d.1.2.1 d.1.2.2 d.2) s
    else
      let ds := if c.op = .cpMc then x.dests else (g.handles.get? c.handle).toList.map fun h => (c.gang, g, h)
      (ds.filter (s.liveDest id c.handle)).foldl (fun s d => s.tileWrite d.2.1 d.2.2 0 (List.replicate 32 0)) s
  s.landCopy id (tokenWord st cd n x.refused) x.ts

/-- The gang of a copy: as it is, or as it was when it was killed. -/
def State.copyGang (s : State) (c : Copy) : Option Gang :=
  match c.env with | some g => some g | none => s.gangs.get? c.gang

/-- Performs the next step of an accepted copy. One that needs a walk waits for it (04 R99, R101). -/
def State.stepCopy (s : State) (id : Nat) : State :=
  match s.copies.get? id with
  | none => s
  | some c =>
    match s.copyGang c with
    | none => s
    | some g =>
      match s.xferStep id c g with
      | .go s x => { s with copies := s.copies.modify id fun c => { c with xfer := x } }
      | .land s st cd n rf ts => s.landCopy id (tokenWord st cd n rf) ts
      | .fail s st cd n d => s.endCopy id c g st cd n d
      | .walk s va k =>
        let r := s.joinWalk c.core g.aspace va (.copy id (BitVec.ofNat 64 va) k)
        { r.2 with copies := r.2.copies.modify id fun c => { c with phase := .walking r.1 } }

/-- A copy whose access fails by a row of 04 R95, and the driver answers FAIL, or its launch is killed (R101, 17 R384): status
0x01 with CODE from its own access, after exactly the elements that it has performed. -/
def State.failCopy (s : State) (id : Nat) (row : Nat) : State :=
  match s.copies.get? id with
  | none => s
  | some c => match s.copyGang c with
    | none => s
    | some g => s.endCopy id c g 1 (rowCause row).toNat (s.elementsDone id c g) none

/-- A copy whose walk meets a damaged entry at a PA (04 R441). -/
def State.damageCopy (s : State) (id : Nat) (z : Byte) (pa : Nat) : State :=
  match s.copies.get? id with
  | none => s
  | some c => match s.copyGang c with
    | none => s
    | some g => (s.walkScruples none pa).endCopy id c g (if z = 0x31 then 1 else 4) (if z = 0x31 then 0x31 else 2)
        (s.elementsDone id c g) none

/-! ## Acceptance and completion -/

/-- The copies of a core that its engine holds (R162). -/
def CopyPhase.held : CopyPhase → Bool | .queued => false | _ => true
def State.engineHolds (s : State) (core : Nat) : Nat := s.copies.countP fun e => e.2.core == core && e.2.phase.held

/-- The next descriptor that a core's engine accepts: the oldest of gangs that run or are being admitted, and of crews that are
not halted (R162, R163). -/
def State.nextCopy (s : State) (core : Nat) : Option (Nat × Copy) :=
  s.copies.find? fun e => e.2.core == core && !e.2.phase.held && (match s.gangs.get? e.2.gang with
    | some g => g.phase == .resident || g.phase == .prologue
    | none => false) && (e.2.prologue || !(s.crews.get? (ckey e.2.gang e.2.crew)).any (·.halted))

/-- Whether a multicast must wait for tile instructions of its receivers (R172). -/
def State.mcBusy (s : State) (c : Copy) : Bool :=
  c.op == .cpMc && (match s.gangs.get? c.gang with
    | none => false
    | some g => (List.range 8).any fun i => c.aux.getLsbD i &&
        (match (if 8 * clusterOf g.core + i = g.core then some c.gang else s.spanMate g (8 * clusterOf g.core + i)) with
          | some m => s.tileBusy m c.handle
          | none => false))

/-- Whether a core's engine can accept a copy now. -/
def State.canAccept (s : State) (core : Nat) : Bool :=
  !s.rebaseDue && decide (s.engineHolds core < 8) && (match s.nextCopy core with | some e => !s.mcBusy e.2 | none => false)

/-- COPY_ACCEPT (R161, R162, R172): the engine takes the next descriptor, with the receivers of a multicast, and reads its record. -/
def execCopyAccept (core : Nat) (s : State) : Result :=
  match s.nextCopy core with
  | some e =>
    if s.canAccept core then
      .next (({ s with copies := s.copies.modify e.1 fun c => { c with phase := .accepted } }.claimDests e.1).stepCopy e.1)
    else .refused (.notEnabled "COPY_ACCEPT")
  | none => .refused (.notEnabled "COPY_ACCEPT")

/-- One step of an accepted copy's transfer. The opcode table names no event for it: it comes as a turn of its own. -/
def runTransfer (c : Nat) (s : State) : Result :=
  match s.copies.get? c with
  | some x => if x.phase == .accepted && !s.rebaseDue then .next (s.stepCopy c) else .refused (.notEnabled "COPY_ACCEPT")
  | none => .refused (.notEnabled "COPY_ACCEPT")

/-- The cause of a copy that is a containment trigger (17 R382). -/
def copyTrigger (w : Word) : Option Byte :=
  let st := fld w.toNat 0 8
  if st = 4 then some cGRAIN else if st = 1 ∧ fld w.toNat 32 8 = 0x31 then some cPOISON else none

/-- Gives back the handles that a copy owns; threads that stall on them observe the completion (R164, 05 R125). -/
def State.returnHandles (s : State) (id ts : Nat) : State :=
  s.gangs.foldl (fun s e =>
    let mine := (e.2.handles.filter fun h => h.2.owner == some id).map (·.1)
    if mine.isEmpty then s
    else
      let back (h : Handle) : Handle := if h.owner = some id then { h with owner := none, tsc := some ts } else h
      let s := s.modG e.1 fun g => { g with handles := g.handles.mapVals fun _ h => back h }
      s.onThreads (s.gangThreads e.1) fun t => match t.wait with
        | .tile hs => if hs.any mine.contains then { t with lt := Nat.max t.lt ts } else t
        | _ => t) s

/-- A failed prologue copy contains its launch with CAUSE 0xF1. DETAIL is that of the first copy of the gang in list order, in which
they were staged, that fails (R179, 15 R346, 17 R386). -/
def State.prologueFail (s : State) (gk id slot : Nat) (w : Word) : State :=
  let detail := fld w.toNat 0 8 + fld w.toNat 32 8 * 2 ^ 8 + fld w.toNat 8 16 * 2 ^ 16
  let note (l : Launch) : Launch := { l with trigger := some (0xF1, detail), firstFail := some (gk, id) }
  match s.launches.get? slot with
  | none => s
  | some l => match l.firstFail with
    | none => if l.status == .killed then s else (s.contain slot 0xF1 detail false).modL slot note
    | some (g, i) => if g = gk ∧ id < i then s.modL slot note else s

/-- The completion event of a copy whose gang is there (R168, 05 R125). -/
def State.completeCopy (s : State) (id : Nat) (c : Copy) (w : Word) (g : Gang) : State :=
  let ck := ckey c.gang c.crew
  let s := ({ s with copies := s.copies.erase id }.returnHandles id c.tsc).closeReps (RepMark.dropCopy id)
  let s := s.modL g.slot fun l => { l with ct := Nat.max l.ct c.tsc }
  let s := if c.prologue then s.modG c.gang fun y => { y with prologueTs := Nat.max y.prologueTs c.tsc }
    else s.modC ck fun y =>
      { y with k := y.k.set (Fin.ofNat 32 c.tok) w, ktok := y.ktok.set c.tok c.tsc, copyTs := Nat.max y.copyTs c.tsc }
  if c.prologue ∧ fld w.toNat 0 8 ≠ 0 then s.prologueFail c.gang id g.slot w
  else match copyTrigger w with
    | some z => s.contain g.slot z.toNat g.detail false
    | none => s.checkGangEnd c.gang

/-- COPY_COMPLETE: after the other copies of replicated pages have acknowledged (05 R123). A copy of a killed gang ends
without its token, and what it ends with may be a trigger of its launch (17 R382, R386); one that waited on a fault ends as a FAIL
would end it (R180, 17 R384). -/
def execCopyComplete (c : Nat) (s : State) : Result :=
  match s.copies.get? c with
  | none => .refused (.notEnabled "COPY_COMPLETE")
  | some x =>
    match x.phase, x.orphan with
    | .landed w, o =>
      if s.replicas.any fun r => r.2.copy == some c then .refused (.notEnabled "COPY_COMPLETE")
      else match o, s.gangs.get? x.gang with
        | false, some g => .next (s.completeCopy c x w g)
        | _, _ =>
          let s := ({ s with copies := s.copies.erase c }.returnHandles c x.tsc).closeReps (RepMark.dropCopy c)
          .next (match x.env with
            | some g =>
              let s := s.modL g.slot fun l => { l with ct := Nat.max l.ct x.tsc }
              if x.prologue ∧ fld w.toNat 0 8 ≠ 0 then s.prologueFail x.gang c g.slot w
              else match copyTrigger w with
                | some z => s.contain g.slot z.toNat 0xFFFF_FFFF false
                | none => s
            | none => s)
    | .faulted _ _ row, true => .next (s.failCopy c row)
    | _, _ => .refused (.notEnabled "COPY_COMPLETE")

end Sys2Proof.Machine
end

