-- ==== Sys2Proof/Machine/Bins.lean ====
section
/-! DEFINITION. Making a gang of a launch, and the bins of its nodes (15 R334, R337, R338, 16 R359). -/

namespace Sys2Proof.Machine

/-! ## Gangs -/

/-- C of 15 R334: the greatest CREWS among the launch kernel and its node kernels. -/
def Launch.crewsMax (l : Launch) : Nat := maxOf (l.kernel.crews :: l.nodes.map (·.kernel.crews))

/-- S of 15 R334. -/
def Launch.stackS (l : Launch) : Nat := (128 + 64 * l.record.stackWords / 8 + 8 * (64 * l.record.stackWords) + 255) / 256 * 256

/-- A gang of a launch before its admission (15 R339); `take`: the records of a node gang. -/
def State.newGang (s : State) (slot : Nat) (l : Launch) (k : Kernel) (index : Nat) (node : Option Nat) (take : Nat) : Gang :=
  { slot, lid := l.lid, index, node, records := [], recTime := 0, take, span := 0, spanPos := 0, core := 0, set := 0
    kernel := k, phase := .listed, held := l.held, prio := (s.queue l.queue).prio, resume := none, admitTime := 0, admit125 := 0, residentSince := 0
    listedAt := s.time, pages := [], stackVa := l.record.stackVa, stackN := 64 * l.record.stackWords, stackS := l.stackS
    crewsMax := l.crewsMax, aspace := (s.queue l.queue).aspace, padClock := 0, handles := []
    bars := Vector.replicate 16 ⟨0, false, 0, 0, 0, 0⟩, queues := Vector.replicate 8 [], grows := 64, gcols := 64
    fit := true, plan := l.plan, pot := [], slack := [], drawn := [], frameAcres := 0, padAcres := 0, tileAcres := 0, gone := [], claims := [], tallocs := []
    pops := [], pushes := [], prologueLeft := k.inputsN, prologueTs := 0, nodeSerial := l.nodeGangs }

/-! ## Bins (R337, R338) -/

/-- Whether a gang has not been admitted yet. -/
def Phase.waits : Phase → Bool | .listed | .admitting | .reserved | .ready false => true | _ => false

/-- The records of a bin that gangs created and not admitted will take. -/
def State.claimed (s : State) (slot n : Nat) : Nat :=
  ((s.gangs.filter fun e => e.2.slot == slot && e.2.node == some n && e.2.phase.waits).map (·.2.take)).foldl (· + ·) 0

/-- The node at an index of a launch. -/
def State.nodeOf (s : State) (slot n : Nat) : Option Node :=
  match s.launches.get? slot with | some l => l.nodes[n]? | none => none

/-- The records of a bin that no gang takes yet. -/
def State.unclaimed (s : State) (slot n : Nat) : Nat :=
  match s.nodeOf slot n with | some d => d.times.countP (·.isSome) - s.claimed slot n | none => 0

/-- Changes a node of a launch. -/
def State.modNode (s : State) (slot n : Nat) (f : Node → Node) : State :=
  s.modL slot fun l => { l with nodes := l.nodes.modify n f }

/-- A bin fires: it creates one node gang for `k` records, and its timer restarts (R338). -/
def State.fireBin (s : State) (slot n k : Nat) : State :=
  match s.launches.get? slot, s.nodeOf slot n with
  | some l, some d =>
    let g := s.newGang slot l d.kernel l.nodeGangs (some n) k
    let id := s.nextId
    let s := { s with nextId := id + 1, gangs := s.gangs.set id g }
    (s.modL slot fun l => { l with nodeGangs := l.nodeGangs + 1, nodeQueue := l.nodeQueue ++ [id] }).modNode slot n
      fun d => { d with since := s.count125 }
  | _, _ => s

/-- A record binds at `ts` (16 R359): the count, the timer of a bin that becomes nonempty, and the firing at NODE_COUNT. -/
def State.recordBound (s : State) (slot n ts : Nat) : State :=
  match s.launches.get? slot with
  | none => s
  | some l =>
    if l.status == .killed then s
    else
      let s := s.modNode slot n fun d => { d with
        count := d.count + 1, times := d.times ++ [some ts], since := if d.count = 0 then s.count125 else d.since }
      match s.nodeOf slot n with
      | some d => if d.kernel.nodeCount ≤ s.unclaimed slot n then s.fireBin slot n d.kernel.nodeCount else s
      | none => s

end Sys2Proof.Machine
end

