-- ==== Sys2Proof/Machine/MemEvents.lean ====
section
/-! DEFINITION. Steps of the memory system (04 R79 to R101, R441, 05 R105 to R126, 08 R190, R191, 13 R296 to R303, 17 R370,
R390). A step whose conditions do not hold is refused as not enabled. -/

namespace Sys2Proof.Machine

/-- The refusal of a step whose conditions do not hold. -/
def notNow (m : String) : Result := .refused (.notEnabled m)

/-! ## Coalescers (08 R190) -/

/-- COALESCER_TIMEOUT: the oldest entry of an issue slot is sent 32 core cycles after it opened. -/
def execCoalescerTimeout (core slot : Nat) (s : State) : Result :=
  match ((s.core core).coal.getD slot []).find? fun e => decide (e.2.opened + 32 ≤ s.time) with
  | some e => .next (s.sendWhere core slot fun i _ => i == e.1)
  | none => notNow "COALESCER_TIMEOUT"

/-! ## Lines at their slices -/

/-- Who may reach a line without a recall: nobody holds it, or the accessing core or its cluster does (05 R109). -/
def Holder.open (h : Holder) (core : Option Nat) : Bool :=
  match h, core with
  | Holder.none, _ => true
  | Holder.core n, some c => n == c
  | Holder.cluster n, some c => n == clusterOf c
  | _, Option.none => false

/-- What a request finds at its home slice: the line absent, held elsewhere (a recall is then asked for once), or ready. -/
inductive AtSlice where | absent | recalled (s : State) | waits | ready

def State.atSlice (s : State) (ln : Nat) (core : Option Nat) : AtSlice :=
  match s.l2.get? ln with
  | none => .absent
  | some e =>
    if e.holder.open core then .ready
    else if e.recalled then .waits
    else .recalled { s with l2 := s.l2.set ln { e with recalled := true } }

/-- RECALL_RETURN: the holder has returned the line (05 R109). -/
def execRecallReturn (line : Nat) (s : State) : Result :=
  match s.l2.get? line with
  | some e => if e.recalled then .next (s.recallLine line) else notNow "RECALL_RETURN"
  | none => notNow "RECALL_RETURN"

/-! ## Loads (05 R107) -/

/-- The gang of a thread. -/
def State.gangAt (s : State) (t : Nat) : Option Gang := s.gangs.get? (gangOf t)

/-- The granules of a line from two answers: of each one of the two. -/
def State.mixLines (s : State) (a b : List Gran) : List Gran × State :=
  (a.zip b).foldl (fun (acc : List Gran × State) g =>
    let (c, s) := acc.2.pick (if g.1 = g.2 then 1 else 2)
    (acc.1 ++ [if c = 0 then g.1 else g.2], s)) ([], s)

/-- LOAD_REQUEST: the home slice of the load at the head of a thread's accesses serves it. A load of several granules may ask
again before its data return: each of its granules then binds as one or the other answer has it (05 R106, log entry 82). -/
def execLoadRequest (t : Nat) (s : State) : Result :=
  match s.threads.get? t, s.gangAt t with
  | some x, some g =>
    match x.accs with
    | .load va (.dev pa gpa) size key form slot k toK held rep :: r =>
      if !s.mayBind t x || (rep.isSome && decide (size ≤ 8)) then notNow "LOAD_REQUEST"
      else match s.atSlice (pa / 64) (some g.core) with
        | .absent | .waits => notNow "LOAD_REQUEST"
        | .recalled s' => .next s'
        | .ready =>
          let b := s.boundOf t x (.load va (.dev pa gpa) size key form slot k toK held rep)
          let (new, e) := (s.line (pa / 64)).load key b
          let s := { s with l2 := s.l2.set (pa / 64) e }
          let (new, s) : Reply × State := match rep with
            | none => ({ new with time := s.time }, s)
            | some old =>
              let (l, s) := s.mixLines old.line new.line
              (⟨l, Nat.max old.wts new.wts, Nat.min old.rts new.rts, old.time, true⟩, s)
          .next (s.modT t fun y => { y with accs := .load va (.dev pa gpa) size key form slot k toK held (some new) :: r })
    | _ => notNow "LOAD_REQUEST"
  | _, _ => notNow "LOAD_REQUEST"

/-- LOAD_DATA_RETURN: the line reaches the core, which keeps an L1 copy; the load binds. Where the thread's lower bound has
passed the lease meanwhile, the load asks again (05 R107, R112). A copy's age counts from the slice's answer (R114, log
entry 82). -/
def execLoadDataReturn (t : Nat) (s : State) : Result :=
  match s.threads.get? t, s.gangAt t with
  | some x, some g =>
    match x.accs with
    | .load va (.dev pa gpa) size key form slot k toK held (some r) :: l =>
      if !s.mayBind t x then notNow "LOAD_DATA_RETURN"
      else
        let b := s.boundOf t x (.load va (.dev pa gpa) size key form slot k toK held (some r))
        if r.rts < b then
          .next (s.modT t fun y => { y with accs := .load va (.dev pa gpa) size key form slot k toK held none :: l })
        else
          let s := if r.mixed then s else s.putL1 g.core ⟨pa / 64, r.line, r.wts, r.rts, r.time, key⟩
          .next (s.bindLoad t va size form slot k toK held (coveredGrans r.line gpa size) (Nat.max b r.wts))
    | _ => notNow "LOAD_DATA_RETURN"
  | _, _ => notNow "LOAD_DATA_RETURN"

/-! ## Stores (05 R108, 02 R49, 08 R191, 13 R298) -/

/-- Whether every thread that fed a message has its stores of it first among its accesses (05 R106). -/
def State.headOf (s : State) (m : Nat) (e : StoreEntry) : Bool :=
  e.feeders.all fun f => match s.threads.get? f.1 with
    | some x => match x.accs.head? with
      | some (.store n _ _) => n == m
      | _ => !(x.accs.any fun a => match a with | .store n _ _ => n == m | _ => false)
    | none => true

/-- Whether two entries are of one line. -/
def Place.sameLine : Place → Place → Bool
  | .dev a _, .dev b _ | .peer a, .peer b => a / 64 == b / 64
  | .pad g a, .pad h b => g == h && a / 64 == b / 64
  | _, _ => false

/-- Whether the same store port has sent an entry of the same line before, which is to be performed first (13 R297). -/
def State.doorBefore (s : State) (m : Nat) (e : StoreEntry) : Bool :=
  match s.msgs.get? m with
  | none => false
  | some x => s.msgs.any fun n => decide (n.2.sent < x.sent) && n.2.e.core == e.core && n.2.e.slot == e.slot &&
      n.2.e.place.sameLine e.place && (match n.2.phase with | .sent | .peer => true | _ => false)

/-- Whether a sent entry may be performed now. -/
def State.msgReady (s : State) (m : Nat) (e : StoreEntry) : Bool := s.headOf m e && !s.doorBefore m e

/-- The threads that fed an entry, each once. -/
def StoreEntry.threads (e : StoreEntry) : List Nat := e.feeders.foldl (fun l f => addNew l f.1) []

/-- Merges into the granules of a line: the good ones with their new contents, and the failing ones with their cause
(08 R191). `old`: the granule and its grain address. -/
def StoreEntry.mergeAll (e : StoreEntry) (old : Nat → Gran) (at' : Nat → Nat) : List (Nat × Gran) × List (Nat × Byte) :=
  e.part.foldl (fun acc k =>
    match (old k).check (at' k) with
    | some c => (acc.1, acc.2 ++ [(k, c)])
    | none => (acc.1 ++ [(k, Gran.mk' (e.over k (old k).data) (at' k))], acc.2))
    (e.whole.map fun k => (k, Gran.mk' (e.over k 0) (at' k)), [])

/-- The lower bound of a message: the greatest lt of its threads when their stores entered (08 R190), and no lower than their
lt now (05 R106). -/
def State.boundMsg (s : State) (e : StoreEntry) : Nat := Nat.max e.b (s.maxLt e.threads)

def State.setMsg (s : State) (m : Nat) (p : MsgPhase) : State :=
  { s with msgs := s.msgs.modify m fun x => { x with phase := p } }

/-- Writes granules of a message at its line, with the update of a replicated page's other copy (05 R121). -/
def State.writeMsg (s : State) (m : Nat) (e : StoreEntry) (pa gpa : Nat) (w : List (Nat × Gran)) (bad : List (Nat × Byte)) :
    State :=
  if w.isEmpty then s.setMsg m (.performed (s.boundMsg e) bad)
  else
    let (ts, s) := s.lineStore (pa / 64) e.key e.comp w (s.boundMsg e)
    let s := if e.rep then s.onThreads e.threads fun x => { x with reps := x.reps ++ [s.nextId] } else s
    (s.replicate ⟨e.place, e.key, e.rep, e.comp⟩ pa gpa w ts e.threads none).setMsg m (.performed ts bad)

/-- Performs a message on a pad at the pad clock, merges included (08 R190, R191). -/
def State.padMsg (s : State) (m : Nat) (e : StoreEntry) (g off : Nat) : State :=
  match s.gangs.get? g with
  | none => s.setMsg m (.performed (s.boundMsg e) [])
  | some y =>
    let at' (k : Nat) : Nat := y.padPa (off + 8 * k)
    let r := e.mergeAll (fun k => s.poolGran (at' k)) at'
    let (ts, s) := s.padTick g (s.boundMsg e)
    { s with pool := r.1.foldl (fun (p : Store) (w : Nat × Gran) => p.setGran (at' w.1 / 8) w.2) s.pool }.setMsg m (.performed ts r.2)

/-- LANE_MERGE: partly written granules of a sent entry are checked, merged and regenerated. -/
def execLaneMerge (m : Nat) (s : State) : Result :=
  match s.msgs.get? m with
  | some ⟨e, .sent, _⟩ =>
    if e.part.isEmpty || !s.msgReady m e then notNow "LANE_MERGE"
    else match e.place with
      | .pad g off => .next (s.padMsg m e g off)
      | .peer _ => notNow "LANE_MERGE"
      | .dev pa gpa =>
        match s.atSlice (pa / 64) (some e.core) with
        | .absent | .waits => notNow "LANE_MERGE"
        | .recalled s' => .next s'
        | .ready =>
          let s := s.readyLine (pa / 64) e.key e.comp false
          let l := (s.line (pa / 64)).gr
          let r := e.mergeAll (fun k => l.getD k ⟨0, 0, true⟩) (gpa + 8 * ·)
          let s := s.writeMsg m e pa gpa r.1 r.2
          .next ({ s with l2 := s.l2.modify (pa / 64) fun x => { x with holder := .core e.core } }.trimLoan (.core e.core))
  | _ => notNow "LANE_MERGE"

/-- SLICE_WRITE: the home slice performs an entry of whole granules; an entry of a pad line is performed at the pad, and
one of the peer window leaves as a request (19 R404). A write of less than a line needs the line in L2. -/
def execSliceWrite (m : Nat) (s : State) : Result :=
  match s.msgs.get? m with
  | some ⟨e, .sent, _⟩ =>
    if !s.msgReady m e then notNow "SLICE_WRITE"
    else match e.place with
      | .peer pa =>
        let s := e.whole.foldl (fun s k =>
          s.peerSend e.core (pa + 8 * k) (Gran.mk' (e.over k 0) (fld pa 0 41 / 64 * 64 + 8 * k))) s
        .next ((s.setMsg m .peer).askPeer (.store m))
      | .pad g off => if e.part.isEmpty then .next (s.padMsg m e g off) else notNow "SLICE_WRITE"
      | .dev pa gpa =>
        if !e.part.isEmpty then notNow "SLICE_WRITE"
        else
          let w := e.whole.map fun k => (k, Gran.mk' (e.over k 0) (gpa + 8 * k))
          match s.atSlice (pa / 64) (some e.core) with
          | .absent => if w.length = 8 then .next (s.writeMsg m e pa gpa w []) else notNow "SLICE_WRITE"
          | .waits => notNow "SLICE_WRITE"
          | .recalled s' => .next s'
          | .ready => .next (s.writeMsg m e pa gpa w [])
  | _ => notNow "SLICE_WRITE"

/-- The VAs of the failed granules that a store of a thread touched (02 R50): one per failing granule. -/
def badVas (bad : List (Nat × Byte)) (va size : Nat) : List (Nat × Byte) :=
  bad.filterMap fun b =>
    let lo := va / 64 * 64 + 8 * b.1
    if decide (va < lo + 8 ∧ lo < va + size) then some (lo, b.2) else none

/-- The failed merges that a thread's stores of a message fed: one for each granule, with its VA as the first of those stores names
it (08 R191). -/
def State.failedMerges (s : State) (m : Nat) (bad : List (Nat × Byte)) (t : Nat) : List (Nat × Byte × Nat) :=
  let l := (s.accsOf t).flatMap fun a => match a with
    | .store n va size => if n = m then badVas bad va.toNat size else []
    | _ => []
  (l.foldl (fun out b => if out.any fun c => c.2.2 % 64 == b.1 % 64 then out else out ++ [(t, b.2, b.1)])
    ([] : List (Nat × Byte × Nat)))

/-- One thread's stores of a message bind at `ts`. -/
def State.ackThread (s : State) (m ts t : Nat) : State :=
  s.modT t fun x => { x with
    lt := Nat.max x.lt ts
    accs := x.accs.filter fun a => match a with | .store n _ _ => n != m | _ => true }

/-- The PA at which the line of a message begins, if the device holds it. -/
def State.msgHome (s : State) (e : StoreEntry) : Option Nat :=
  match e.place with
  | .dev pa _ => some pa
  | .peer _ => none
  | .pad g off => (s.gangs.get? g).map fun y => y.padPa off

/-- The scruples of the failed granules of a message: each failure counts once (02 R50, 17 R390). -/
def State.mergeScruples (s : State) (e : StoreEntry) (bad : List (Nat × Byte)) : State :=
  match s.msgHome e with
  | some pa => bad.foldl (fun s b => s.checkScruples b.2 (some e.core) (pa + 8 * b.1)) s
  | none => s

/-- A store that a peer refused: its thread takes PROTECTION at its next boundary, with the store's VA (19 R404). A later
access that the thread has issued and that waits at its instruction is given up. -/
def State.refuseThread (s : State) (m : Nat) (t : Nat) : State :=
  match s.threads.get? t with
  | none => s
  | some x =>
    let va := x.accs.findSome? fun a => match a with | .store n va _ => if n = m then some va else none | _ => none
    let s := s.modT t fun x => { x with
      accs := x.accs.filter fun a => match a with
        | .store n _ _ => n != m
        | .load _ _ _ _ _ _ _ _ held _ => held.isNone
        | .joined _ => true
        | .atom _ _ _ _ _ _ _ _ _ _ _ => false }
    match va with
    | some v => (s.withdrawT t).trapT t cPROTECTION v none
    | none => s

/-- STORE_ACK: the stores of a performed message bind; a node record then counts in its bin (16 R359). The launch keeps the
time of stores whose threads have ended. Failed merges reach all the threads that fed them, asynchronously (08 R191). -/
def execStoreAck (m : Nat) (s : State) : Result :=
  match s.msgs.get? m with
  | some ⟨e, .performed ts bad, _⟩ =>
    let fails := e.threads.flatMap (s.failedMerges m bad)
    let s := { s with msgs := s.msgs.erase m }
    let s := s.modL e.launch fun l => { l with ct := Nat.max l.ct ts }
    let s := e.threads.foldl (fun s t => s.ackThread m ts t) s
    let s := match e.node with | some n => s.recordBound e.launch n ts | none => s
    .next ((s.mergeScruples e bad).frameCauses (fails.map fun f => (f.1, f.2.1, BitVec.ofNat 64 f.2.2)))
  | some ⟨e, .refused, _⟩ => .next (e.threads.foldl (fun s t => s.refuseThread m t) { s with msgs := s.msgs.erase m })
  | _ => notNow "STORE_ACK"

/-! ## Atomics at the slice (05 R108, R117, R118) -/

/-- The atom of a killed thread binds: nothing but the memory and its launch's greatest time has it (17 R383, R384). -/
def State.bindLoose (s : State) (t : Nat) (a : LooseAtom) : State :=
  let s := { s with loose := s.loose.erase t }
  match s.atomLine a.pa a.gpa a.key a.w (fun old => atomNew a.op a.w old a.o a.c) a.sc a.inst .none a.b with
  | .ok (_, ts, s) => s.modL a.launch fun l => { l with ct := Nat.max l.ct ts }
  | .error (z, some _) => s.checkScruples z (some a.core) a.pa
  | .error (_, none) => s

/-- L2_ATOMIC: the atom at the head of a thread's accesses is performed or refused, and its instruction completes; an atom of a
killed thread is performed without it. -/
def execL2Atomic (t : Nat) (s : State) : Result :=
  match s.loose.get? t, s.threads.get? t with
  | some a, _ =>
    match s.atSlice (a.pa / 64) none with
    | .absent | .waits => notNow "L2_ATOMIC"
    | .recalled s' => .next s'
    | .ready => .next (s.bindLoose t a)
  | none, none => notNow "L2_ATOMIC"
  | none, some x =>
    match x.accs with
    | .atom va (.dev pa gpa) w op sc key slot k o c srcs :: _ =>
      if s.frameBusy t then notNow "L2_ATOMIC"
      else match s.atSlice (pa / 64) none with
        | .absent | .waits => notNow "L2_ATOMIC"
        | .recalled s' => .next s'
        | .ready =>
          let b := s.boundOf t x (.atom va (.dev pa gpa) w op sc key slot k o c srcs)
          match s.atomLine pa gpa key w (fun old => atomNew op w old o c) sc (s.scopeInst t sc) .none b with
          | .error (z, p) =>
            .next ((s.popAcc t).stopAll ((s.pairOf t).map fun u => (u, .trap z (atomXval va z) p)))
          | .ok (old, ts, s1) =>
            let s2 := State.commitAll srcs (s.queuesOf (gangOf t)) (s.pairOf t) (s1.popAcc t)
            match State.writeFor [atomResult op w old] slot k (s.pairOf t) s2 with
            | .error e => .next (s.frameStop e.1 e.2)
            | .ok s3 =>
              let s4 := s3.onThreads (s.pairOf t) fun x => { x with lt := ts }
              .next ((s.pairOf t).foldl (fun s u => s.finishT u) s4)
    | _ => notNow "L2_ATOMIC"

/-! ## HBM (04 R79 to R83, 13 R299) -/

/-- Whether a line is wanted from HBM under a key: for a thread's load or atom, or a store of less than a line. -/
def State.lineWanted (s : State) (ln key : Nat) : Bool :=
  (s.threads.any fun e => match e.2.accs.head? with
    | some (.load _ (.dev pa _) _ k _ _ _ _ _ none) => pa / 64 == ln && k == key
    | some (.atom _ (.dev pa _) _ _ _ k _ _ _ _ _) => pa / 64 == ln && k == key
    | _ => false) ||
  s.loose.any (fun a => a.2.pa / 64 == ln && a.2.key == key) ||
  s.msgs.any fun e => match e.2.phase, e.2.e.place with
    | .sent, .dev pa _ => pa / 64 == ln && e.2.e.key == key
    | _, _ => false

/-- Whether a read of a memory slice waits: a line that a thread or a message wants, absent from L2 and from the queue. -/
def State.readsWait (s : State) (ms : Nat) : Bool :=
  let waits (pa key : Nat) : Bool := msliceOf (pa / 64) == ms && (s.l2.get? (pa / 64)).isNone && (s.wqLine (pa / 64)).isNone &&
    s.lineWanted (pa / 64) key
  (s.threads.any fun e => match e.2.accs.head? with
    | some (.load _ (.dev pa _) _ k _ _ _ _ _ none) => waits pa k
    | some (.atom _ (.dev pa _) _ _ _ k _ _ _ _ _) => waits pa k
    | _ => false) ||
  s.loose.any (fun a => waits a.2.pa a.2.key) ||
  s.msgs.any fun e => match e.2.e.place with | .dev pa _ => waits pa e.2.e.key | _ => false

/-- HBM_READ: a wanted line reaches L2. A line in the write queue is served from there, without HBM and its errors. While its
memory slice writes, a read of HBM waits (13 R299). -/
def execHbmRead (line key : Nat) (err : PhysErr) (s : State) : Result :=
  if (s.l2.get? line).isSome || !s.lineWanted line key || !isHbm (64 * line) then notNow "HBM_READ"
  else match s.wqLine line with
    | some _ => if err = .none then .next (s.fillLine line) else notNow "HBM_READ"
    | none =>
      if (s.mslices.getD (msliceOf line) .init).writing then notNow "HBM_READ"
      else .next (s.fillWith line err)

/-- WRITE_QUEUE_DRAIN: the oldest line of a write queue is written. The scheduler turns to writes when 48 lines wait or no read
waits, and back to reads at 16 (13 R299). -/
def execWriteQueueDrain (ms : Nat) (s : State) : Result :=
  let q := s.wqs.getD ms []
  let x := s.mslices.getD ms .init
  match q with
  | [] => notNow "WRITE_QUEUE_DRAIN"
  | _ :: _ =>
    if !(x.writing || decide (48 ≤ q.length) || !s.readsWait ms) then notNow "WRITE_QUEUE_DRAIN"
    else .next ({ s with mslices := s.mslices.set ms { x with writing := true } }.drainOne ms)

/-- REFRESH: the next bank of a memory slice is refreshed. How many banks a slice has is not stated: the count runs on. -/
def execRefresh (ms : Nat) (s : State) : Result :=
  if 6144 ≤ ms then notNow "REFRESH"
  else
    let x := s.mslices.getD ms .init
    .next { s with mslices := s.mslices.set ms { x with bank := x.bank + 1 } }

/-- RFM: a bank whose count has reached the threshold; the count is cleared. -/
def execRfm (ms bank : Nat) (s : State) : Result :=
  let x := s.mslices.getD ms .init
  if 6144 ≤ ms || x.acts.getD bank 0 < Config.rfmThreshold then notNow "RFM"
  else .next { s with mslices := s.mslices.set ms { x with acts := x.acts.erase bank } }

/-- PATROL_SCRUB: a stored line is read and, where it is damaged, written back: corrected, or with its POISON bits set (04
R82); what the code takes for correctable is written back as it decodes. -/
def execPatrolScrub (line : Nat) (err : PhysErr) (s : State) : Result :=
  if !isHbm (64 * line) then notNow "PATROL_SCRUB"
  else
    let found := if err = .none then s.hbmErrs.getD line .none else err
    let s := (s.activate line).stackError line found
    let s := { s with hbmErrs := s.hbmErrs.erase line }
    .next (match found with
      | .uncorrectable => { s with hbm := s.hbm.setGrans (8 * line) (poisonAll (s.hbm.line line)) }
      | .miscorrected =>
        let (l, s) := s.unrelated (s.hbm.line line) true
        { s with hbm := s.hbm.setGrans (8 * line) l }
      | _ => s)

/-! ## Replicated pages (05 R121 to R123) -/

/-- Whether an earlier update of a granule in `r` is still to be applied at the same copy. -/
def State.replicaWaits (s : State) (m : Nat) (r : Replica) : Bool :=
  s.replicas.any fun e => e.1 != m && e.2.line == r.line && e.2.ts2.isNone &&
    (decide (e.2.ts1 < r.ts1) || (e.2.ts1 == r.ts1 && decide (e.1 < m))) &&
    e.2.gr.any fun g => r.gr.any fun h => g.1 == h.1

/-- The granule that PAGE_PA names for granule `k` of an update. -/
def Replica.gran (r : Replica) (k : Nat) : Nat := (if r.die = 1 then r.line - dieBytes / 64 else r.line) * 8 + k

/-- REPLICA_UPDATE: the other copy's slice applies an update as a store. Where both dies have stored to a granule without
fences between, the copy keeps an arbitrary one of the two values (R122). -/
def execReplicaUpdate (m : Nat) (s : State) : Result :=
  match s.replicas.get? m with
  | none => notNow "REPLICA_UPDATE"
  | some r =>
    if r.ts2.isSome || s.replicaWaits m r then notNow "REPLICA_UPDATE"
    else
      let clash (k : Nat) : Bool := s.repMarks.any fun m => m.die == r.die && m.gran == r.gran k
      let (gr, s) := r.gr.foldl (fun (acc : List (Nat × Gran) × State) g =>
        let (c, s) := acc.2.pick (if clash g.1 then 2 else 1)
        (if c = 0 then acc.1 ++ [g] else acc.1, s)) (([] : List (Nat × Gran)), s)
      let (ts, s) := s.lineStore r.line r.key r.comp gr r.ts1
      .next { s with replicas := s.replicas.set m { r with ts2 := some ts } }

/-- REPLICA_ACK: the acknowledgement reaches the storing threads or the copy. -/
def execReplicaAck (m : Nat) (s : State) : Result :=
  match s.replicas.get? m with
  | some ⟨_, _, _, _, _, _, some ts, threads, copy⟩ =>
    let s := s.onThreads threads fun x =>
      { x with reps := x.reps.filter (· != m), repTs := Nat.max x.repTs ts }
    let copies := match copy with
      | some c => s.copies.modify c fun y => { y with tsc := Nat.max y.tsc ts }
      | none => s.copies
    let s := { s with copies, replicas := s.replicas.erase m }
    .next (if threads.isEmpty && copy.isNone then s.closeReps id else s)
  | _ => notNow "REPLICA_ACK"

/-! ## The Chain (04 R90) -/

def State.laneGroup (s : State) (dir group : Nat) : LaneGroup :=
  s.chain.getD (dir + 2 * group) ⟨0, Config.chainSpares dir group⟩

/-- CHAIN_FLIT_CRC_FAIL: the flit is resent; one more consecutive failure in its lane group. -/
def execChainFlitCrcFail (dir group : Nat) (s : State) : Result :=
  if 2 ≤ dir then notNow "CHAIN_FLIT_CRC_FAIL"
  else
    let g := s.laneGroup dir group
    .next { s with chain := s.chain.set (dir + 2 * group) { g with fails := g.fails + 1 } }

/-- CHAIN_LANE_REPAIR: after 16 consecutive failures a spare lane takes over, or the Chain retrains at half rate. -/
def execChainLaneRepair (dir group : Nat) (s : State) : Result :=
  let g := s.laneGroup dir group
  if 2 ≤ dir || g.fails < 16 then notNow "CHAIN_LANE_REPAIR"
  else if g.spares = 0 then
    .next ({ s with chain := s.chain.set (dir + 2 * group) { g with fails := 0 }, chainHalf := true }.logEvent .chainHalf)
  else
    .next ({ s with chain := s.chain.set (dir + 2 * group) { fails := 0, spares := g.spares - 1 } }.logEvent
      (.chainRepair dir group))

/-! ## Page walks (04 R95 to R101, R441) -/

def Waiter.kind : Waiter → AccKind | .thread _ _ k | .frame _ _ k | .copy _ _ k => k

/-- The core whose access waits. -/
def State.waiterCore (s : State) (k : Walk) (w : Waiter) : Nat :=
  match w with
  | .thread t _ _ | .frame t _ _ => (match s.gangAt t with | some g => g.core | none => k.core)
  | .copy c _ _ => (match s.copies.get? c with | some y => y.core | none => k.core)

/-- A translation enters the TLBs of the waiter's slot, core and die, and its table entries the walk cache (R97); a copy goes
on. -/
def State.fillTlbs (s : State) (k : Walk) (w : Waiter) (e : TlbEntry) : State :=
  let slot := match w with | .thread _ _ .fetch => none | .thread t _ _ => some (s.slotOf t) | _ => none
  let s := s.fillTlb (s.waiterCore k w) k.aspace w.va slot e
  match w with | .copy _ _ _ => s.replayWaiter w | _ => s

/-- A damaged entry ends the walk: its waiter's cause, and the scruples (R441). A fetch keeps the PC in xval; a spill, which
serves no instruction, is reported asynchronously (02 R50). -/
def State.walkDamage (s : State) (k : Walk) (w : Waiter) (c : Byte) (pa : Nat) : State :=
  let s := match w with
    | .copy _ _ _ => s
    | _ => s.walkScruples (some (s.waiterCore k w)) pa
  match w with
  | .thread t _ .fetch => s.trapT t cFETCH_FAULT (match s.threads.get? t with | some x => x.pc | none => 0) none
  | .thread t va _ => s.stopAll ((s.pairOf t).map fun u => (u, .trap c va none))
  | .frame t va .load => s.trapT t c va none
  | .frame t va _ => s.asyncFrame t c va none
  | .copy n _ _ => s.damageCopy n c pa

/-- The queue and launch of a waiter. -/
def State.waiterIds (s : State) (w : Waiter) : Nat × Nat :=
  s.launchIds (match w with
    | .thread t _ _ | .frame t _ _ => (match s.gangAt t with | some g => g.slot | none => 0)
    | .copy c _ _ => (match s.copies.get? c with
      | some y => (match s.copyGang y with | some g => g.slot | none => 0)
      | none => 0))

/-- The copy of a killed gang that a waiter is: it waits for no driver (17 R384). -/
def State.orphanOf (s : State) (w : Waiter) : Option Nat :=
  match w with
  | .copy c _ _ => (match s.copies.get? c with | some y => if y.orphan then some c else none | none => none)
  | _ => none

/-- A failing row: a fault-buffer entry, where the waiter blocks; held back if the buffer is full (R100, R101). The command
processor resolves CAUSE 0b100 from there (R96). -/
def State.walkFault (s : State) (n : Nat) (k : Walk) (w : Waiter) (row : Nat) : State :=
  let (q, lid) := s.waiterIds w
  match s.orphanOf w with
  | some c => s.failCopy c row
  | none => match s.enterFault k.die k.aspace w.va w.kind row q lid w with
  | some (i, s1) =>
    match w with
    | .thread t _ _ | .frame t _ _ => s1.modT t fun x => if x.wait = .walk n then { x with wait := .fault k.die i } else x
    | .copy c _ _ => { s1 with copies := s1.copies.modify c fun y => { y with phase := .faulted k.die i row } }
  | none => { s with walks := s.walks.modify n fun x => { x with held := x.held ++ [(w, row)] } }

/-- One waiter of a finished walk (R95). -/
def State.walkOne (s : State) (n : Nat) (k : Walk) (w : Waiter) : State :=
  match s.walk (s.walkCache.getD k.die []) k.aspace w.va w.kind (s.waiterSlot w) with
  | .ok e => s.fillTlbs k w e
  | .damaged c pa => s.walkDamage k w c pa
  | .fail r => s.walkFault n k w r

/-- A walk without waiters left is over. -/
def State.endWalk (s : State) (n : Nat) : State :=
  match s.walks.get? n with
  | some k => if k.waiters.isEmpty && k.held.isEmpty then { s with walks := s.walks.erase n } else s
  | none => s

/-- The walks of a die that its 64 walkers serve now: the oldest (R99). -/
def State.inWalkers (s : State) (w : Nat) (k : Walk) : Bool :=
  ((s.walks.filter fun e => e.2.die == k.die && !e.2.waiters.isEmpty).take 64).any (·.1 == w)

/-- The walks that wait for the same page: of a large page, all its parts (R99). -/
def State.sameWalks (s : State) (w : Nat) (k : Walk) : List Nat :=
  match s.walk (s.walkCache.getD k.die []) k.aspace (65536 * k.vpn) .load none with
  | .ok e => s.walks.keysWhere fun n x => n == w || (x.die == k.die && x.aspace == k.aspace && e.covers k.aspace (65536 * x.vpn))
  | _ => [w]

/-- Every waiter of a walk goes on by its own access. -/
def State.serveWalk (s : State) (n : Nat) : State :=
  match s.walks.get? n with
  | none => s
  | some k =>
    let s := { s with walks := s.walks.modify n fun x => { x with waiters := [] } }
    (k.waiters.foldl (fun s u => s.walkOne n k u) s).endWalk n

/-- PAGE_WALK: the walker loads the entries once for the page, and every waiter goes on. -/
def execPageWalk (w : Nat) (s : State) : Result :=
  match s.walks.get? w with
  | none => notNow "PAGE_WALK"
  | some k =>
    if k.waiters.isEmpty || !s.inWalkers w k then notNow "PAGE_WALK"
    else
      let s := s.walkLoads (s.walkCache.getD k.die []) k.aspace (65536 * k.vpn)
      .next ((s.sameWalks w k).foldl State.serveWalk s)

/-- Whether a die's fault buffer can take a waiter of a page. -/
def State.faultRoom (s : State) (k : Walk) : Bool :=
  decide ((s.dieFaults k.die).length < 4096) ||
    (s.dieFaults k.die).any fun e => e.2.aspace == k.aspace && e.2.vpn == k.vpn

/-- FAULT_ENTRY_RETRY: a held walk enters the fault buffer once there is room (R100). -/
def execFaultEntryRetry (w : Nat) (s : State) : Result :=
  match s.walks.get? w with
  | none => notNow "FAULT_ENTRY_RETRY"
  | some k =>
    if k.held.isEmpty || !s.faultRoom k then notNow "FAULT_ENTRY_RETRY"
    else
      let s := { s with walks := s.walks.modify w fun x => { x with held := [] } }
      .next ((k.held.foldl (fun s u => s.walkFault w k u.1 u.2) s).endWalk w)

/-! ## Instruction fetch (05 R126, 17 R370) -/

/-- The instruction-cache line of a core that holds a VA. -/
def State.icLine (s : State) (core aspace line : Nat) : Option ICacheLine :=
  (s.core core).icache.find? fun l => l.aspace == aspace && l.line == line

/-- The earlier contents of a line that the gangs of a core may still fetch (05 R126, R127): those since its page was last
mapped executable, and, for gangs admitted before, those from before that command. -/
def State.oldCode (s : State) (core ln : Nat) : List (List Gran) :=
  ((s.codeHist.getD ln []).filter fun o => match o.till with
    | none => true
    | some t => s.gangs.all fun g => g.2.core != core || !g.2.phase.onCore || decide (g.2.admitTime < t)).map (·.gr)

/-- A code line as it arrives from memory: bytes, and whether some granule is poisoned. It holds an arbitrary one of the contents
that the fetch may find (05 R126). -/
def State.codeLine (s : State) (core aspace line : Nat) : Option (ICacheLine × State) :=
  match s.tlbLook core none aspace (64 * line) .fetch none with
  | none => none
  | some e =>
    match e.place (64 * line) core with
    | .dev pa _ =>
      let s := s.fillLine (pa / 64)
      let ls := s.peekLine (pa / 64) (leafKey e.leaf) :: s.oldCode core (pa / 64)
      let (c, s) := s.pick ls.length
      let l := ls.getD c []
      some (⟨aspace, line, granBytes l, l.any (·.poison), false⟩, s)
    | .peer pa => match s.peerRead pa 8 with
      | (none, s) => some (⟨aspace, line, List.replicate 64 0, false, true⟩, s)
      | (some gs, s) => some (⟨aspace, line, granBytes (gs.map (·.2)), gs.any (·.2.poison), false⟩, s)
    | .pad _ _ => none

def State.dropCode (s : State) (core aspace line : Nat) : State :=
  s.setCore core fun c => { c with icache := c.icache.filter fun l => !(l.aspace == aspace && l.line == line) }

/-- INSTRUCTION_FETCH: a code line arrives in the cache of a core; with a parity error the line there is dropped and
refetched, and the core has one scruple more. -/
def execInstructionFetch (core aspace line : Nat) (parity : Bool) (s : State) : Result :=
  let put (s : State) : Option State := (s.codeLine core aspace line).map fun l =>
    (l.2.dropCode core aspace line).setCore core fun c => { c with icache := l.1 :: c.icache }
  match parity, s.icLine core aspace line with
  | false, none => match put s with | some s' => .next s' | none => notNow "INSTRUCTION_FETCH"
  | true, some _ =>
    let s1 := (s.dropCode core aspace line).addScruples (.core core) 1
    .next (match put s1 with | some s' => s' | none => s1)
  | _, _ => notNow "INSTRUCTION_FETCH"

end Sys2Proof.Machine
end

