-- ==== Sys2Proof/Machine/Context.lean ====
section
/-! DEFINITION. Saving a gang to its backing stacks and its context area, and restoring it (17 R377, R379 to R381, 09 R208, R209,
R217, 06 R141, R142, 16 R351, R354). The layout of crew records and copy descriptors is not stated: what stands there in
memory is free, and the state keeps what it stands for (log entry 21). -/

namespace Sys2Proof.Machine

/-! ## Packing -/

/-- Fields, least significant first, as one number: width and value. -/
def pack : List (Nat × Nat) → Nat
  | [] => 0
  | (w, v) :: r => v % 2 ^ w + 2 ^ w * pack r

/-- Word `i` of a number. -/
def wordAt (n i : Nat) : Word := BitVec.ofNat 64 (fld n (64 * i) 64)

/-- The code of a predicate in the predicate word (02 R26). -/
def predBits (l : Vector Pred 7) : Nat := pack (l.toList.map (fun p => (2, p.code)) ++ [(2, 1)])

def bit (b : Bool) : Nat := if b then 1 else 0

/-- The metadata image (09 R208). -/
def metaImage (pc mt : Word) (l0 l1 : Val) (ls : Vector LoopLevel 3) (ps : Vector Pred 7) (fp ts wb : Nat) : Nat :=
  pack [(64, pc.toNat), (64, mt.toNat), (64, l0.data.toNat), (64, l1.data.toNat),
    (32, ls[0].count.toNat), (32, ls[1].count.toNat), (32, ls[2].count.toNat), (16, predBits ps),
    (1, bit l0.kind), (1, bit l1.kind), (2, 0), (1, bit ls[0].active), (1, bit ls[1].active), (1, bit ls[2].active), (1, 0),
    (8, fp), (32, ts), (32, wb), (32, ls[0].start.toNat), (32, ls[1].start.toNat), (32, ls[2].start.toNat),
    (9, ls[0].len.toNat), (9, ls[1].len.toNat), (9, ls[2].len.toNat)]

def Thread.metaNat (x : Thread) : Nat :=
  metaImage x.pc x.mt x.l0 x.l1 x.loops x.preds x.fpmode.toNat x.tstat.toNat x.wb

/-- The trap save as bits [575:64] of an image (17 R381). -/
def TrapSave.nat (v : TrapSave) : Nat := metaImage 0 v.mt v.l0 v.l1 v.loops v.preds 0 0 0 / 2 ^ 64 % 2 ^ 512

/-- The trap record of a thread, 32 words (17 R381). -/
def Thread.trapRecord (x : Thread) : List Word :=
  [x.xpc, x.xval, x.xcause, x.xpend, x.xvec, if x.step then 1 else 0, BitVec.ofNat 64 x.lt, if x.xdepth then 1 else 0]
    ++ (List.range 8).map (wordAt x.save.nat) ++ x.pend.toList.map (·.xval) ++ List.replicate 13 0

/-! ## Unpacking -/

def loopOf (n i : Nat) : LoopLevel :=
  ⟨bitAt n (372 + i), BitVec.ofNat 32 (fld n (256 + 32 * i) 32), BitVec.ofNat 32 (fld n (448 + 32 * i) 32),
    BitVec.ofNat 9 (fld n (544 + 9 * i) 9)⟩

def predsOf (n : Nat) : Vector Pred 7 := Vector.ofFn fun i => Pred.ofCode (fld n (352 + 2 * i.val) 2)

def latOf (n i : Nat) : Val := ⟨BitVec.ofNat 64 (fld n (128 + 64 * i) 64), bitAt n (368 + i)⟩

/-- A thread with the fields of a metadata image. -/
def Thread.withMeta (x : Thread) (n : Nat) : Thread :=
  { x with
    pc := wordAt n 0, mt := wordAt n 1, l0 := latOf n 0, l1 := latOf n 1, l0bad := false, l1bad := false
    loops := Vector.ofFn fun i => loopOf n i.val, preds := predsOf n
    fpmode := BitVec.ofNat 8 (fld n 376 8), tstat := BitVec.ofNat 8 (fld n 384 8), wb := fld n 416 32 }

/-- A thread with the fields of a trap record. -/
def Thread.withRecord (x : Thread) (l : List Word) : Thread :=
  let w (i : Nat) : Word := l.getD i 0
  let n := pack (((List.range 8).map fun i => (64, (w (8 + i)).toNat))) * 2 ^ 64
  { x with
    xpc := w 0, xval := w 1, xcause := w 2, xvec := w 4, step := (w 5).getLsbD 0, lt := (w 6).toNat % 2 ^ 40
    xdepth := (w 7).getLsbD 0
    save := ⟨wordAt n 1, latOf n 0, latOf n 1, false, false, predsOf n, Vector.ofFn fun i => loopOf n i.val⟩
    pend := Vector.ofFn fun i =>
      let p := (w 3).toNat / 2 ^ (16 * i.val)
      ⟨bitAt p 15, bitAt p 14, BitVec.ofNat 8 p, w (16 + i.val)⟩ }

/-! ## The context area -/

/-- Brings `n` words of a context area into L2. -/
def State.ctxBring (s : State) (g : Gang) (off n : Nat) : State :=
  (List.range ((off % 64 + 8 * n + 63) / 64)).foldl (fun s i => s.fillLine (g.ctxPa (off / 64 * 64 + 64 * i) / 64)) s

/-- `n` words of a context area, as they stand; and the first that fails its check, with its offset (log entry 107). -/
def State.ctxRead (s : State) (g : Gang) (off n : Nat) : List Word :=
  (List.range n).map fun i => (s.peekGran (g.ctxPa (off + 8 * i) / 8) 0).data
def State.ctxBad (s : State) (g : Gang) (off n : Nat) : Option (Byte × Nat) :=
  (List.range n).findSome? fun i =>
    ((s.peekGran (g.ctxPa (off + 8 * i) / 8) 0).check (g.ctxPa (off + 8 * i) / 8 * 8)).map fun c => (c, off + 8 * i)

/-- The VA of an offset in a gang's context area (15 R334). -/
def State.ctxVa (s : State) (g : Gang) (off : Nat) : Nat :=
  match s.launches.get? g.slot with | some l => l.record.ctxVa + 0x40_0000 * g.set + off | none => off

/-- Poisons a word of a context area: its value held an uncorrectable error. -/
def State.ctxPoison (s : State) (g : Gang) (off : Nat) : State :=
  let pa := g.ctxPa off
  s.pokeGrans (pa / 64) 0 [(pa / 8 % 8, { s.peekGran (pa / 8) 0 with poison := true })]

/-- Writes free words for what stands in an image whose layout is not stated, and keeps what they stand for. -/
def State.ctxImage (s : State) (g : Gang) (off n : Nat) (o : ImageOf) : State :=
  let l := (List.range n).map fun i => Config.freeWord (s.free + i)
  { s.ctxWrite g off l with free := s.free + n, images := (l, o) :: s.images }

/-- What the words of an image stand for; none: the device has not written them. -/
def State.imageAt (s : State) (g : Gang) (off n : Nat) : Option ImageOf :=
  (s.images.find? fun e => e.1 == s.ctxRead g off n).map (·.2)

/-- The gang record (17 R380). -/
def Gang.record (g : Gang) : List Word :=
  [g.tcfg, BitVec.ofNat 64 (g.pot.length % 2 ^ 16), BitVec.ofNat 64 g.admit125, BitVec.ofNat 64 g.padClock] ++
    (List.range 16).map (fun m => match g.handles.get? m with
      | some h => BitVec.ofNat 64 (h.off + h.kib * 2 ^ 32 + 2 ^ 63)
      | none => 0) ++ List.replicate 12 0

/-- A barrier's 128 bits (16 R351). -/
def Bar.words (b : Bar) : List Word :=
  let n := pack [(32, b.arr.toNat), (16, b.ph.toNat), (32, b.seen.toNat), (1, 0), (6, b.exp), (1, bit b.xset), (40, b.bt)]
  [wordAt n 0, wordAt n 1]
def Bar.ofWords (a c : Word) : Bar :=
  let n := a.toNat + c.toNat * 2 ^ 64
  { arr := BitVec.ofNat 32 (fld n 0 32), ph := BitVec.ofNat 16 (fld n 32 16), seen := BitVec.ofNat 32 (fld n 48 32)
    exp := fld n 81 6, xset := bitAt n 87, bt := fld n 88 40 }

/-- A span barrier's 64 bytes (16 R354). -/
def SpanBar.words (b : SpanBar) : List Word :=
  let n := pack [(256, b.arr.toNat), (16, b.ph.toNat), (9, b.exp), (63, 0), (40, b.bt), (128, 0)]
  (List.range 8).map (wordAt n)
def SpanBar.ofWords (l : List Word) : SpanBar :=
  let n := pack (l.map fun w => (64, w.toNat))
  { arr := BitVec.ofNat 256 (fld n 0 256), ph := BitVec.ofNat 16 (fld n 256 16), exp := fld n 272 9, bt := fld n 344 40 }

/-- A queue register: count, then data and time of each entry, head first (17 R380). -/
def queueWords (l : List QEntry) : List Word :=
  (BitVec.ofNat 64 l.length :: l.flatMap fun e => [e.data, BitVec.ofNat 64 e.time]) ++ List.replicate (63 - 2 * l.length) 0
def queueOfWords (l : List Word) : List QEntry :=
  (List.range (Nat.min ((l.getD 0 0).toNat % 256) 16)).map fun i => ⟨l.getD (1 + 2 * i) 0, (l.getD (2 + 2 * i) 0).toNat % 2 ^ 40⟩

/-- The plan image of a gang as it stands in its context area (12 R277). -/
def State.readPlan (s : State) (g : Gang) : List (List Byte) :=
  let h := s.ctxRead g 0x8_0000 1
  let n := Nat.min ((h.getD 0 0).toNat % 2 ^ 16) 256
  (List.range n).map fun i => (s.ctxRead g (0x8_0020 + 32 * i) 4).flatMap fun w => leBytes 8 w.toNat

/-! ## Liveness (09 R216, R217) -/

/-- A checked word at a VA of the gang's address space, for an engine of its core; none where it cannot be read. -/
def State.engWord (s : State) (g : Gang) (va : Nat) : Option Word × State :=
  match s.xlateFill g.core g.aspace va .load none with
  | (.ok e, s) => match e.place va g.core with
    | .dev pa gpa =>
      let s := s.fillLine (pa / 64)
      match s.peekWord (pa / 8 * 8) (gpa / 8 * 8) (leafKey e.leaf) with
      | .ok w => (some w, s)
      | .error c => (none, s.checkScruples c (some g.core) (pa / 8 * 8))
    | .peer pa => match s.peerRead pa 1 with
      | (some ((a, u) :: _), s) => (if (u.check a).isNone then some u.data else none, s)
      | (_, s) => (none, s)
    | .pad _ _ => (none, s)
  | (_, s) => (none, s)

/-- The mask of the last of `n` liveness entries from a VA whose offset is not above `off`; the entries stand in ascending order. -/
def liveFrom (g : Gang) (off : Nat) : Nat → Nat → Word → State → Word × State
  | 0, _, m, s => (m, s)
  | n + 1, va, m, s =>
    match s.engWord g va with
    | (none, s) => (BitVec.allOnes 64, s)
    | (some o, s) =>
      if off < o.toNat % 2 ^ 32 then (m, s)
      else match s.engWord g (va + 8) with
        | (none, s) => (BitVec.allOnes 64, s)
        | (some w, s) => liveFrom g off n (va + 16) w s

/-- The live mask at a PC; every register where no entry applies or the table cannot be read. -/
def State.liveMask (s : State) (g : Gang) (pc : Nat) : Word × State :=
  match g.kernel.liveVa with
  | none => (BitVec.allOnes 64, s)
  | some va =>
    if pc < g.kernel.codeBase then (BitVec.allOnes 64, s)
    else match s.engWord g va with
      | (none, s) => (BitVec.allOnes 64, s)
      | (some n, s) => liveFrom g (pc - g.kernel.codeBase) n.toNat (va + 8) (BitVec.allOnes 64) s

/-! ## Saving -/

/-- The operand-cache slots of a thread that a save writes back (R217): all dirty ones, or those that the mask names. -/
def Thread.toSave (x : Thread) (mask : Word) (all : Bool) : List Nat :=
  (x.oc.filter fun e => e.2.dirty &&
    (all || decide (e.1 < x.wb) || (decide (e.1 < x.wb + 64) && mask.getLsbD (e.1 - x.wb)))).map (·.1)

/-- Frees what is left of a thread's operand-cache entries; the values of dirty ones are dead (R213, R217). -/
def Thread.dropOc (x : Thread) : Thread :=
  { x with
    oc := [], dead := (x.oc.filter (·.2.dirty)).foldl (fun d e => markSet d e.1 true) x.dead }

/-- The numbers of a gang's acres: its frame acres, then those of the pad, then of the tile store. -/
def Gang.acreNos (g : Gang) : List Nat := List.range (g.frameAcres + g.padAcres + g.tileAcres)

/-- The frame acre that holds a slot of a thread: the slots of the resident range take the crew's perches in turn (log entry 58). -/
def State.acreOfSlot (s : State) (t i : Nat) : Nat :=
  match s.crews.get? (ckOf t) with | some c => c.perchMap.getD (i % c.quota) 0 / 16 | none => 0

/-- The slots whose perches stand in some acres. -/
def State.slotsIn (s : State) (t : Nat) (as : List Nat) : List Nat :=
  match s.threads.get? t with
  | some y => (y.perches.map (·.1)).filter fun i => as.contains (s.acreOfSlot t i)
  | none => []

/-- Writes perches of a thread, by slot, to its backing stack and empties them (06 R141). -/
def spillPerches (t : Nat) : List Nat → State → Except Stop State
  | [], s => .ok s
  | i :: r, s =>
    match s.threads.get? t with
    | none => .ok s
    | some x =>
      match x.perches.get? i with
      | none => spillPerches t r s
      | some p =>
        if p.modified then
          match s.spillSlot t i p.v p.bad with
          | .ok s' => spillPerches t r (s'.modT t fun x => { x with perches := x.perches.erase i })
          | .error e => .error e
        else spillPerches t r (s.modT t fun x => { x with perches := x.perches.erase i })

/-- Writes the words of a metadata block; those numbered in `bad` hold a latch with an uncorrectable error (09 R214). -/
def saveMeta (t n base : Nat) (bad : List Nat) : Nat → State → Except Stop State
  | 0, s => .ok s
  | k + 1, s =>
    match saveMeta t n base bad k s with
    | .error e => .error e
    | .ok s' => match s'.framePa t (base + 8 * k) .store with
      | .error e => .error e
      | .ok p => .ok (s'.pokeFrame p (wordAt n k) (bad.contains k))

/-- The numbers of latch words, from the first latch's, that hold an uncorrectable error. -/
def badLatches (n : Nat) (b0 b1 : Bool) : List Nat := (if b0 then [n] else []) ++ if b1 then [n + 1] else []

/-- Writes a thread's trap record (17 R381). -/
def State.saveRecord (s : State) (g : Gang) (t : Nat) (x : Thread) : State :=
  let off := 0x1_0000 + 256 * (32 * crewOf t + laneOf t)
  (badLatches 9 x.save.l0bad x.save.l1bad).foldl (fun s k => s.ctxPoison g (off + 8 * k)) (s.ctxWrite g off x.trapRecord)

/-- Saves one thread: write-backs, metadata block, trap record; with `out`, its perches too. -/
def State.saveThread (s : State) (g : Gang) (t : Nat) (all out : Bool) : Except Stop State :=
  match s.threads.get? t with
  | none => .ok s
  | some x =>
    if x.restoring then .ok s
    else
    let (mask, s) := s.liveMask g x.pc.toNat
    match flushFrom t (x.toSave mask all) s with
    | .error e => .error e
    | .ok s1 =>
      let s2 := s1.modT t Thread.dropOc
      match (if out then spillPerches t (s2.slotsIn t g.acreNos) s2 else .ok s2) with
      | .error e => .error e
      | .ok s3 =>
        match saveMeta t x.metaNat (g.stackBase (crewOf t) (laneOf t)) (badLatches 2 x.l0bad x.l1bad) 16 s3 with
        | .error e => .error e
        | .ok s4 => .ok (s4.saveRecord g t x)

/-- Saves the threads of a list; the first that meets a fault is named. -/
def State.saveThreads (g : Gang) (all out : Bool) : List Nat → State → Except (Nat × Stop) State
  | [], s => .ok s
  | t :: r, s =>
    match s.saveThread g t all out with
    | .error e => .error (t, e)
    | .ok s' => State.saveThreads g all out r s'

/-- The copies of a gang that its engine has not accepted, in issue order. -/
def State.unaccepted (s : State) (g : Nat) : List Copy :=
  (s.copies.filter fun e => e.2.gang == g && !e.2.phase.held && !e.2.orphan).map (·.2)

/-- A phase in which a gang's own state stands in the device, not in its images. -/
def Phase.runs : Phase → Bool | .prologue | .resident | .stopping _ => true | _ => false

/-- Whether no other gang of a gang's span runs: its span barriers stand in the image of the span's gang 0, if that is there. -/
def State.spanImage (s : State) (gk : Nat) (g : Gang) : Option (Gang × Span) :=
  match s.spans.get? g.span with
  | none => none
  | some sp =>
    if sp.members.any fun m => m != gk && (s.gangs.get? m).any (·.phase.runs) then none
    else (sp.members.filterMap s.gangs.get?).findSome? fun y => if y.spanPos = 0 then some (y, sp) else none

/-- Writes the barriers of a gang, and those of its span, to their images (16 R351, R354). -/
def State.saveBars (s : State) (gk : Nat) (g : Gang) : State :=
  let s := s.ctxWrite g 0x100 (g.bars.toList.flatMap Bar.words)
  match s.spanImage gk g with
  | some (y, sp) => s.ctxWrite y 0x200 (sp.bars.toList.flatMap SpanBar.words)
  | none => s

/-- The images of a gang's unaccepted copies, in issue order, and of their end. -/
def State.saveCopies (s : State) (gk : Nat) (g : Gang) : State :=
  let l := s.unaccepted gk
  let s := l.zipIdx.foldl (fun s c => s.ctxImage g (0x1400 + 64 * c.2) 8 (.copy c.1)) s
  if l.length < 128 then s.ctxImage g (0x1400 + 64 * l.length) 8 .noCopy else s

/-- The images of a gang's crews. -/
def State.saveCrews (s : State) (gk : Nat) (g : Gang) : State :=
  (List.range g.kernel.crews).foldl (fun s j => match s.crews.get? (ckey gk j) with
    | some c => s.ctxImage g (0x4000 + 256 * j) 32 (.crew c ((s.liveThreads (ckey gk j)).map laneOf))
    | none => s) s

/-- Saves the gang's own state to its context area. -/
def State.saveRecords (s : State) (gk : Nat) (g : Gang) : State :=
  let s := (s.ctxWrite g 0 g.record).saveBars gk g
  ((s.ctxWrite g 0x400 (g.queues.toList.flatMap queueWords)).saveCopies gk g).saveCrews gk g

/-- Moves granules of a pool region to backing memory, or back, with their grains (02 R45, R46: a hop). -/
def State.poolOut (s : State) (pa : Nat → Nat) (n : Nat) : State :=
  (List.range ((n + 7) / 8)).foldl (fun s i =>
    s.pokeGrans (pa (64 * i) / 64) 0 ((List.range (Nat.min 8 (n - 8 * i))).map fun k => (k, s.poolGran (pa (64 * i + 8 * k))))) s
def State.poolIn (s : State) (pa : Nat → Nat) (n : Nat) : State :=
  (List.range n).foldl (fun s i =>
    let s := s.fillLine (pa (8 * i) / 64)
    { s with pool := s.pool.setGran (pa (8 * i) / 8) (s.peekGran (pa (8 * i) / 8) 0) }) s

/-- What stands in an acre of a pad or a tile store: where its bytes are backed, and its granules; nothing for a frame acre. -/
def Gang.region (g : Gang) (a : Nat) : (Nat → Nat) × Nat :=
  if a < g.frameAcres then (g.padPa, 0)
  else
    let p := a - g.frameAcres
    if p < g.padAcres then (fun o => g.padPa (4096 * p + o), Nat.min 512 ((g.kernel.pad + 7) / 8 - 512 * p))
    else (fun o => g.tilePa (4096 * (p - g.padAcres) + o), 512)

/-- Acres of the pad and the tile store of a gang to their images, and back (06 R141). -/
def State.regionsOut (s : State) (g : Gang) (as : List Nat) : State :=
  as.foldl (fun s a => s.poolOut (g.region a).1 (g.region a).2) s
def State.regionsIn (s : State) (g : Gang) (as : List Nat) : State :=
  as.foldl (fun s a => s.poolIn (g.region a).1 (g.region a).2) s

/-- Saves a gang (17 R377 steps 3 and 4); `out`: its pool contents as well (R379, 06 R141). -/
def State.saveGang (s : State) (gk : Nat) (all out : Bool) : Except (Nat × Stop) State :=
  match s.gangs.get? gk with
  | none => .ok s
  | some g =>
    let ts := (s.gangThreads gk).filter fun t => match s.threads.get? t with | some x => x.live | none => false
    match State.saveThreads g all out ts s with
    | .error e => .error e
    | .ok s1 =>
      let s2 := s1.saveRecords gk g
      .ok (if out then s2.regionsOut g g.acreNos else s2)

/-- Spills what stands in some frame acres of a gang; the first thread that meets a fault is named. -/
def spillAcres (as : List Nat) : List Nat → State → Except (Nat × Stop) State
  | [], s => .ok s
  | t :: r, s =>
    match spillPerches t (s.slotsIn t as) s with
    | .error e => .error (t, e)
    | .ok s' => spillAcres as r s'

/-- Writes out acres of a gang that is saved already (17 R377). -/
def State.writeOutAcres (s : State) (gk : Nat) (as : List Nat) : Except (Nat × Stop) State :=
  match s.gangs.get? gk with
  | none => .ok s
  | some g => match spillAcres as (s.gangThreads gk) s with
    | .error e => .error e
    | .ok s1 => .ok (s1.regionsOut g as)

/-- A save that meets a fault of the fill/spill engine: the driver is asked, and the save goes on later. -/
def State.saveFault (s : State) (e : Nat × Stop) : State := s.frameStop e.1 e.2

/-! ## Stopping -/

/-- Stops the crews of a gang at instruction boundaries: blocked instructions are withdrawn, entries sent (R377). -/
def State.stopGang (s : State) (gk : Nat) (why : StopWhy) : State :=
  let s := (s.gangThreads gk).foldl (fun s t => match s.threads.get? t with
    | some x => if x.live && !x.inAccess then s.withdrawT t else s
    | none => s) s
  let s := match s.gangs.get? gk with
    | some g => s.withdraw g.core fun r => match r with | .talloc x j _ _ _ => x == gk && j == 32 | _ => false
    | none => s
  (s.sendGang gk).modG gk fun g => { g with phase := .stopping why }

/-- Whether an accepted copy is under way for a gang: its own, or one of a mate into its tiles or its pad (07 R180). -/
def Copy.serves (c : Copy) (gk : Nat) : Bool :=
  c.phase.held && (c.gang == gk || c.xfer.dests.any (·.1 == gk) || (match c.xfer.pad with | some (m, _) => m == gk | none => false))

/-- Whether everything that a stop waits for is over: accesses bound, accepted copies landed, tile instructions complete,
no spill in the hands of the driver (R377, R378). -/
def State.stopped (s : State) (gk : Nat) : Bool :=
  ((s.gangThreads gk).all fun t => match s.threads.get? t with
    | some x => x.accs.isEmpty && !s.frameBusy t
    | none => true) &&
  !(s.copies.any fun e => e.2.serves gk) && !(s.tileOps.any fun o => o.2.gang == gk)

/-! ## Restoring -/

/-- Checked words of a thread's backing stack; the first that cannot be read stops the read. -/
def State.frameWords (s : State) (t : Nat) : List Nat → Except Stop (List Word)
  | [] => .ok []
  | va :: r => match s.frameWord t va, s.frameWords t r with
    | .ok w, .ok l => .ok (w :: l)
    | .error e, _ | _, .error e => .error e

/-- A thread goes on from what has been restored. -/
def Thread.restored (x : Thread) : Thread :=
  { x.setSleep x.sleepKept with restoring := false, wait := if x.pc = x.mt then .meet else .none, due := false }

/-- The fill/spill engine reads the metadata block of a thread, and then the kind words of its window (09 R208, log entry 86). A
translation that fails holds the thread up until it can be read; a failing granule is reported through the FRAME slot
(02 R50). -/
def State.readMeta (s : State) (t : Nat) : State :=
  match s.gangs.get? (gangOf t) with
  | none => s
  | some g =>
    let base := g.stackBase (crewOf t) (laneOf t)
    match s.frameWords t ((List.range 16).map (base + 8 * ·)) with
    | .error (.trap c v pa) => (s.modT t Thread.restored).asyncFrame t c v pa
    | .error e => s.frameStop t e
    | .ok l =>
      let n := pack (l.map fun w => (64, w.toNat))
      let wb := fld n 416 32
      match s.frameWords t [s.kindVa t wb, s.kindVa t (wb + 63)] with
      | .error (.trap c v pa) => (s.modT t fun x => (x.withMeta n).restored).asyncFrame t c v pa
      | .error e => s.frameStop t e
      | .ok _ => s.modT t fun x => (x.withMeta n).restored

/-- Restores one thread from its trap record and its metadata block. Ageing counts become 0 (14 R306). A poisoned latch of the trap save
is one that holds an uncorrectable error (09 R214); any other failing granule of the record is reported as one of the metadata block
(log entry 107). -/
def State.restoreThread (s : State) (g : Gang) (t : Nat) : State :=
  let off := 0x1_0000 + 256 * (32 * crewOf t + laneOf t)
  let s := s.ctxBring g off 32
  let rec0 := s.ctxRead g off 32
  let latchBad (k : Nat) : Bool := (s.peekGran (g.ctxPa (off + 8 * k) / 8) 0).poison
  let bad := ((List.range 32).filter fun k => !((k = 9 ∨ k = 10) ∧ latchBad k)).findSome? fun k => s.ctxBad g (off + 8 * k) 1
  let s := s.modT t fun x =>
    let y := x.withRecord rec0
    { y with save := { y.save with l0bad := latchBad 9, l1bad := latchBad 10 }, wait := .none, due := false, age := 0, restoring := true }
  match bad with
  | some (c, o) => (s.readMeta t).asyncFrame t c (BitVec.ofNat 64 (s.ctxVa g o)) (some (g.ctxPa o))
  | none => s.readMeta t

/-- A cause for a thread that stands saved reaches its trap record, from which it is restored (17 R369, R381). -/
def State.arriveSaved (s : State) (g : Gang) (t : Nat) (n : Fin 3) (cause : Byte) (xval : Word) : State :=
  let off := 0x1_0000 + 256 * (32 * crewOf t + laneOf t)
  let s := s.ctxBring g off 32
  match s.threads.get? t with
  | none => s
  | some x =>
    let y := (x.withRecord (s.ctxRead g off 32)).arrive n cause xval
    (s.ctxWrite g (off + 24) [y.xpend]).ctxWrite g (off + 128) (y.pend.toList.map (·.xval))

/-- A thread whose restore was held up goes on with it. -/
def State.goOnRestore (s : State) (t : Nat) : State :=
  match s.threads.get? t with
  | some x => if x.restoring && x.wait == .none then s.readMeta t else s
  | none => s

/-- The handles of a gang record; what the record does not hold of them is as it was. -/
def handlesOf (h : List Word) (old : Tab Handle) : Tab Handle :=
  (List.range 16).filterMap fun m =>
    let w := (h.getD (4 + m) 0).toNat
    if bitAt w 63 then
      some (m, match old.get? m with
        | some o => { o with off := fld w 0 32, kib := fld w 32 16 }
        | none => ⟨fld w 0 32, fld w 32 16, none, none⟩)
    else none

/-- A crew whose image is not what the device wrote: its tickets are free values (log entry 21). -/
def State.reviseCrew (s : State) (gk : Nat) (g : Gang) (j : Nat) : State :=
  let s := s.ctxBring g (0x4000 + 256 * j) 32
  match s.imageAt g (0x4000 + 256 * j) 32 with
  | some _ => s
  | none => { s with free := s.free + 5 }.modC (ckey gk j) fun c => { c with
      tp := Vector.ofFn fun i => BitVec.ofNat 16 ((Config.freeWord (s.free + i.val / 4)).toNat / 2 ^ (16 * (i.val % 4)))
      ts := Vector.ofFn fun i => BitVec.ofNat 16 ((Config.freeWord (s.free + 4)).toNat / 2 ^ (16 * i.val)) }

/-- The images of a gang's own state: offset and words. -/
def gangImages : List (Nat × Nat) := [(0, 32), (0x100, 32), (0x200, 32), (0x400, 512)]

/-- Brings the images of a gang's own state, its copies and its crews; a granule that fails its check contains the launch (log entry
107). -/
def State.bringRecords (s : State) (gk : Nat) (g : Gang) : State :=
  let is := gangImages ++ [(0x1400, 8 * Nat.min 128 ((s.unaccepted gk).length + 1)), (0x4000, 32 * g.kernel.crews)]
  let s := (is ++ [(0x8_0000, 1028)]).foldl (fun (s : State) (i : Nat × Nat) => s.ctxBring g i.1 i.2) s
  match is.findSome? fun i => s.ctxBad g i.1 i.2 with
  | some (c, o) => (s.checkScruples c (some g.core) (g.ctxPa o)).contain g.slot c.toNat g.detail false
  | none => s

/-- Restores a gang's own state. -/
def State.restoreRecords (s : State) (gk : Nat) (g : Gang) : State :=
  let s := s.bringRecords gk g
  let h := s.ctxRead g 0 32
  let b := s.ctxRead g 0x100 32
  let q := s.ctxRead g 0x400 512
  let tc := (h.getD 0 0).toNat
  let s := s.modG gk fun g => { g with
    grows := fld tc 0 16, gcols := fld tc 16 16, fit := bitAt tc 32, admit125 := (h.getD 2 0).toNat
    padClock := (h.getD 3 0).toNat % 2 ^ 40
    handles := handlesOf h g.handles
    bars := Vector.ofFn fun i => Bar.ofWords (b.getD (2 * i.val) 0) (b.getD (2 * i.val + 1) 0)
    queues := Vector.ofFn fun i => queueOfWords ((q.drop (64 * i.val)).take 64)
    plan := s.readPlan g }
  let s := match s.spanImage gk g with
    | some (y, _) =>
      let s := s.ctxBring y 0x200 32
      s.modS g.span fun sp => { sp with bars := Vector.ofFn fun i => SpanBar.ofWords (s.ctxRead y (0x200 + 64 * i.val) 8) }
    | none => s
  let s := (List.range g.kernel.crews).foldl (fun s j => s.reviseCrew gk g j) s
  { s with crews := s.crews.mapVals fun k c => if k / 32 = gk then { c with passed := 0 } else c }

/-- Restores a saved gang (17 R377, R379, 06 R142); `out`: its regions are refilled from their images. A gang that was stopped in
its prologue goes on with it. -/
def State.restoreGang (s : State) (gk : Nat) (out : Bool) : State :=
  match s.gangs.get? gk with
  | none => s
  | some g =>
    let s := if out then s.regionsIn g g.acreNos else s
    let ts := (s.gangThreads gk).filter fun t => match s.threads.get? t with | some x => x.live | none => false
    let s := (s.restoreRecords gk g).modG gk fun g =>
      { g with phase := if (s.gangThreads gk).isEmpty then .prologue else .resident, residentSince := s.time, resume := none }
    let s := s.setCore g.core fun c => { c with glist := c.glist.filter (· != gk), icache := [] }
    ts.foldl (fun s t => s.restoreThread g t) s

/-- Bits [63:24] of a word of a context area become a time, the others as they are; a granule that fails its check stays as it is (02
R49). -/
def State.stampHigh (s : State) (g : Gang) (ts off : Nat) : State :=
  let s := s.ctxBring g off 1
  if (s.ctxBad g off 1).isSome then s
  else s.ctxWrite g off [BitVec.ofNat 64 (((s.ctxRead g off 1).getD 0 0).toNat % 2 ^ 24 + ts * 2 ^ 24)]

/-- Every time in the images of a gang becomes `ts`: lt, the pad clock, BT and queue times (17 R380, R381, 16 R351, R354). -/
def State.retime (s : State) (g : Gang) (ts : Nat) : State :=
  let stamp (s : State) (off : Nat) : State := s.ctxWrite g off [BitVec.ofNat 64 ts]
  let s := (List.range (32 * g.kernel.crews)).foldl (fun s n => stamp s (0x1_0000 + 256 * n + 48)) s
  let s := (List.range 16).foldl (fun s i => s.stampHigh g ts (0x100 + 16 * i + 8)) (stamp s 24)
  let s := (if g.spanPos = 0 then List.range 4 else []).foldl (fun s i => s.stampHigh g ts (0x200 + 64 * i + 40)) s
  (List.range 8).foldl (fun s i =>
    let s := s.ctxBring g (0x400 + 512 * i) 64
    (List.range (queueOfWords (s.ctxRead g (0x400 + 512 * i) 64)).length).foldl (fun s k =>
      stamp s (0x400 + 512 * i + 16 + 16 * k)) s) s

/-! ## Rebase (05 R111) -/

/-- Every issued store and atomic has bound. -/
def State.storesBound (s : State) : Bool :=
  s.msgs.isEmpty && s.loose.isEmpty && s.replicas.isEmpty && (s.cores.all fun c => c.2.coal.all fun l => l.2.isEmpty) &&
  s.threads.all fun e => e.2.accs.all fun a => match a with | .load _ _ _ _ _ _ _ _ _ _ | .joined _ => true | _ => false

def Acc.noReply : Acc → Acc
  | .load va p n key f i k r h _ => .load va p n key f i k r h none
  | a => a

/-- The gangs whose values stand in their images: those that do not run, and those with a crew that the debugger has halted. -/
def State.imaged (s : State) : List Gang :=
  (s.gangs.filter fun e => match e.2.phase with
    | .preempted | .out | .resuming | .ready true | .halted => true
    | .resident => s.crews.any fun c => c.1 / 32 == e.1 && c.2.halted
    | _ => false).map (·.2)

/-- Every timestamp becomes 0, L1 copies go, checked-out lines return. -/
def State.rebased (s : State) : State :=
  { s with
    l2 := s.l2.mapVals fun _ e => { e with wts := 0, rts := 0, holder := .none, recalled := false }
    mts := []
    cores := s.cores.mapVals fun _ c => { c with l1 := [] }
    threads := s.threads.mapVals fun _ x => { x with lt := 0, repTs := 0, accs := x.accs.map Acc.noReply }
    crews := s.crews.mapVals fun _ c => { c with ktok := c.ktok.mapVals fun _ _ => 0, copyTs := 0 }
    gangs := s.gangs.mapVals fun _ g => { g with
      padClock := 0, recTime := 0, prologueTs := 0
      handles := g.handles.mapVals fun _ h => { h with tsc := h.tsc.map fun _ => 0 }
      bars := g.bars.map fun b => { b with bt := 0 }
      queues := g.queues.map fun l => l.map fun q => { q with time := 0 } }
    spans := s.spans.mapVals fun _ p => { p with bars := p.bars.map fun b => { b with bt := 0 } }
    launches := s.launches.mapVals fun _ l => { l with
      tsL := 0, ct := 0, nodes := l.nodes.map fun n => { n with times := n.times.map fun t => t.map fun _ => 0 } }
    queues := s.queues.mapVals fun _ q => { q with qlt := 0 }
    loose := s.loose.mapVals fun _ a => { a with b := 0 }
    copies := s.copies.mapVals fun _ c => { c with tsi := 0, tsc := 0, xfer := { c.xfer with ts := 0 } } }

/-- REBASE, once every issued store and atomic has bound. -/
def execRebase (s : State) : Result :=
  if s.rebaseDue && s.storesBound then .next ((s.imaged.foldl (fun s g => s.retime g 0) s).rebased.logEvent .rebase) else notNow "REBASE"

end Sys2Proof.Machine
end

