-- ==== Sys2Proof/Machine/Allocator.lean ====
section
/-! DEFINITION. The acres of kernels, gang lists, and the end of a stop (06 R137, 15 R339, 17 R377). The allocator's steps stand
in `Serve.lean`. -/

namespace Sys2Proof.Machine

/-! ## Acres of a kernel -/

/-- Acres of the parts of a gang at admission, and M (R137). -/
def Kernel.frameAcres (k : Kernel) : Nat := (k.crews * k.frame + k.crews * k.pot + 15) / 16
def Kernel.padAcres (k : Kernel) : Nat := (k.pad + 4095) / 4096
def Kernel.tileAcres (k : Kernel) : Nat := (k.tiles + 4095) / 4096
def Kernel.minAcres (k : Kernel) : Nat := k.frameAcres + k.padAcres + k.tileAcres

/-! ## Gang lists (15 R339) -/

/-- A gang's place in the order of a list: priority, resumptions by the order of pre-emption, launch acceptance, node gangs,
index. -/
def State.listKey (s : State) (gk : Nat) : List Nat :=
  match s.gangs.get? gk with
  | none => []
  | some g =>
    let order := match s.launches.get? g.slot with | some l => l.order | none => 0
    [3 - g.prio, if g.resume.isSome then 0 else 1, g.resume.getD 0, order, if g.node.isSome then 0 else 1, g.index]

/-- Lexicographic order. -/
def lexLt : List Nat → List Nat → Bool
  | [], [] => false
  | [], _ => true
  | _, [] => false
  | a :: r, b :: q => decide (a < b) || (a == b && lexLt r q)

/-- Inserts a gang into a list in order. -/
def State.insertGang (s : State) (gk : Nat) : List Nat → List Nat
  | [] => [gk]
  | a :: r => if lexLt (s.listKey gk) (s.listKey a) then gk :: a :: r else a :: s.insertGang gk r

/-- Puts a gang on a core's list. -/
def State.listGang (s : State) (core gk : Nat) : State :=
  let s := s.modG gk fun g => { g with core, listedAt := s.time }
  s.setCore core fun c => { c with glist := s.insertGang gk (c.glist.filter (· != gk)) }

/-- The unadmitted gangs of a list. -/
def State.listedOn (s : State) (core : Nat) : List Nat :=
  (s.core core).glist.filter fun gk => match s.gangs.get? gk with | some g => g.phase == .listed | none => false

/-! ## Resumption -/

/-- A span's members. -/
def State.spanMembers (s : State) (g : Gang) : List Nat :=
  match s.spans.get? g.span with | some p => p.members | none => []

/-- Whether a member of a span does not keep the others from running: it stands on its core, running, halted by the debugger or
about to resume (15 R343, 17 R379). -/
def Phase.inPlace : Phase → Bool
  | .prologue | .resident | .stopping .halt | .halted | .ready true => true
  | _ => false

/-- Resumes the gangs of a span that are ready for it once every member is in place. -/
def State.resumeReady (s : State) (gk : Nat) : State :=
  match s.gangs.get? gk with
  | none => s
  | some g =>
    let phase (m : Nat) : Option Phase := (s.gangs.get? m).map (·.phase)
    let ms := s.spanMembers g
    if ms.all fun m => (phase m).all Phase.inPlace then
      (ms.filter fun m => phase m == some (.ready true)).foldl (fun s m => s.restoreGang m false) s
    else s

/-! ## The end of a stop -/

/-- Acres of a gang that are written out are on their way to the loan (R138: OUT). -/
def State.goOut (s : State) (gk : Nat) (g : Gang) (as : List Nat) (p : Phase) : State :=
  ({ s with nextId := s.nextId + 1 }.setCore g.core fun c => { c with outs := c.outs.set s.nextId as.length }).modG gk fun y =>
    { y with phase := p, gone := y.gone ++ as }

/-- The acres of a gang that stand in the pool. -/
def Gang.inPool (g : Gang) : List Nat := g.acreNos.filter fun a => !g.gone.contains a

/-- Saves a stopped gang and leaves it as the stop says: pre-empted and listed, benched with its resumption requested, or
halted (17 R377, R379, 06 R141). -/
def State.finishStop (s : State) (gk : Nat) (g : Gang) (why : StopWhy) : State :=
  match why with
  | .preempt | .drain =>
    match s.saveGang gk false false with
    | .error e => s.saveFault e
    | .ok s1 =>
      let s2 := (s1.stopTags gk).modG gk fun y => { y with phase := .preempted, resume := some s1.nextId }
      { s2 with nextId := s2.nextId + 1 }.listGang g.core gk
  | .bench =>
    match s.saveGang gk false true with
    | .error e => s.saveFault e
    | .ok s1 => ((s1.stopTags gk).goOut gk g g.acreNos .resuming).addReq g.core (.resume gk) g.acres g.frameAcres
  | .halt =>
    match s.saveGang gk true true with
    | .error e => s.saveFault e
    | .ok s1 => s1.modG gk fun y => { y with phase := .halted }

/-- The gang of a core that stops for a reason and has nothing left to wait for. -/
def State.readyStop (s : State) (core : Nat) (why : StopWhy) : Option (Nat × Gang) :=
  s.gangs.find? fun e => e.2.core == core && e.2.phase == .stopping why && s.stopped e.1

/-- A pre-empted gang of a core whose acres the allocator may write out (17 R377). -/
def State.writable (s : State) (core : Nat) : List Nat :=
  s.gangs.keysWhere fun gk g => g.core == core && g.phase == .preempted && !g.held && decide (0 < g.owned) &&
    (s.gangThreads gk).all fun t => !s.frameBusy t

end Sys2Proof.Machine
end

