-- ==== Sys2Proof/Machine/Proc.lean ====
section
/-! DEFINITION. Accesses of the command processors, and what they read of kernels (15 R326 to R334, 18 R394).
Log entry 23 says what the spec leaves open of their accesses to the peer window. -/

namespace Sys2Proof.Machine

/-! ## Accesses (15 R329, R331) -/

/-- A processor's translation: 0x04 for a failing row, 0x07 for a damaged entry (04 R441). -/
def State.procAt (s : State) (die aspace va : Nat) (k : AccKind) : PRes Target :=
  match s.procWalk die aspace va k with
  | (.ok e, s) => (.ok ⟨e.place va (80 * die), leafKey e.leaf, leafRep e.leaf, leafComp e.leaf⟩, s)
  | (.error c, s) => (.error c, s)

/-- An aligned word with its timestamp, loaded with lower bound `b` at a place. -/
def State.placeLoad (s : State) (t : Target) (b : Nat) : PRes (Word × Nat) :=
  match t.place with
  | .dev pa gpa =>
    let (r, s) := s.lineLoad (pa / 64) t.key b
    let g := r.line.getD (pa / 8 % 8) ⟨0, 0, true⟩
    match g.check (gpa / 8 * 8) with
    | none => (.ok (g.data, Nat.max b r.wts), s)
    | some c => (.error 7, s.damage c none (gpa / 8 * 8))
  | .peer pa => match s.peerRead pa 1 with
    | (some ((a, g) :: _), s) => (if (g.check a).isNone then .ok (g.data, b) else .error 7, s)
    | (_, s) => (.error 4, s)
  | .pad _ _ => (.error 4, s)

/-- An aligned word of a VA, loaded with lower bound `b`. -/
def State.procLoad (s : State) (die aspace va b : Nat) : PRes (Word × Nat) :=
  match s.procAt die aspace va .load with
  | (.ok t, s) => s.placeLoad t b
  | (.error e, s) => (.error e, s)

/-- `n` aligned words from a VA up, and the greatest timestamp. -/
def State.procWords (s : State) (die aspace va b : Nat) : Nat → PRes (List Word × Nat)
  | 0 => (.ok ([], b), s)
  | n + 1 =>
    match s.procWords die aspace va b n with
    | (.error e, s) => (.error e, s)
    | (.ok (l, t), s) => match s.procLoad die aspace (va + 8 * n) b with
      | (.ok (w, u), s) => (.ok (l ++ [w], Nat.max t u), s)
      | (.error e, s) => (.error e, s)

/-- Stores granules of one line at a place, with the update of a replicated page's other copy: the timestamp. -/
def State.placeStore (s : State) (t : Target) (w : List (Nat × Gran)) (b : Nat) : PRes Nat :=
  match t.place with
  | .dev pa gpa =>
    let (ts, s) := s.lineStore (pa / 64) t.key t.comp w b
    (.ok ts, s.replicate t pa gpa w ts [] none)
  | .peer pa =>
    if !s.host.ualValid then (.error 4, s)
    else
      let (c, s) := (w.foldl (fun s g => s.peerSend 0 (pa / 64 * 64 + 8 * g.1) g.2) s).pick 2
      if c = 0 then (.ok b, s) else (.error 4, s)
  | .pad _ _ => (.error 4, s)

/-- Stores an aligned word at a VA with lower bound `b`: the timestamp. -/
def State.procStore (s : State) (die aspace va : Nat) (v : Word) (b : Nat) : PRes Nat :=
  match s.procAt die aspace va .store with
  | (.ok t, s) => s.placeStore t (match t.place with
    | .dev pa gpa => [(pa / 8 % 8, Gran.mk' v (gpa / 8 * 8))]
    | .peer pa => [(pa / 8 % 8, Gran.mk' v (fld pa 0 41 / 8 * 8))]
    | .pad _ _ => []) b
  | (.error e, s) => (.error e, s)

/-- Stores words from a VA up, each with lower bound `b`: the greatest timestamp. Words that do not translate are not
stored; the first error is answered at the end. -/
def State.procStores (s : State) (die aspace va b : Nat) : List Word → PRes Nat
  | [] => (.ok b, s)
  | w :: r =>
    match s.procStore die aspace va w b with
    | (.ok t, s) => match s.procStores die aspace (va + 8) b r with
      | (.ok u, s) => (.ok (Nat.max t u), s)
      | (.error e, s) => (.error e, s)
    | (.error e, s) => let (_, s) := s.procStores die aspace (va + 8) b r; (.error e, s)

/-- The number that words make, least significant first. -/
def wordsNat (l : List Word) : Nat := leNat (l.flatMap fun w => leBytes 8 w.toNat)

/-! ## Placed entries (03 R75, 18 R394) -/

/-- The kernel of a placed entry. -/
def Kernel.ofNat (n : Nat) : Kernel :=
  { codeBase := fld n 512 64 + fld n 32 32, codeLen := fld n 64 32, frame := fld n 96 8, pot := fld n 104 8
    crews := fld n 112 8, span := fld n 120 8, barriers := fld n 128 8, queues := fld n 136 8, copies := fld n 144 8
    protected_ := bitAt n 152, replayable := bitAt n 153, node := bitAt n 154
    pad := fld n 160 32, tiles := fld n 192 32, nodeCount := fld n 224 16, nodeTimer := fld n 240 16
    recVa := fld n 640 64, inputsVa := fld n 640 64 + fld n 256 32, inputsN := fld n 288 8
    life := fld n 296 8, step := fld n 304 8
    liveVa := if fld n 312 32 = 0xFFFF_FFFF ∨ fld n 704 64 = 0 then none else some (fld n 704 64 + fld n 312 32)
    safeVa := if fld n 344 32 = 0xFFFF_FFFF ∨ fld n 768 64 = 0 then none else some (fld n 768 64 + fld n 344 32)
    woMask := BitVec.ofNat 64 (fld n 376 64) }

/-- The code of a stepping (03 R75). -/
def stepCode : Config.Stepping → Nat | .b0 => 0x10 | .b1 => 0x11

/-- The checks of a placed entry at acceptance (15 R333, R337, 18 R394): `n` its 1,024 bits; `node`: whether the node bit is
to be set. -/
def entryOk (st : Config.Stepping) (n : Nat) (node : Bool) : Bool :=
  let k := Kernel.ofNat n
  fld n 155 5 == 0 && fld n 440 72 == 0 && fld n 832 192 == 0 && fld n 512 64 % 65536 == 0
  && decide (8 ≤ k.frame ∧ k.frame ≤ 64 ∧ k.frame % 8 = 0 ∧ k.pot ≤ 56 ∧ 1 ≤ k.crews ∧ k.crews ≤ 32 ∧ 1 ≤ k.span ∧
      k.span ≤ 8 ∧ k.barriers ≤ 16 ∧ k.queues ≤ 8 ∧ k.copies ≤ 32 ∧ k.life ≤ 1 ∧ k.inputsN ≤ 16 ∧ k.minAcres ≤ 760)
  && (k.life == 0 || k.step != 0) && (k.step == 0 || k.step == stepCode st)
  && (k.node == node) && ((k.nodeCount != 0) == node) && (!node || k.span == 1)

/-! ## The undo-page log (17 R383, R385) -/

/-- Writes lines back to a page as stores of the processor, their grains re-based unchecked (log entry 63): the greatest timestamp. -/
def State.restoreLines (s : State) (src : Nat) (t : Target) (dst b : Nat) : Nat → Nat × State
  | 0 => (b, s)
  | n + 1 =>
    let (u, s) := s.restoreLines src t dst b n
    let pa := dst + 64 * n
    let s := s.fillLine (src / 64 + n)
    let gr := s.movedLine (src + 64 * n) 0 pa
    let (ts, s) := s.lineStore (pa / 64) t.key t.comp gr u
    (Nat.max u ts, s.replicate t pa pa gr ts [] none)

/-- Writes `n` units of pre-images, from a unit up, back to a page. -/
def State.restoreUnits (s : State) (l : Launch) (unit : Nat) (t : Target) (page b : Nat) : Nat → PRes Nat
  | 0 => (.ok b, s)
  | n + 1 => match s.restoreUnits l unit t page b n with
    | (.ok u, s) => match s.logPa l (65536 + 65536 * (unit + n)) with
      | (.ok src, s) =>
        let (ts, s) := s.restoreLines src t (page + 65536 * n) u 1024
        (.ok ts, s)
      | (.error c, s) => (.error c, s)
    | r => r

/-- Writes entry `e` of a launch's log back to its page; `lp` is where the page's leaf stands. -/
def State.restoreEntry (s : State) (l : Launch) (e lp b : Nat) : PRes Nat :=
  match s.procWord lp with
  | (.error c, s) => (.error c, s)
  | (.ok leaf, s) => match s.logWord l (64 + 16 * e) with
    | (.error c, s) => (.error c, s)
    | (.ok page, s) => match s.logWord l (72 + 16 * e) with
      | (.error c, s) => (.error c, s)
      | (.ok w, s) =>
        s.restoreUnits l (w.toNat % 2 ^ 32) ⟨.dev page.toNat page.toNat, leafKey leaf, leafRep leaf, leafComp leaf⟩ page.toNat b
          (w.toNat / 2 ^ 32)

/-- Writes back every pre-image of a launch in log order; qlt takes the greatest timestamp (17 R383, 15 R329). An entry that the
processor cannot read halts its queue (log entry 88). -/
def State.restoreLog (s : State) (l : Launch) : State :=
  let r := (l.snaps.zipIdx).foldl (fun (acc : Nat × State) e =>
    match acc.2.restoreEntry l e.2 e.1 acc.1 with
    | (.ok b, s) => (b, s)
    | (.error c, s) => (acc.1, s.procHalt l.queue c)) ((s.queue l.queue).qlt, s)
  r.2.setQueue l.queue fun q => { q with qlt := r.1 }

/-- Clears the SNAP_SLOT field of the leaf at a PA for a launch. -/
def State.clearSnap (q : Nat) (s : State) (lp : Nat) : State :=
  match s.procWord lp with
  | (.ok w, s) => s.pokeWord lp 0 (BitVec.ofNat 64 (w.toNat - fld w.toNat 56 7 * 2 ^ 56))
  | (.error c, s) => s.procHalt q c

/-- Clears the SNAP_SLOT entries that a launch set, invalidates its address space in every TLB level, and retries the waiters of
CAUSE 0b100 (04 R96). -/
def State.clearSnaps (s : State) (slot : Nat) (l : Launch) : State :=
  if l.snaps.isEmpty then s
  else
    let asp := (s.queue l.queue).aspace
    let s := ((l.snaps.foldl (State.clearSnap l.queue) s).dropTlb fun e => e.aspace == asp).modL slot fun l => { l with snaps := [] }
    (s.faults.filter fun f => f.2.aspace == asp).foldl (fun s f => s.retrySnap (fun _ => true) f.1) s

end Sys2Proof.Machine
end

