-- ==== Sys2Proof/Machine/Sched.lean ====
section
/-! DEFINITION. Placement, admission and pre-emption of gangs, and the deadlock detector (15 R334 to R343, 07 R179, 16 R360 to
R362, 17 R376 to R378, R390). An admission begins with its request at the allocator; when it is served, the core holds the
gang's slots, its set and its acres (log entry 24). -/

namespace Sys2Proof.Machine

/-! ## What a core can take (15 R341, R343) -/

/-- The gangs that hold slots of a core. -/
def State.holders (s : State) (core : Nat) : List (Nat × Gang) :=
  s.gangs.filter fun e => e.2.core == core && e.2.phase.onCore

/-- The crew slots in use on a core. -/
def State.usedSlots (s : State) (core : Nat) : List Nat :=
  (s.holders core).flatMap fun e => (s.crews.filter fun c => c.1 / 32 == e.1).map (·.2.slot)

/-- The copy slots that a kernel reserves (07 R162). -/
def Kernel.slots (k : Kernel) : Nat := Nat.max k.copies 1

/-- Whether some member of a span has not been admitted. -/
def State.spanWaits (s : State) (p : Span) : Bool :=
  p.members.any fun m => match s.gangs.get? m with
    | some g => g.phase.waits
    | none => false

/-- The span of two or more gangs that is reserving in a cluster. -/
def State.reserving (s : State) (cluster : Nat) : Option (Nat × Span) :=
  s.spans.find? fun e => e.2.cluster == some cluster && decide (1 < e.2.members.length) && s.spanWaits e.2

/-- Whether a span reservation keeps a core from admitting a gang of span `sp` (R343). -/
def State.excluded (s : State) (core sp : Nat) : Bool :=
  match s.reserving (clusterOf core) with
  | some e => e.1 != sp && (e.2.aged || e.2.members.any fun m => match s.gangs.get? m with
      | some g => g.core == core && (g.phase == .ready false || g.phase == .reserved)
      | none => false)
  | none => false

/-- Whether a core has the slots that a kernel needs. -/
def State.hasSlots (s : State) (core : Nat) (k : Kernel) : Bool :=
  decide ((s.holders core).length < 32 ∧ (s.usedSlots core).length + k.crews ≤ 64 ∧
    ((s.holders core).map (·.2.kernel.slots)).foldl (· + ·) 0 + k.slots ≤ 128) && !(s.core core).drained

/-- The free gang sets of a launch, in number, and the `i`-th of them. -/
def Launch.freeSets (l : Launch) : Nat := l.record.gsets - l.sets.length
def Launch.freeSet (l : Launch) (i : Nat) : Nat := (l.sets.mergeSort (· ≤ ·)).foldl (fun n x => if x ≤ n then n + 1 else n) i

/-- Whether the regular gangs before a gang are admitted (R340), or have ended unadmitted by the debugger's hand. -/
def Gang.turn (g : Gang) (l : Launch) : Bool :=
  g.node.isSome || ((List.range (g.index / g.kernel.span * g.kernel.span)).drop l.nextAdmit).all l.done.contains

/-- Whether a core can take a gang: its slots, a free set, its turn, no reservation (R341: but for its acres). -/
def State.canPlace (s : State) (core : Nat) (g : Gang) : Bool :=
  match s.launches.get? g.slot with
  | some l => s.hasSlots core g.kernel && decide (0 < l.freeSets) && g.turn l && !s.excluded core g.span
  | none => false

/-! ## Crew slots (R341) -/

/-- The lowest free slot of the issue slot that holds the fewest crews. -/
def nextSlot (used : List Nat) : Option Nat :=
  minBy (fun c => (used.countP fun u => u % 4 == c % 4) * 64 + c) ((List.range 64).filter fun c => !used.contains c)

def crewSlots : Nat → List Nat → List Nat
  | 0, _ => []
  | n + 1, used => match nextSlot used with
    | some c => c :: crewSlots n (c :: used)
    | none => []

/-! ## New objects (15 R335, 14 R304, 06 R137) -/

/-- Crew `j` of a gang at admission; `args`: the argument words. -/
def Crew.init (k : Kernel) (args : List Word) (extra : List Word) (j slot : Nat) : Crew :=
  { k := Vector.ofFn fun i => if i.val < 16 then args.getD i.val 0 else extra.getD (i.val - 16) 0
    ktok := [], copyTs := 0, quota := k.frame, perchMap := (List.range k.frame).map (j * k.frame + ·)
    tp := Vector.replicate 16 0, ts := Vector.replicate 4 0, slot, passed := 0, pins := [], departed := false
    halted := false }

/-- A thread when its crew starts. -/
def Thread.init (pc lt : Nat) : Thread :=
  let z : Val := ⟨0, false⟩
  let lv : LoopLevel := ⟨false, 0, 0, 0⟩
  { pc := BitVec.ofNat 64 pc, mt := 1, preds := Vector.replicate 7 .f, loops := Vector.replicate 3 lv, l0 := z, l1 := z
    l0bad := false, l1bad := false, wb := 0, oc := [], uses := [], perches := [], hist := [], dead := [], deadReads := 0, fpmode := 0, tstat := 0
    xpc := 0, xcause := 0, xval := 0, xvec := 0, xdepth := false, step := false
    pend := Vector.replicate 3 ⟨false, false, 0, 0⟩
    save := ⟨0, z, z, false, false, Vector.replicate 7 .f, Vector.replicate 3 lv⟩
    lt, age := 0, live := true, wait := .none, due := false, sleepLeft := none, sleepLeftX := none, accs := [], reps := [], repTs := 0
    armed := false, restoring := false }

/-- The threads of a gang's crews join the table. -/
def State.addThreads (s : State) (gk : Nat) (g : Gang) (lt : Nat) : State :=
  { s with threads := (List.range (32 * g.kernel.crews)).foldl (fun (m : Tab Thread) n =>
      m.set (tkey gk 0 0 + n) (Thread.init g.kernel.codeBase lt)) s.threads }

/-- The crews of a gang join the table in given slots. -/
def State.addCrews (s : State) (gk : Nat) (g : Gang) (args : List Word) (slots : List Nat) : State :=
  let extra : List Word := match g.node with
    | some n => [BitVec.ofNat 64 g.take, BitVec.ofNat 64 n]
    | none => []
  { s with crews := (slots.zipIdx).foldl (fun (m : Tab Crew) (e : Nat × Nat) =>
      m.set (ckey gk e.2) (Crew.init g.kernel args extra e.2 e.1)) s.crews }

/-! ## Placement -/

/-- The physical addresses of the first `n` pages of a gang set's context area, which its processor translates. -/
def State.ctxPages (s : State) (l : Launch) (g : Gang) (set : Nat) : Nat → PRes (List Nat)
  | 0 => (.ok [], s)
  | n + 1 => match s.ctxPages l g set n with
    | (.ok r, s) =>
      let va := l.record.ctxVa + 0x40_0000 * set + 65536 * n
      match s.procWalk (qDie l.queue) g.aspace va .store with
      | (.ok e, s) => (.ok (r ++ [e.pa va]), s)
      | (.error c, s) => (.error c, s)
    | e => e

/-- A gang's admission goes to the allocator of a core. -/
def State.askAdmission (s : State) (core gk : Nat) (g : Gang) : State :=
  (s.modG gk fun g => { g with core, phase := .admitting }).addReq core (.admission gk) g.kernel.minAcres g.kernel.frameAcres

/-- A gang takes its slots and its set on a core, when its admission is served; a context area that the processor cannot translate
is a failed access (15 R331). -/
def State.placeGang (s : State) (core gk : Nat) (g : Gang) (l : Launch) : PRes Unit :=
  let (i, s) := s.pick l.freeSets
  let set := l.freeSet i
  match s.ctxPages l g set 64 with
  | (.error c, s) => (.error c, s)
  | (.ok pages, s) =>
    let k := g.kernel
    let n := k.crews * k.frame
    let s := s.addCrews gk g l.args (crewSlots k.crews (s.usedSlots core))
    let s := s.modG gk fun g => { g with
      core, set, pages, phase := .reserved
      pot := (List.range (k.crews * k.pot)).map (n + ·)
      slack := (List.range (16 * k.frameAcres - n - k.crews * k.pot)).map (n + k.crews * k.pot + ·)
      bars := Vector.replicate 16 ⟨0, false, k.crews, 0, 0, 0⟩ }
    (.ok (), s.modL g.slot fun l => { l with sets := l.sets ++ [set] })

/-- An admission that has begun is given up: its request is withdrawn, its acres, slots and set are free (R343, 06 R143). -/
def State.giveUp (s : State) (gk : Nat) : State :=
  match s.gangs.get? gk with
  | none => s
  | some g =>
    let s := s.withdraw g.core fun r => match r with | .admission x => x == gk | _ => false
    let s := s.freeAcres g.core g.owned
    let s := if g.phase.hasSet then s.modL g.slot fun l => { l with sets := l.sets.filter (· != g.set) } else s
    { s with crews := s.crews.keep fun k _ => k / 32 != gk }.modG gk fun y => { y with
      phase := .listed, frameAcres := 0, padAcres := 0, tileAcres := 0 }

/-- A gang's resumption goes to the allocator of a core, for the acres that were written out (17 R377). -/
def State.askResume (s : State) (core gk : Nat) (g : Gang) : State :=
  (s.modG gk fun g => { g with core, phase := .resuming }).addReq core (.resume gk) g.gone.length
    (g.gone.countP fun a => decide (a < g.frameAcres))

/-- A written-out gang takes slots on a core again, which may be another than the one that lists it, and asks for its acres
(17 R377). -/
def State.replaceGang (s : State) (core gk : Nat) (g : Gang) : State :=
  let slots := crewSlots g.kernel.crews (s.usedSlots core)
  let s := if core = g.core then s
    else (s.setCore g.core fun c => { c with glist := c.glist.filter (· != gk) }).listGang core gk
  let s := { s with
    crews := (slots.zipIdx).foldl (fun (m : Tab Crew) (e : Nat × Nat) => m.modify (ckey gk e.2) fun c => { c with slot := e.1 })
      s.crews
    copies := s.copies.mapVals fun _ c => if c.gang == gk && !c.orphan then { c with core } else c }
  s.askResume core gk g

/-! ## Admission -/

/-- The positions in a bin, from its head, of the records of a node gang: the oldest that no earlier firing took (R338). -/
def State.recordsOf (s : State) (g : Gang) (n : Nat) (d : Node) : List Nat :=
  let before := ((s.gangs.filter fun e => e.2.slot == g.slot && e.2.node == some n && e.2.phase.waits &&
    decide (e.2.index < g.index)).map (·.2.take)).foldl (· + ·) 0
  let there := (List.range d.times.length).filter fun i => (d.times.getD i none).isSome
  (there.drop before).take g.take

/-- A bin without the records at some positions. The ring frees slots in order: those behind an earlier record wait for it (log
entry 25). -/
def Node.without (d : Node) (ps : List Nat) : Node :=
  let ts := d.times.zipIdx.map fun t => if ps.contains t.2 then none else t.1
  let rest := ts.dropWhile (·.isNone)
  { d with head := (d.head + (ts.length - rest.length)) % d.binCap, count := rest.length, times := rest }

/-- A granule at a VA of a queue's address space, for its processor, re-based unchecked for an address (log entry 63); one that cannot
be read halts the queue. -/
def State.procGran (s : State) (q aspace va a : Nat) : Option Gran × State :=
  match s.procAt (qDie q) aspace va .load with
  | (.error c, s) => (none, s.procHalt q c)
  | (.ok t, s) => match t.place with
    | .dev pa gpa =>
      let s := s.fillLine (pa / 64)
      (some ((s.peekGran (pa / 8) t.key).rebase (gpa / 8 * 8) a), s)
    | .peer pa => match s.peerRead pa 1 with
      | (some ((o, g) :: _), s) => (some (g.rebase o a), s)
      | (_, s) => (none, s.procHalt q 4)
    | .pad _ _ => (none, s.procHalt q 4)

/-- The records of a node gang leave their bin and enter its pad, at the pad clock (R338). -/
def State.takeRecords (s : State) (gk : Nat) (g : Gang) : State :=
  match g.node with
  | none => s
  | some n =>
    match s.nodeOf g.slot n with
    | none => s
    | some d =>
      let l := s.launchIds g.slot
      let ps := s.recordsOf g n d
      let s := (ps.zipIdx).foldl (fun s p =>
        let i := p.2
        let va := d.binVa + 16 * ((d.head + p.1) % d.binCap)
        let (_, s) := s.padTick gk ((d.times.getD p.1 none).getD 0)
        [0, 8].foldl (fun (s : State) o =>
          let a := g.padPa (16 * i + o)
          match s.procGran l.1 g.aspace (va + o) a with
          | (some r, s) => { s with pool := s.pool.setGran (a / 8) r }
          | (none, s) => s) s) s
      let s := s.modG gk fun y => { y with recTime := maxOf (ps.map fun p => (d.times.getD p none).getD 0) }
      s.modNode g.slot n fun d => d.without ps

/-- The gang's crews may issue: every thread starts at the launch's time, that of its prologue copies and of its records
(R335). -/
def State.startGang (s : State) (gk : Nat) : State :=
  match s.gangs.get? gk with
  | none => s
  | some g =>
    let tsL := match s.launches.get? g.slot with | some l => l.tsL | none => 0
    (s.addThreads gk g (Nat.max tsL (Nat.max g.prologueTs g.recTime))).modG gk fun y => { y with phase := .resident }

/-- Admits one member, number `pos` of its span; `slot`'s admission order advances. -/
def State.admitMember (s : State) (gk pos : Nat) : State :=
  match s.gangs.get? gk with
  | none => s
  | some g =>
    let index := if g.node.isSome then g.index else g.index / g.kernel.span * g.kernel.span + pos
    let s := s.modG gk fun y => { y with
      index, spanPos := pos, admitTime := s.time, admit125 := s.count125, residentSince := s.time, phase := .prologue }
    let s := s.setCore g.core fun c => { c with glist := c.glist.filter (· != gk), icache := [] }
    let s := if g.node.isSome then s else s.modL g.slot fun l => { l with nextAdmit := Nat.max l.nextAdmit (index + 1) }
    let s := (s.writePlan g).takeRecords gk g
    if g.kernel.inputsN = 0 then s.startGang gk else s

/-- Every member of a span whose acres are granted is admitted in the same cycle, gang 0 on the lowest core (R343). -/
def State.admitSpan (s : State) (ms : List Nat) : State :=
  let at' (m : Nat) : Nat := match s.gangs.get? m with | some g => g.core | none => 0
  ((ms.mergeSort fun a b => decide (at' a ≤ at' b)).zipIdx).foldl (fun s e => s.admitMember e.1 e.2) s

/-! ## Prologue copies (07 R179) -/

/-- Words from a VA of a gang's address space up, for an engine of its core; 0 for one that cannot be read. -/
def State.engWords (s : State) (g : Gang) (va : Nat) : Nat → List Nat × State
  | 0 => ([], s)
  | n + 1 =>
    let (l, s) := s.engWords g va n
    let (w, s) := s.engWord g (va + 8 * n)
    (l ++ [match w with | some x => x.toNat | none => 0], s)

/-- The bytes of the tile that a record makes: of its box, or of the image that it names; 32 where that cannot be read (the
copy then ends by its own checks). -/
def State.tileBytes (s : State) (g : Gang) (rv : Nat) : Nat × State :=
  let (ws, s) := s.engWords g rv 8
  let r := Tsr.ofBytes (ws.flatMap (leBytes 8))
  if r.img then
    let (h, s) := s.engWords g r.base 2
    let b := BitVec.ofNat 128 (h.getD 0 0 + h.getD 1 0 * 2 ^ 64)
    (if hdrOk b then (Hdr.ofBits b).size else 32, s)
  else (if (EFmt.ofNat? r.efmt).isSome then r.hdr.size else 32, s)

/-- The prologue copy of an entry enters a slot. -/
def State.stageCopy (s : State) (gk : Nat) (g : Gang) (n rv : Nat) : State :=
  let c : Copy :=
    { gang := gk, crew := 0, core := g.core, op := .cpIn, tok := 0, handle := n, recVa := BitVec.ofNat 64 rv, origin := 0
      aux := 0, tsi := 0, tsc := 0, phase := .queued, xfer := .init, orphan := false, prologue := true, env := none }
  let id := s.nextId
  { s with nextId := id + 1, copies := s.copies.set id c }.modG gk fun y => { y with
    handles := y.handles.modify n fun h => { h with owner := some id }, prologueLeft := y.prologueLeft - 1 }

/-- Stages the next prologue entry of a gang, or starts its crews when all of them have landed; none while it waits. An entry that
cannot be read counts as one of zeros: handle 0, its record at REC_VA. DESIGN CHOICE (log entry 101). -/
def State.prologueStep (s : State) (gk : Nat) (g : Gang) : Option State :=
  let mine := s.copies.any fun c => c.2.gang == gk && c.2.prologue && !c.2.orphan
  if g.prologueLeft = 0 then (if mine then none else some (s.startGang gk))
  else if g.kernel.slots ≤ s.slotsUsed gk then none
  else if (s.core g.core).reqs.any fun r => match r.kind with | .talloc a j _ _ _ => a == gk && j == 32 | _ => false then none
  else
    let va := g.kernel.inputsVa + 8 * (g.kernel.inputsN - g.prologueLeft)
    let (l, s) := s.engWords g va 1
    let e := l.headD 0
    let n := fld e 32 8 % 16
    let rv := g.kernel.recVa + fld e 0 32
    let (bytes, s) := s.tileBytes g rv
    let kib := (bytes + 1023) / 1024
    let ready := match g.handles.get? n with
      | some h => h.owner.isNone && h.tsc.isNone
      | none => false
    if ready then some (s.stageCopy gk g n rv)
    else if (lowestFree g.handles (1024 * kib) (4096 * g.tileAcres)).isSome then
      let s := s.bindHandle gk n kib
      match s.gangs.get? gk with | some y => some (s.stageCopy gk y n rv) | none => some s
    else
      let need := g.tileNeed (1024 * kib)
      if 760 < g.acres + need then
        some (s.prologueFail gk s.nextId g.slot (BitVec.ofNat 64 (3 + 6 * 2 ^ 32)))
      else some (s.addReq g.core (.talloc gk 32 n kib (.special .zero)) need 0)

/-! ## ADMIT -/

/-- The gang of a core whose span is granted its acres as a whole, as the span's members. -/
def State.grantedSpan (s : State) (core : Nat) : Option (List Nat) :=
  s.gangs.findSome? fun e =>
    if e.2.core == core && e.2.phase == .ready false then
      let ms := s.spanMembers e.2
      if ms.all fun m => match s.gangs.get? m with | some y => y.phase == .ready false | none => false then some ms else none
    else none

/-- What a gang on a core's list does when its turn comes: begins its admission or its resumption, which waits for the acres that were
written out; none: it is passed over or cannot go on. -/
def State.tryListed (s : State) (core gk : Nat) : Option State :=
  match s.gangs.get? gk with
  | none => none
  | some g =>
    match g.phase with
    | .listed => if s.canPlace core g then some (s.askAdmission core gk g) else none
    | .preempted => some (if g.gone.isEmpty then (s.modG gk fun y => { y with phase := .ready true }).resumeReady gk
        else s.askResume core gk g)
    | .out => if s.hasSlots core g.kernel then some (s.replaceGang core gk g) else none
    | _ => none

/-- The first entry of a core's list that is not passed over: a gang whose lower-indexed gangs wait is passed over (R340),
and so are gangs whose admission or resumption has begun; no other gang overtakes one that lacks slots. -/
def State.nextListed (s : State) (core : Nat) : Option Nat :=
  (s.core core).glist.find? fun gk => match s.gangs.get? gk with
    | some g => !g.held && match g.phase, s.launches.get? g.slot with
      | .listed, some l => g.turn l
      | .preempted, _ | .out, _ => true
      | _, _ => false
    | none => false

/-- Whether a core has the slots and the acres for a gang of a kernel. -/
def State.hasRoom (s : State) (core : Nat) (k : Kernel) : Bool :=
  s.hasSlots core k && decide (k.minAcres + 8 ≤ (s.core core).loan)

/-- Whether a core could admit a gang of a launch now: its room, no request ahead at its allocator, a free gang set (R341, R139). -/
def State.couldAdmit (s : State) (core : Nat) (l : Launch) (k : Kernel) : Bool :=
  s.hasRoom core k && (s.core core).reqs.isEmpty && decide (0 < l.freeSets)

/-- The member of the reserving span of a core's cluster that can ask for its admission on this core: one for each core (R343). A
member whose request waits at a core without acres for it asks at one that could admit it at once. -/
def State.spanHere (s : State) (core : Nat) : Option (Nat × Gang) :=
  match s.reserving (clusterOf core) with
  | none => none
  | some (_, p) =>
    let ms := p.members.filterMap fun m => (s.gangs.get? m).map fun g => (m, g)
    if ms.any fun e => e.2.core == core && (e.2.phase.onCore || e.2.phase == .admitting) then none
    else match ms.find? fun e => e.2.phase == .listed && !e.2.held && s.canPlace core e.2 with
      | some e => some e
      | none => ms.find? fun e => e.2.phase == .admitting && s.canPlace core e.2 && (s.core core).reqs.isEmpty &&
          s.hasRoom core e.2.kernel && !s.hasRoom e.2.core e.2.kernel

/-- The dies of a queue: none named counts as its own. -/
def Queue.onDies (q : Nat) (x : Queue) : List Nat :=
  if x.dies % 4 = 0 then [qDie q] else [0, 1].filter fun d => x.dies / 2 ^ d % 2 == 1

/-- The cores of dies. -/
def dieCores (ds : List Nat) : List Nat := ds.flatMap fun d => (List.range 80).map (80 * d + ·)

/-- The cores that may take a written-out gang: those of its queue's dies; for a span of two or more, of its cluster and without a
member (17 R377, R390, 15 R343). -/
def State.hosts (s : State) (g : Gang) : List Nat :=
  let ms := s.spanMembers g
  let q := (s.launchIds g.slot).1
  if ms.length < 2 then dieCores ((s.queue q).onDies q)
  else ((List.range 8).map (8 * clusterOf g.core + ·)).filter fun c => ms.all fun m => match s.gangs.get? m with
    | some y => y.core != c
    | none => true

/-- A written-out gang, listed on another core, that a core may take before what its own list has next (17 R377). -/
def State.stray (s : State) (core : Nat) : Option (Nat × Gang) :=
  let own := s.nextListed core
  s.gangs.find? fun e => e.2.phase == .out && !e.2.held && e.2.core != core && s.hasSlots core e.2.kernel && (s.hosts e.2).contains core &&
    own.all fun gk => lexLt (s.listKey e.1) (s.listKey gk)

/-- The admissions of a core that a span reservation has come to exclude (R341, R343). -/
def State.excludedHere (s : State) (core : Nat) : List Nat :=
  s.gangs.keysWhere fun _ g => g.core == core && (g.phase == .admitting || g.phase == .reserved || g.phase == .ready false) &&
    s.excluded core g.span

/-- ADMIT: a core admits what its allocator has granted, unless a reservation has come to exclude it, stages prologue copies, or
asks for the next admission. -/
def execAdmitGang (core : Nat) (s : State) : Result :=
  if s.rebaseDue then notNow "ADMIT" else
  match s.excludedHere core, s.grantedSpan core with
  | gk :: _, _ => .next (s.giveUp gk)
  | [], some ms => .next (s.admitSpan ms)
  | [], none =>
    match s.gangs.findSome? fun e =>
      if e.2.core == core && e.2.phase == .prologue then s.prologueStep e.1 e.2 else none with
    | some s' => .next s'
    | none =>
      match s.spanHere core with
      | some (m, g) => .next ((s.giveUp m).askAdmission core m g)
      | none =>
        match s.stray core, s.nextListed core with
        | some (gk, g), _ => .next (s.replaceGang core gk g)
        | none, some gk => match s.tryListed core gk with
          | some s' => .next s'
          | none => notNow "ADMIT"
        | none, none => notNow "ADMIT"

/-! ## Dispatch (15 R339, R343) -/

/-- The launches with something to dispatch, highest priority first, then earliest acceptance. -/
def State.dispatchOrder (s : State) : List (Nat × Launch) :=
  (s.launches.filter fun e => e.2.status == .ready &&
    (!e.2.nodeQueue.isEmpty || decide (e.2.nextIndex < e.2.record.gangs))).mergeSort fun a b =>
      let p := (s.queue a.2.queue).prio
      let q := (s.queue b.2.queue).prio
      decide (q < p) || (p == q && decide (a.2.order ≤ b.2.order))

/-- The core in service with the fewest listed gangs, the lowest of equals; none if every list is full. -/
def State.listCore (s : State) (ds : List Nat) : Option Nat :=
  minBy (fun c => (s.core c).glist.length * 256 + c)
    ((dieCores ds).filter fun c => decide ((s.core c).glist.length < 16) && !(s.core c).drained)

/-- The cluster for a span: of those without a reserving span, the one with the most cores that could admit a member. -/
def State.chooseCluster (s : State) (ds : List Nat) (l : Launch) : Option Nat :=
  maxBy (fun c => ((List.range 8).countP fun i => s.couldAdmit (8 * c + i) l l.kernel) * 32 + (31 - c))
    ((ds.flatMap fun d => (List.range 10).map (10 * d + ·)).filter fun c => (s.reserving c).isNone)

/-- A span object for gangs, with its barriers. -/
def State.newSpan (s : State) (slot index : Nat) (members : List Nat) (k : Kernel) (cluster : Option Nat) : State :=
  let p : Span :=
    { slot, index, members, bars := Vector.replicate 4 ⟨0, members.length * k.crews, 0, 0⟩, cluster
      chosenAt := s.time, reserved := [], aged := false }
  let s := members.foldl (fun s m => s.modG m fun g => { g with span := s.nextId }) s
  { s with nextId := s.nextId + 1, spans := s.spans.set s.nextId p }

/-- Creates a gang in the table: its number. -/
def State.addGang (s : State) (g : Gang) : Nat × State :=
  (s.nextId, { s with nextId := s.nextId + 1, gangs := s.gangs.set s.nextId g })

/-- Creates the gangs of a span, numbered from `first`. -/
def State.addGangs (s : State) (slot : Nat) (l : Launch) (first : Nat) : Nat → List Nat × State
  | 0 => ([], s)
  | n + 1 =>
    let (ms, s) := s.addGangs slot l first n
    let (m, s) := s.addGang (s.newGang slot l l.kernel (first + n) none 0)
    (ms ++ [m], s)

/-- Dispatches the next gang or span of a launch; none if it must wait. -/
def State.dispatchOne (s : State) (slot : Nat) (l : Launch) : Option State :=
  let ds := (s.queue l.queue).onDies l.queue
  match l.nodeQueue with
  | gk :: rest =>
    match s.listCore ds, s.gangs.get? gk with
    | some core, some g =>
      let s := (s.newSpan slot g.index [gk] g.kernel none).listGang core gk
      some (s.modL slot fun l => { l with nodeQueue := rest })
    | _, _ => none
  | [] =>
    let k := l.kernel
    if k.span ≤ 1 then
      (s.listCore ds).map fun core =>
        let (gk, s) := s.addGang (s.newGang slot l k l.nextIndex none 0)
        let s := (s.newSpan slot l.nextIndex [gk] k none).listGang core gk
        s.modL slot fun l => { l with nextIndex := l.nextIndex + 1 }
    else
      (s.chooseCluster ds l).map fun c =>
        let (ms, s) := s.addGangs slot l (l.nextIndex * k.span) k.span
        let s := s.newSpan slot l.nextIndex ms k (some c)
        s.modL slot fun l => { l with nextIndex := l.nextIndex + 1 }

/-- The first launch of an order that can dispatch; one whose dies an earlier one waits for waits too (R347). -/
def State.dispatchFrom (s : State) (waiting : List Nat) : List (Nat × Launch) → Option State
  | [] => none
  | (slot, l) :: r =>
    let ds := (s.queue l.queue).onDies l.queue
    if ds.any waiting.contains then s.dispatchFrom (waiting ++ ds) r
    else match s.dispatchOne slot l with
      | some s' => some s'
      | none => s.dispatchFrom (waiting ++ ds) r

/-- DISPATCH. -/
def execDispatch (s : State) : Result :=
  match s.dispatchFrom [] s.dispatchOrder with
  | some s' => .next s'
  | none => notNow "DISPATCH"

/-! ## Averaging (15 R342) -/

/-- The gangs of a core's list that averaging counts and moves: their admission has not begun, and they are no span members (R342,
R348). -/
def State.averageable (s : State) (core : Nat) : List Nat :=
  (s.listedOn core).filter fun gk => match s.gangs.get? gk with
    | some g => decide ((s.spanMembers g).length < 2)
    | none => false

/-- The gangs that one core gives to its neighbours: to the core `up` and to `down`, from the end of its list. Which
neighbour takes the very end is open (log entry 2). -/
def State.gives (s : State) (core up down nu nd : Nat) : List (Nat × Nat) × State :=
  let l := (s.averageable core).reverse
  let (c, s) := s.pick (if nu = 0 ∨ nd = 0 then 1 else 2)
  let (a, na, b, nb) := if c = 0 then (up, nu, down, nd) else (down, nd, up, nu)
  (((l.take na).map fun g => (g, a)) ++ (((l.drop na).take nb).map fun g => (g, b)), s)

/-- LIST_AVERAGING of a cluster, once in every period of 256 core cycles. -/
def execListAveraging (cluster : Nat) (s : State) : Result :=
  if 20 ≤ cluster ∨ s.time / 256 ≤ s.averaged.getD cluster 0 then notNow "LIST_AVERAGING"
  else
    let n (i : Nat) : Nat := (s.averageable (8 * cluster + i % 8)).length
    let s := { s with averaged := s.averaged.set cluster (s.time / 256) }
    let r := (List.range 8).foldl (fun (acc : List (Nat × Nat) × State) i =>
      let me := 8 * cluster + i
      let (l, t) := acc.2.gives me (8 * cluster + (i + 1) % 8) (8 * cluster + (i + 7) % 8)
        ((n i - n (i + 1)) / 4) ((n i - n (i + 7)) / 4)
      (acc.1 ++ l, t)) (([] : List (Nat × Nat)), s)
    .next (r.1.foldl (fun s m => match s.gangs.get? m.1 with
      | some g =>
        let s := s.setCore g.core fun c => { c with glist := c.glist.filter (· != m.1) }
        (s.listGang m.2 m.1).modG m.1 fun y => { y with listedAt := g.listedAt }
      | none => s) r.2)

/-- SPAN_AGE: the reserving span of a cluster has waited 65,536 core cycles; admissions of other gangs in the cluster that have
begun are given up. -/
def execSpanAge (cluster : Nat) (s : State) : Result :=
  match s.reserving cluster with
  | some (k, p) =>
    if p.aged || s.time < p.chosenAt + 65536 then notNow "SPAN_AGE"
    else
      let s := s.modS k fun p => { p with aged := true }
      .next (((List.range 8).flatMap fun i => s.excludedHere (8 * cluster + i)).foldl State.giveUp s)
  | none => notNow "SPAN_AGE"

/-! ## Pre-emption (17 R376, R377) -/

/-- Stops a gang with its whole span: what of it runs or is in its prologue. The mates on other cores of a gang on a drained core are
pre-empted. What the debugger has halted stays so, and goes on with the span after its RESUME. -/
def State.stopSpan (s : State) (gk : Nat) (why : StopWhy) : State :=
  match s.gangs.get? gk with
  | none => s
  | some g => (s.spanMembers g).foldl (fun s m => match s.gangs.get? m with
      | some y =>
        if y.phase == .resident || y.phase == .prologue then
          s.stopGang m (if why = .drain ∧ y.core ≠ g.core then .preempt else why)
        else s
      | none => s) s

/-- The acres that a core can bring together without another stop. -/
def State.reachable (s : State) (core : Nat) : Nat :=
  (s.core core).loan + (((s.core core).outs.map (·.2)).foldl (· + ·) 0) +
    ((s.gangs.filter fun e => e.2.core == core && e.2.phase == .preempted && !e.2.held).map (·.2.owned)).foldl (· + ·) 0

/-- The listed gangs of a core, resumptions among them (17 R377), that could not go on by what is free. -/
def State.starved (s : State) (core : Nat) : List (Nat × Gang) :=
  s.gangs.filter fun e =>
    let short (n : Nat) : Bool := decide (s.reachable core < n + 8)
    e.2.core == core && !e.2.held && (s.core core).glist.contains e.1 && match e.2.phase with
      | .listed => !s.canPlace core e.2 || short e.2.kernel.minAcres
      | .admitting => short e.2.kernel.minAcres
      | .out => !s.hasSlots core e.2.kernel || short e.2.acres
      | .resuming => short e.2.gone.length
      | .preempted => short e.2.acres || s.nextListed core != some e.1
      | _ => false

/-- The gangs of a core that run or are in their prologue, with their numbers. -/
def State.running (s : State) (core : Nat) : List (Nat × Gang) :=
  s.gangs.filter fun e => e.2.core == core && (e.2.phase == .resident || e.2.phase == .prologue)

/-- The victim of a priority pre-emption: the gang of lowest priority, below that of a gang that has waited 4,096 core
cycles; the youngest of equals. -/
def State.prioVictim (s : State) (core : Nat) : Option Nat :=
  let waits := (s.starved core).filter fun e => decide (e.2.listedAt + 4096 ≤ s.time)
  let top := maxOf (waits.map fun e => e.2.prio + 1)
  (maxBy (fun e : Nat × Gang => (3 - e.2.prio) * 2 ^ 64 + e.2.admitTime)
    ((s.running core).filter fun e => decide (e.2.prio + 1 < top))).map (·.1)

/-- Whether a gang of a core is being stopped for pre-emption. -/
def State.stoppingOn (s : State) (core : Nat) : Bool :=
  s.gangs.any fun e => e.2.core == core && e.2.phase == .stopping .preempt

/-- PREEMPT_PRIORITY: saves a gang that has stopped, or stops the next victim. -/
def execPreemptPriority (core : Nat) (s : State) : Result :=
  match s.readyStop core .preempt with
  | some e => .next (s.finishStop e.1 e.2 .preempt)
  | none =>
    if s.stoppingOn core then notNow "PREEMPT_PRIORITY"
    else match s.prioVictim core with
      | some gk => .next (s.stopSpan gk .preempt)
      | none => notNow "PREEMPT_PRIORITY"

/-- The core cycles of a queue's time slice: units of 0.25 ms at 940 MHz. -/
def sliceCycles (q : Queue) : Nat := q.slice * 235000

/-- The slice of the queue of a gang. -/
def State.gangQueue (s : State) (g : Gang) : Queue := s.queue (s.launchIds g.slot).1

/-- The victim of a time slice: for a listed gang of another launch, when a gang of equal priority has been resident for its
slice, the one admitted earliest. -/
def State.sliceVictim (s : State) (core : Nat) : Option Nat :=
  let run := (s.running core).filter fun e => (s.gangQueue e.2).slice != 0
  (s.starved core).findSome? fun w =>
    let eq := run.filter fun e => e.2.prio == w.2.prio && e.2.slot != w.2.slot
    if eq.any fun e => decide (e.2.residentSince + sliceCycles (s.gangQueue e.2) ≤ s.time) then
      (minBy (fun e : Nat × Gang => e.2.admitTime) (run.filter fun e => e.2.prio == w.2.prio)).map (·.1)
    else none

/-- PREEMPT_SLICE. -/
def execPreemptSlice (core : Nat) (s : State) : Result :=
  match s.readyStop core .preempt with
  | some e => .next (s.finishStop e.1 e.2 .preempt)
  | none =>
    if s.stoppingOn core then notNow "PREEMPT_SLICE"
    else match s.sliceVictim core with
      | some gk => .next (s.stopSpan gk .preempt)
      | none => notNow "PREEMPT_SLICE"

/-- The core that lists a gang that leaves a drained core: of those that may take it, the one with the shortest list (17 R390,
R377). -/
def State.refuge (s : State) (g : Gang) : Option Nat :=
  minBy (fun c => (s.core c).glist.length * 256 + c) ((s.hosts g).filter fun c => !(s.core c).drained)

/-- A saved gang leaves a drained core: it is written out and listed elsewhere. -/
def State.leaveCore (s : State) (gk : Nat) (g : Gang) : Option State :=
  match s.refuge g with
  | none => none
  | some c => match s.writeOutAcres gk g.inPool with
    | .error e => some (s.saveFault e)
    | .ok s1 =>
      let s2 := (s1.goOut gk g g.inPool .out).setCore g.core fun x => { x with glist := x.glist.filter (· != gk) }
      some (s2.listGang c gk)

/-- DRAINED_CORE_PREEMPTION: 10 ms after a core is drained its gangs stop, are saved and go to other cores. -/
def execDrainedCorePreemption (core : Nat) (s : State) : Result :=
  if !(s.core core).drained || s.time < (s.core core).drainedAt + 9400000 then notNow "DRAINED_CORE_PREEMPTION"
  else match s.readyStop core .drain with
    | some e => .next (s.finishStop e.1 e.2 .drain)
    | none => match s.running core with
      | e :: _ => .next (s.stopSpan e.1 .drain)
      | [] => match s.gangs.findSome? fun e =>
          if e.2.core == core && e.2.phase == .preempted then s.leaveCore e.1 e.2 else none with
        | some s' => .next s'
        | none => notNow "DRAINED_CORE_PREEMPTION"

/-! ## sleep and the deadlock detector (16 R360 to R362) -/

/-- Whether a thread sleeps. -/
def State.asleep (s : State) (t : Nat) : Bool :=
  match s.threads.get? t with | some x => (match x.wait with | .sleep _ _ => true | _ => false) | none => false

/-- SLEEP_END: a sleep completes, with the effects of its operand's read (03 R58); a shadow's with that of its even thread (17
R388). -/
def execSleepEnd (t : Nat) (s : State) : Result :=
  match s.threads.get? t with
  | some x => match x.wait with
    | .sleep till a =>
      if s.time < till || (s.isShadow t && s.asleep (t - 1)) then notNow "SLEEP_END"
      else
        let l := (s.pairOf t).filter s.asleep
        .next (l.foldl (fun s u => s.finishT u) (State.commitAll [a] (s.queuesOf (gangOf t)) l s))
    | _ => notNow "SLEEP_END"
  | none => notNow "SLEEP_END"

/-- The kind and object of an internal wait (R361, R362). -/
def Wait.internal : Wait → Option (Nat × Nat)
  | .bar n _ | .barArr n => some (1, n)
  | .push q => some (2, q)
  | .pop q => some (3, q)
  | .claim => some (4, 0)
  | .span n => some (5, n)
  | .bin n => some (6, n % 16)
  | _ => Option.none

/-- Whether a thread is held (14 R310). -/
def Wait.held : Wait → Bool | .meet | .lane _ | .coll => true | _ => false

/-- Whether the wait at bin `n` counts as internal: the bin is full and nothing is on its way to it, no set is free, and no node gang
of the launch is resident or listed on any core (R361). -/
def State.binStuck (s : State) (g : Gang) (n : Nat) : Bool :=
  match s.launches.get? g.slot with
  | some l => decide (l.freeSets = 0) &&
      (match l.nodes[n]? with | some d => decide (d.binCap ≤ d.count) && !s.recordUnderWay g.slot n | none => false) &&
      !(s.gangs.any fun e => e.2.slot == g.slot && e.2.node.isSome && e.2.phase != .ended && !l.nodeQueue.contains e.1)
  | none => true

/-- Whether a bin of a gang's launch could fire a gang that could be admitted. -/
def State.binFires (s : State) (g : Gang) : Bool :=
  match s.launches.get? g.slot with
  | some l => decide (0 < l.freeSets) && (l.nodes.zipIdx).any fun d => d.1.kernel.nodeTimer != 0 && s.unclaimed g.slot d.2 != 0
  | none => false

/-- Whether a thread, found due at a collective or lane instruction, waits with its fellows for queue entries: another
thread stands first among the waiters, or the queue holds fewer entries than the crew's waiters want. -/
def State.popShort (s : State) (g : Gang) (t : Nat) : Option Nat :=
  match g.pops.find? (·.2 == s.lead t) with
  | some (q, _) =>
    let mine := g.pops.countP fun e => e.1 == q && ckOf e.2 == ckOf t
    let first := match g.pops.find? (·.1 == q) with | some e => ckOf e.2 == ckOf t | none => true
    if !first || decide ((if h : q < 8 then (g.queues[q]).length else 0) < mine) then some q else none
  | none => none

/-- The internal wait that a thread is blocked in (R361): kind and object. -/
def State.internalWait (s : State) (t : Nat) (x : Thread) (g : Gang) : Option (Nat × Nat) :=
  match x.wait, x.wait.internal with
  | .bin n, k => if s.binStuck g n then k else none
  | _, some k => some k
  | _, none => if x.due && x.wait.held then (s.popShort g t).map fun q => (3, q) else none

/-- Conditions 1 to 3 of R361 for one gang. -/
def State.stuck (s : State) (gk : Nat) (g : Gang) : Bool :=
  let live := (s.gangThreads gk).filterMap fun t => match s.threads.get? t with
    | some x => if x.live then some (x, (s.internalWait t x g).isSome) else none
    | none => none
  g.phase == .resident && live.any (·.2)
  && live.all (fun e => e.1.accs.isEmpty && (e.2 || (e.1.wait.held && !e.1.due)))
  && !(s.copies.any fun c => c.2.gang == gk && !c.2.orphan)
  && !((s.core g.core).reqs.any fun r => r.kind.gang == gk)
  && !((s.gangThreads gk).any fun t => s.frameBusy t)
  && !s.binFires g

/-- The gangs that the detector looks at with a gang: its span where some thread of it waits at a span barrier. -/
def State.stuckWith (s : State) (gk : Nat) (g : Gang) : List Nat :=
  if (s.gangThreads gk).any fun t => match s.threads.get? t with
      | some x => x.live && (match x.wait with | .span _ => true | _ => false)
      | none => false then s.spanMembers g else [gk]

/-- DETAIL of R362 for the kinds of wait of a gang. -/
def deadDetail (ks : List Nat) : Nat :=
  if ks.contains 4 then 3 else if ks.contains 2 || ks.contains 3 then 2 else if ks.contains 1 then 1
  else if ks.contains 5 then 5 else 4

/-- The arrival of a crew at a barrier, or at a span barrier, is withdrawn: ARR cleared, SEEN and BT as they are (R362). -/
def State.unArrive (s : State) (gk j n : Nat) : State :=
  s.modG gk fun g =>
    if h : n < 16 then
      let b := g.bars[n]
      { g with bars := g.bars.set n { b with arr := b.arr &&& ~~~(BitVec.ofNat 32 (2 ^ j)) } }
    else g
def State.unArriveSpan (s : State) (g : Gang) (j n : Nat) : State :=
  s.modS g.span fun p =>
    if h : n < 4 then
      let b := p.bars[n]
      { p with bars := p.bars.set n { b with arr := b.arr &&& ~~~(BitVec.ofNat 256 (2 ^ (32 * g.spanPos + j))) } }
    else p

/-- DEADLOCK_DETECT: every blocked thread takes DEADLOCK at its instruction; the arrival of a bar.sync or sbar is
withdrawn. -/
def execDeadlockDetect (g : Nat) (s : State) : Result :=
  match s.gangs.get? g with
  | none => notNow "DEADLOCK_DETECT"
  | some x =>
    if (s.stuckWith g x).all fun m => match s.gangs.get? m with | some y => s.stuck m y | none => true then
      let blocked := (s.gangThreads g).filterMap fun t => match s.threads.get? t with
        | some y => if y.live then (s.internalWait t y x).map fun k => (t, y.wait, k) else none
        | none => none
      let crews := blocked.foldl (fun l b => addNew l (crewOf b.1)) ([] : List Nat)
      let inMask := (crews.map (2 ^ ·)).foldl (· + ·) 0
      let detail := deadDetail (blocked.map fun b => b.2.2.1)
      let s1 := blocked.foldl (fun s b => match b.2.1 with
        | .bar n true => s.unArrive g (crewOf b.1) n
        | .span n => s.unArriveSpan x (crewOf b.1) n
        | _ => s) s
      let s2 := blocked.foldl (fun s b => s.withdrawT b.1) s1
      .next (s2.stopAll (blocked.map fun b =>
        (b.1, .trap cDEADLOCK (BitVec.ofNat 64 (inMask * 2 ^ 32 + b.2.2.1 * 2 ^ 12 + b.2.2.2 * 2 ^ 8 + detail)) none)))
    else notNow "DEADLOCK_DETECT"

end Sys2Proof.Machine
end

