-- ==== Sys2Proof/Machine/Serve.lean ====
section
/-! DEFINITION. The allocator of a core: requests, acres, and benching (06 R132 to R143). The acres of one request change state
together, but for those of a frame area, which are owned once drained. -/

namespace Sys2Proof.Machine

/-! ## Grants (R139, R143) -/

/-- Grants a request: the acres are owned and the requesting instruction completes in the same cycle. A prologue's extension
names crew 32. -/
def State.grant (s : State) (r : PoolReq) : State :=
  match r.kind with
  | .grow g crew n a => (s.takeSlack (ckey g crew) n r.acres).finishReq (ckey g crew) a
  | .talloc g crew h kib a =>
    let s := (s.addTileAcres g r.acres).bindHandle g h kib
    if crew < 32 then
      ((s.modG g fun y => { y with tallocs := y.tallocs.drop 1 }).trimTiles g).finishReq (ckey g crew) a
    else s
  | .resume g =>
    match s.gangs.get? g with
    | none => s
    | some x => ((s.regionsIn x x.gone).modG g fun y => { y with phase := .ready true, gone := [] }).resumeReady g
  | .admission g =>
    match s.gangs.get? g with
    | none => s
    | some x =>
      let k := x.kernel
      let pool := (List.range k.padAcres).foldl (fun (m : Store) i => m.clear (x.padPa (4096 * i)) 4096) s.pool
      let pool := (List.range k.tileAcres).foldl (fun (m : Store) i => m.clear (x.tilePa (4096 * i)) 4096) pool
      { s with pool }.modG g fun y => { y with
        phase := .ready false, frameAcres := k.frameAcres, padAcres := k.padAcres, tileAcres := k.tileAcres }

/-- The oldest request leaves the list, granted. -/
def State.grantHead (s : State) (core : Nat) (r : PoolReq) : State :=
  (s.setCore core fun c => { c with reqs := c.reqs.drop 1 }).grant r

/-! ## Events -/

/-- The head of a core's requests can be served: an admission takes its slots and its set, or is given up where the core cannot
take the gang now (15 R341), or where its processor cannot translate the set's context area, which halts the queue (R331). -/
def State.beginServe (s : State) (core : Nat) (r : PoolReq) : State :=
  let take (s : State) : State := s.setCore core fun c => { c with
    reqs := { r with phase := .drain } :: c.reqs.drop 1, loan := c.loan - r.acres }
  match r.kind with
  | .admission gk =>
    match s.gangs.get? gk with
    | none => s.setCore core fun c => { c with reqs := c.reqs.drop 1 }
    | some g =>
      match if s.canPlace core g then s.launches.get? g.slot else none with
      | some l => match s.placeGang core gk g l with
        | (.ok _, s) => take s
        | (.error c, s) => (s.procHalt l.queue c).giveUp gk
      | none => s.giveUp gk
  | _ => take s

/-- `n` members of a list, by free choices. -/
def State.choose (s : State) (l : List Nat) : Nat → List Nat × State
  | 0 => ([], s)
  | n + 1 =>
    let (i, s) := s.pick l.length
    match l[i]? with
    | none => ([], s)
    | some a =>
      let (r, s) := s.choose (l.filter (· != a)) n
      (a :: r, s)

/-- Acres of a pre-empted gang are written out for a request, as many as it needs (17 R377); of which gang, and which of them, is open
(log entry 58). Once none of its acres is owned, the gang's slots are free. -/
def State.writeOutFor (s : State) (core : Nat) (r : PoolReq) : Result :=
  let ws := s.writable core
  let (i, s) := s.pick ws.length
  match ws[i]?.bind fun gk => (s.gangs.get? gk).map fun g => (gk, g) with
  | none => notNow "ALLOCATOR_SERVE"
  | some (gk, g) =>
    let (as, s) := s.choose g.inPool (Nat.min g.owned (r.acres + 8 - (s.core core).loan))
    match s.writeOutAcres gk as with
    | .ok s1 => .next (s1.goOut gk g as (if as.length < g.owned then .preempted else .out))
    | .error e => .next (s.saveFault e)

/-- ALLOCATOR_SERVE: the head request is served when the loan holds enough acres above the floor; else acres of pre-empted gangs are
written out for it. -/
def execAllocatorServe (core : Nat) (s : State) : Result :=
  match (s.core core).reqs with
  | [] => notNow "ALLOCATOR_SERVE"
  | r :: _ =>
    if r.phase != .waiting then notNow "ALLOCATOR_SERVE"
    else if r.acres + 8 ≤ (s.core core).loan then
      .next (s.beginServe core r)
    else if (s.core core).outs.isEmpty && !(s.writable core).isEmpty then s.writeOutFor core r
    else notNow "ALLOCATOR_SERVE"

/-- Members of a list by free choices. -/
def State.someOf (s : State) (l : List α) : List α × State :=
  l.foldl (fun (acc : List α × State) a =>
    let (c, t) := acc.2.pick 2
    (if c = 0 then acc.1 else acc.1 ++ [a], t)) ([], s)

/-- The lines in drained acres leave a core: which lines those acres held is a free choice, and what the loan still holds fits
into it (R135, R138). -/
def State.drainLines (s : State) (core : Nat) : State :=
  let (back, s) := s.someOf (s.linesHeld core)
  let s := back.foldl (fun s ln => s.recallLine ln) s
  let (keep, s) := s.someOf (s.core core).l1
  (s.setCore core fun c => { c with l1 := keep }).trimLoan (.core core)

/-- ACRE_DRAINED: clean copies are dropped, checked-out lines have returned; acres for a frame area are owned, those for a pad or
a tile store are filled first. -/
def execAcreDrained (core : Nat) (s : State) : Result :=
  match (s.core core).reqs with
  | [] => notNow "ACRE_DRAINED"
  | r :: rest =>
    if r.phase != .drain then notNow "ACRE_DRAINED"
    else
      let s := s.drainLines core
      if r.frame < r.acres then .next (s.setCore core fun c => { c with reqs := { r with phase := .fill } :: rest })
      else .next (s.grantHead core r)

/-- ACRE_FILLED: the zero-fill is done. -/
def execAcreFilled (core : Nat) (s : State) : Result :=
  match (s.core core).reqs with
  | [] => notNow "ACRE_FILLED"
  | r :: _ => if r.phase != .fill then notNow "ACRE_FILLED" else .next (s.grantHead core r)

/-- ACRE_WRITEOUT_ACK: a batch of acres that were written out returns to the loan. -/
def execAcreWriteoutAck (core : Nat) (s : State) : Result :=
  match (s.core core).outs with
  | [] => notNow "ACRE_WRITEOUT_ACK"
  | (_, n) :: rest => .next ((s.setCore core fun c => { c with outs := rest }).freeAcres core n)

/-- Whether a gang has a crew stalled in a pool request: a grow or a talloc, since a claim is no request of the allocator
(R139, R141). -/
def State.inPoolWait (s : State) (gk : Nat) : Bool :=
  (s.gangThreads gk).any fun t => match s.threads.get? t with
    | some x => x.live && (x.wait == .grow || x.wait == .talloc)
    | none => false

/-- The gangs that run on a core. Those that stop, or are in their prologue, do not count (log entry 87). -/
def State.residents (s : State) (core : Nat) : List Nat :=
  s.gangs.keysWhere fun _ g => g.core == core && g.phase == .resident

/-- The gang that benching chooses on a core: the youngest outside spans of two or more, else one of the youngest span. -/
def State.benchVictim (s : State) (core : Nat) : Option Nat :=
  let adm (gk : Nat) : Nat := match s.gangs.get? gk with | some g => g.admitTime | none => 0
  let single := (s.residents core).filter fun gk => match s.gangs.get? gk with
    | some g => decide ((s.spanMembers g).length < 2)
    | none => false
  (maxBy adm single).orElse fun _ => maxBy adm (s.residents core)

/-- BENCH: when every resident gang has a crew in a pool request and no acre has returned for 4,096 core cycles, a gang or
span stops; when it has stopped, it is written out and asks for its resumption. -/
def execBench (core : Nat) (s : State) : Result :=
  match s.readyStop core .bench with
  | some e => .next (s.finishStop e.1 e.2 .bench)
  | none =>
    let rs := s.residents core
    if rs.isEmpty || !rs.all s.inPoolWait || s.time < (s.core core).lastReturn + 4096 then notNow "BENCH"
    else match s.benchVictim core with
      | some gk => .next (s.stopSpan gk .bench)
      | none => notNow "BENCH"

end Sys2Proof.Machine
end

