-- ==== Sys2Proof/Machine/Complete.lean ====
section
/-! DEFINITION. Bins that fire by their timers or at drain, the end of a launch, its completion record, its successors, and
its replay (15 R336, R338, R345, R346, 17 R383, R386). -/

namespace Sys2Proof.Machine

/-! ## Bins -/

/-- BIN_TIMER: NODE_TIMER microseconds since the bin became nonempty or fired. -/
def execBinTimer (slot node : Nat) (s : State) : Result :=
  match s.launches.get? slot, s.nodeOf slot node with
  | some l, some d =>
    let n := s.unclaimed slot node
    if l.status == .ready && d.kernel.nodeTimer != 0 && n != 0 && decide (d.since + 1250 * d.kernel.nodeTimer ≤ s.count125) then
      .next (s.fireBin slot node (Nat.min n d.kernel.nodeCount))
    else notNow "BIN_TIMER"
  | _, _ => notNow "BIN_TIMER"

/-- Whether a launch has a message, an open coalescer entry, an atom without a thread or a copy under way. -/
def State.inFlight (s : State) (slot : Nat) : Bool :=
  (s.msgs.any fun m => m.2.e.launch == slot) || (s.loose.any fun a => a.2.launch == slot)
  || (s.cores.any fun c => c.2.coal.any fun l => l.2.any fun e => e.2.launch == slot)
  || s.copies.any fun c => match s.copyGang c.2 with | some g => g.slot == slot | none => false

/-- Whether a launch has no gang: resident, listed, benched or pre-empted. -/
def State.quiet (s : State) (slot : Nat) : Bool := !(s.gangs.any fun g => g.2.slot == slot)

/-- BIN_DRAIN: with no gang left, no record in flight and no bin at its count, every nonempty bin fires, lowest node first
(log entry 25). -/
def execBinDrain (slot : Nat) (s : State) : Result :=
  match s.launches.get? slot with
  | none => notNow "BIN_DRAIN"
  | some l =>
    let ns := (List.range l.nodes.length).filter fun n => s.unclaimed slot n != 0
    if l.status == .ready && s.quiet slot && !ns.isEmpty && !(s.msgs.any fun m => m.2.e.launch == slot && m.2.e.node.isSome)
        && ns.all fun n => match s.nodeOf slot n with | some d => decide (s.unclaimed slot n < d.kernel.nodeCount) | none => true then
      .next (ns.foldl (fun s n => s.fireBin slot n (match s.nodeOf slot n with
        | some d => Nat.min d.kernel.nodeCount (s.unclaimed slot n)
        | none => 0)) s)
    else notNow "BIN_DRAIN"

/-! ## Predecessor counters (R336) -/

/-- What its counter makes of a parked launch: cancelled where F is set, ready at 0. -/
def State.settleParked (s : State) : State :=
  { s with launches := s.launches.mapVals fun _ l =>
      match l.status, l.counter with
      | .parked, some c =>
        let k := s.counters.getD c ⟨0, false⟩
        if k.f then { l with cancelled := true, status := .finishing }
        else if k.n = 0 then { l with status := .ready } else l
      | _, _ => l }

/-- Adds to a counter, with wrapping; `fail` sets F. -/
def State.addCounter (s : State) (c : Nat) (v : BitVec 16) (fail : Bool) : State :=
  let k := s.counters.getD c ⟨0, false⟩
  { s with counters := s.counters.set c ⟨k.n + v, k.f || fail⟩ }

/-- Acts on the successors of a launch that ended with a status. -/
def State.actSuccessors (s : State) (l : Launch) (status : Nat) : State :=
  (l.record.succ.foldl (fun s e =>
    if bitAt e 15 then s.addCounter (e % 2 ^ 13) (-1) (status == 3 || status == 4) else s) s).settleParked

/-! ## Completion (R345, R346, 17 R386) -/

/-- STATUS and UNDO of a launch that completes. -/
def Launch.outcome (l : Launch) : Nat × Nat :=
  if l.cancelled then (3, if l.kernel.replayable then 1 else 0)
  else if l.status == .killed then
    if l.kernel.replayable then (3, 2) else (if l.fatal then 3 else 4, 0)
  else if l.replays = 0 then (1, if l.kernel.replayable then 1 else 0) else (2, 2)

/-- The completion record. -/
def Launch.doneRecord (l : Launch) (now : Nat) : List Word :=
  let (status, undo) := l.outcome
  let (cause, detail) := if l.cancelled then (0xF0, 0) else l.trigger.getD (0, 0)
  [ BitVec.ofNat 64 (status + l.replays * 2 ^ 8 + undo * 2 ^ 10 + cause % 256 * 2 ^ 24 + detail % 2 ^ 32 * 2 ^ 32)
  , BitVec.ofNat 64 (l.done.length % 2 ^ 32 + l.nodeGangs % 2 ^ 32 * 2 ^ 32)
  , BitVec.ofNat 64 l.acceptT, BitVec.ofNat 64 now, l.record.tag, BitVec.ofNat 64 l.lid, 0, 0 ]

/-- The bitmap's words: bit g for regular gang g (log entry 26). -/
def Launch.bitmap (l : Launch) : List Word :=
  (List.range ((l.record.gangs + 63) / 64)).map fun w =>
    BitVec.ofNat 64 (((List.range 64).filter fun b => l.done.contains (64 * w + b)).map (2 ^ ·) |>.foldl (· + ·) 0)

/-- Whether the gangs and the accesses of a launch are over, and its bins empty. -/
def State.finished (s : State) (slot : Nat) (l : Launch) : Bool :=
  match l.status with
  | .parked => false
  | .finishing => true
  | .ready => decide (l.record.gangs ≤ l.nextIndex) && s.quiet slot && !s.inFlight slot && l.nodes.all fun n => n.count == 0
  | .killed => !(s.gangs.any fun g => g.2.slot == slot) && !s.inFlight slot

/-- Whether a killed launch is accepted again (17 R386). -/
def Launch.replaysAgain (l : Launch) : Bool := l.status == .killed && l.kernel.replayable && !l.fatal && decide (l.replays < 2)

/-- The restore of a killed replayable launch (17 R383 step 3). -/
def State.undo (s : State) (slot : Nat) (l : Launch) : State :=
  if l.status == .killed && l.kernel.replayable then (s.restoreLog l).clearSnaps slot l else s

/-- LAUNCH_COMPLETE: the record and the bitmap, the successors, the SNAP_SLOT entries and the slot, in this order. The
record's writes bind at no less than ct; qlt then covers ct. -/
def execLaunchComplete (slot : Nat) (s : State) : Result :=
  match s.launches.get? slot with
  | none => notNow "LAUNCH_COMPLETE"
  | some l =>
    if s.rebaseDue || !s.finished slot l || l.replaysAgain then notNow "LAUNCH_COMPLETE"
    else
      let die := qDie l.queue
      let asp := (s.queue l.queue).aspace
      let s := s.undo slot l
      let b := Nat.max l.ct (if l.status == .killed then (s.queue l.queue).qlt else 0)
      let (r, s) := s.procStores die asp l.record.compVa b (l.doneRecord s.count125)
      let s := match r with | .error e => s.procHalt l.queue e | .ok _ => s
      let (r, s) := s.procStores die asp l.record.bitmapVa b l.bitmap
      let s := match r with | .error e => s.procHalt l.queue e | .ok _ => s
      let s := s.setQueue l.queue fun q => { q with qlt := Nat.max q.qlt l.ct }
      let s := s.actSuccessors l l.outcome.1
      let s := match s.launches.get? slot with | some l => s.clearSnaps slot l | none => s
      .next { s with launches := s.launches.erase slot }

end Sys2Proof.Machine
end

