-- ==== Sys2Proof/Machine/Queue.lean ====
section
/-! DEFINITION. The launch queues: command blocks, their tests and actions, and the acceptance of launches (15 R324 to R337,
18 R396, 12 R278). A block is read and checked when its position is reached; each kind of block is one event. -/

namespace Sys2Proof.Machine

/-! ## Accesses of a block (R329) -/

/-- An access's timestamp becomes the queue's logical time. -/
def State.bump (s : State) (q t : Nat) : State := s.setQueue q fun x => { x with qlt := Nat.max x.qlt t }

def State.qWord (s : State) (q va : Nat) : PRes Word :=
  match s.procLoad (qDie q) (s.queue q).aspace va (s.queue q).qlt with
  | (.ok (w, t), s) => (.ok w, s.bump q t)
  | (.error e, s) => (.error e, s)

/-- `n` words from a VA up, each read by `rd`. -/
def qReads (rd : State → Nat → PRes Word) (va : Nat) : Nat → State → PRes (List Word)
  | 0, s => (.ok [], s)
  | n + 1, s =>
    match qReads rd va n s with
    | (.error e, s) => (.error e, s)
    | (.ok l, s) => match rd s (va + 8 * n) with
      | (.ok w, s) => (.ok (l ++ [w]), s)
      | (.error e, s) => (.error e, s)

/-- `n` words of the queue's address space as one number. -/
def State.qNat (s : State) (q va n : Nat) : PRes Nat :=
  match qReads (fun s a => s.qWord q a) va n s with
  | (.ok l, s) => (.ok (wordsNat l), s)
  | (.error e, s) => (.error e, s)

/-- A word of physical memory, under key slot 0 (R324). -/
def State.qPhys (s : State) (q pa : Nat) : PRes Word :=
  if !s.paAssigned pa then (.error 4, s)
  else match s.placeLoad ⟨if isPeer pa then .peer pa else .dev pa pa, 0, false, false⟩ (s.queue q).qlt with
    | (.ok (w, t), s) => (.ok w, s.bump q t)
    | (.error e, s) => (.error e, s)

def State.qStore (s : State) (q va : Nat) (v : Word) : PRes Unit :=
  match s.procStore (qDie q) (s.queue q).aspace va v (s.queue q).qlt with
  | (.ok t, s) => (.ok (), s.bump q t)
  | (.error e, s) => (.error e, s)

/-! ## Blocks (R325) -/

def Block.ofNat (n : Nat) : Block :=
  { kind := fld n 0 8, test := bitAt n 8, top := fld n 9 3, onfail := fld n 12 2, link := bitAt n 14, after := bitAt n 15
    resv := fld n 16 48, next := fld n 64 64, alt := fld n 128 64, taddr := fld n 192 64
    tval := BitVec.ofNat 64 (fld n 256 64), tmask := BitVec.ofNat 64 (fld n 320 64)
    arg0 := BitVec.ofNat 64 (fld n 384 64), arg1 := BitVec.ofNat 64 (fld n 448 64) }

/-- OP of a MAP block, and the selector of a SIGNAL (R327, R328). -/
def Block.op (b : Block) : Nat := fld b.arg1.toNat 32 4
def Block.sel (b : Block) : Nat := fld b.arg0.toNat 62 2

/-- A VA that is zero or not a multiple of `n`. -/
def badVa (va n : Nat) : Bool := va == 0 || va % n != 0

/-- The checks of a block before it is handled (R331): the first failing row's ERR code. -/
def Block.errCode (b : Block) (inChain : Bool) : Option Nat :=
  let a0 := b.arg0.toNat
  if b.kind = 0 ∨ 9 < b.kind then some 1
  else if b.resv != 0 || decide (6 ≤ b.top) || b.onfail == 3 || (b.kind == 2 && b.onfail != 0)
      || (b.kind == 4 && b.onfail != 1) || (b.kind == 3 && decide (2 ≤ b.sel))
      || (b.kind == 7 && (decide (4 ≤ b.op) || fld b.arg1.toNat 36 28 != 0 || (b.op == 3 && b.test))) then some 2
  else if (b.link && badVa b.next 64) || (b.test && (badVa b.taddr 8 || (b.onfail == 1 && badVa b.alt 64)))
      || (b.kind == 1 && badVa a0 64) || (b.kind == 3 && b.sel == 0 && badVa (fld a0 0 57) 8)
      || ((b.kind == 8 || b.kind == 9) && badVa a0 8)
      || (b.kind == 7 && (badVa a0 65536 || (b.op == 3 && badVa b.tval.toNat 8))) then some 3
  else if b.kind = 5 ∧ inChain = true then some 6
  else none

/-- Halts a queue (R331, 19 R402); `skip`: it will resume after the block. -/
def State.haltQueue (s : State) (q code : Nat) (skip : Bool) : State :=
  (s.setQueue q fun x => { x with state := 3, err := BitVec.ofNat 8 code, skip }).interrupt 2

/-- The words of the block at the queue's position. -/
def State.readBlock (s : State) (q : Nat) : PRes (List Word) :=
  let x := s.queue q
  match x.chain with
  | some va => if badVa va 64 then (.error 3, s) else qReads (fun s a => s.qWord q a) va 8 s
  | none => qReads (fun s a => s.qPhys q a) (x.base + 64 * (x.rptr.toNat % 2 ^ x.size)) 8 s

/-- Reads and checks the block at the queue's position, if it is processed and there is one. -/
def State.examine (s : State) (q : Nat) : State :=
  let x := s.queue q
  if !x.enable || s.rebaseDue || x.state == 3 || x.block.isSome then s
  else if x.chain.isNone && x.rptr == x.wptr then s.setQueue q fun x => { x with state := 0 }
  else if x.chain.isNone && decide (2 ^ x.size < (x.wptr - x.rptr).toNat) then s.haltQueue q 8 false
  else match s.readBlock q with
    | (.error e, s) => s.haltQueue q e true
    | (.ok l, s) =>
      let b := Block.ofNat (wordsNat l)
      let s := s.setQueue q fun x => { x with block := some b, passed := !b.test, state := 1 }
      match b.errCode x.chain.isSome with
      | some e => s.haltQueue q e true
      | none => s

/-- Moves to the next position (R326 step 4). -/
def State.advanceQueue (s : State) (q : Nat) : State :=
  let s := s.setQueue q fun x =>
    let y := { x with block := none, passed := false }
    match x.block with
    | some b => if b.link then { y with chain := some b.next } else { y with chain := none, rptr := x.rptr + 1 }
    | none => { y with chain := none, rptr := x.rptr + 1 }
  s.examine q

/-! ## Tests (R326) -/

def Block.holds (b : Block) (w : Word) : Bool :=
  let v := (w &&& b.tmask).toNat
  let t := b.tval.toNat
  match b.top with
  | 0 => decide (t ≤ v)
  | 1 => v == t
  | 2 => v != t
  | 3 => decide (v < t)
  | 4 => v != 0
  | _ => v == 0

/-- What a block's test makes of the queue: it goes on with its action, or the state after. -/
def State.testBlock (s : State) (q : Nat) (b : Block) : State × Bool :=
  match s.qWord q b.taddr with
  | (.error e, s) => (s.haltQueue q e true, false)
  | (.ok w, s) =>
    if b.holds w then (s.setQueue q fun x => { x with passed := true, state := 1 }, true)
    else match b.onfail with
      | 1 => ((s.setQueue q fun x => { x with block := none, passed := false, chain := some b.alt }).examine q, false)
      | 2 => (s.advanceQueue q, false)
      | _ => (s.setQueue q fun x => { x with state := 2, tested := s.count125 }, false)

/-- BLOCK_TEST_RETRY: a waiting test is repeated. When, within 1,024 cycles of the last time, is the turns' choice. -/
def execBlockTestRetry (q : Nat) (s : State) : Result :=
  let x := s.queue q
  match x.block with
  | some b =>
    if x.enable && x.state == 2 && !x.passed && !s.rebaseDue then .next (s.testBlock q b).1
    else notNow "BLOCK_TEST_RETRY"
  | none => notNow "BLOCK_TEST_RETRY"

/-! ## Actions -/

/-- What an action comes to: it waits (STATE says so), cannot begin yet, fails with a code, or is done. -/
inductive Act where
  | wait
  | hold
  | halt (code : Nat) (s : State)
  | done (s : State)

/-- Whether an earlier launch of a queue has not completed. -/
def State.earlier (s : State) (q : Nat) : Bool := s.launches.any fun l => l.2.queue == q

/-- Handles the block in hand of a queue if it is of a kind: the test, the wait of AFTER, the action, the next position
(R326). -/
def State.runBlock (s : State) (name : String) (q : Nat) (kind : Block → Bool) (act : State → Block → Act) : Result :=
  let x := s.queue q
  match x.block with
  | none => notNow name
  | some b =>
    if !x.enable || s.rebaseDue || x.state == 3 || !kind b || (x.state == 2 && !x.passed) then notNow name
    else
      let r := if x.passed then (s, true) else s.testBlock q b
      if !r.2 then .next r.1
      else
        let wait : Result := if x.state = 2 then notNow name else .next (r.1.setQueue q fun x => { x with state := 2 })
        if b.after && r.1.earlier q then wait
        else match act r.1 b with
          | .wait => wait
          | .hold => notNow name
          | .halt e s' => .next (s'.haltQueue q e true)
          | .done s' => .next (s'.advanceQueue q)

/-- An action from an access. -/
def actOf (r : PRes α) (f : α → State → Act) : Act :=
  match r with
  | (.ok v, s) => f v s
  | (.error e, s) => .halt e s

/-! ## LAUNCH (R332 to R337) -/

def LaunchRec.ofNat (n : Nat) : LaunchRec :=
  { tag := BitVec.ofNat 64 (fld n 704 64), succ := (List.range 4).map fun i => fld n (640 + 16 * i) 16
    nodesN := fld n 576 8, stackWords := fld n 560 15, gsets := fld n 544 16, gangs := fld n 512 32, nodesVa := fld n 448 64
    planVa := fld n 384 64, bitmapVa := fld n 320 64, compVa := fld n 256 64, ctxVa := fld n 192 64, stackVa := fld n 128 64
    argVa := fld n 64 64, entryVa := fld n 0 64 }

/-- The reserved fields of a launch record, and its addresses (R331). -/
def recReserved (n : Nat) (r : LaunchRec) : Bool :=
  fld n 768 256 != 0 || fld n 584 56 != 0 || bitAt n 575 || r.succ.any fun e => fld e 13 2 != 0
def LaunchRec.badAddr (r : LaunchRec) : Bool :=
  badVa r.bitmapVa 8 || badVa r.compVa 64 || badVa r.ctxVa 65536 || badVa r.stackVa 4096 || badVa r.argVa 64
  || badVa r.entryVa 64 || (r.nodesN != 0 && badVa r.nodesVa 8)

/-- One entry of a node table (R337). -/
def State.readNode (s : State) (q va : Nat) : PRes Node :=
  match s.qNat q va 4 with
  | (.error e, s) => (.error e, s)
  | (.ok n, s) =>
    let ev := fld n 0 64
    if badVa ev 64 || badVa (fld n 64 64) 64 || fld n 160 96 != 0 then (.error 5, s)
    else match s.qNat q ev 16 with
      | (.error e, s) => (.error e, s)
      | (.ok m, s) =>
        let k := Kernel.ofNat m
        if entryOk s.stepping m true && decide (k.nodeCount ≤ fld n 128 32 ∧ fld n 128 32 ≤ 2 ^ 24 ∧ 16 * k.nodeCount ≤ k.pad)
        then (.ok ⟨k, fld n 64 64, fld n 128 32, 0, 0, 0, []⟩, s) else (.error 5, s)

def State.readNodes (s : State) (q va : Nat) : Nat → PRes (List Node)
  | 0 => (.ok [], s)
  | n + 1 =>
    match s.readNodes q va n with
    | (.error e, s) => (.error e, s)
    | (.ok l, s) => match s.readNode q (va + 32 * n) with
      | (.ok d, s) => (.ok (l ++ [d]), s)
      | (.error e, s) => (.error e, s)

/-- The entries of a plan table, checked (12 R278, 18 R396). -/
def State.readPlanTable (s : State) (q va : Nat) : PRes (List (List Byte)) :=
  if va = 0 then (.ok [], s)
  else if va % 32 != 0 then (.error 5, s)
  else match s.qNat q va 4 with
    | (.error e, s) => (.error e, s)
    | (.ok h, s) =>
      if !planHeadOk (leBytes 32 h) then (.error 5, s)
      else match s.qNat q (va + 32) (4 * fld h 0 16) with
        | (.error e, s) => (.error e, s)
        | (.ok n, s) =>
          let l := chunks32 (fld h 0 16) (leBytes (32 * fld h 0 16) n)
          if (planBad 0 none l).isSome then (.error 5, s) else (.ok l, s)

/-- The lowest free launch slot of 127. -/
def State.freeSlot (s : State) : Option Nat := leastFrom (fun i => (s.launches.get? i).isNone) 0 127

/-- A launch that is accepted: its slot, its identifier, its counter (R333, R336). -/
def State.acceptLaunch (s : State) (q slot va : Nat) (b : Block) (r : LaunchRec) (k : Kernel) (nodes : List Node)
    (plan : List (List Byte)) (args : List Word) : State :=
  let a1 := b.arg1.toNat
  let counter := if bitAt a1 13 then some (fld a1 0 13) else none
  let l : Launch :=
    { queue := q, lid := s.accepted % 65536, recVa := va, record := r, kernel := k, nodes, args, plan
      tsL := (s.queue q).qlt, acceptT := s.count125, order := s.accepted, counter
      status := if counter.isSome then .parked else .ready
      held := false, cancelled := false, replays := 0, nextIndex := 0, nextAdmit := 0, done := [], nodeGangs := 0, nodeQueue := []
      sets := [], trigger := none, firstFail := none, fatal := false, ct := 0, snaps := [], undoUsed := false }
  let s := { s with accepted := s.accepted + 1, launches := s.launches.set slot l }
  match counter with
  | some c => (s.addCounter c (BitVec.ofNat 16 (fld a1 16 16)) false).settleParked
  | none => s

/-- What a processor's read gives goes to what follows. -/
def PRes.then (r : PRes α) (f : α → State → PRes β) : PRes β :=
  match r with
  | (.ok v, s) => f v s
  | (.error e, s) => (.error e, s)

/-- What a launch is read as. -/
structure LaunchData where
  record : LaunchRec
  kernel : Kernel
  nodes : List Node
  plan : List (List Byte)
  args : List Word

/-- Reads and checks a launch record and what it names (R333, R337, 12 R278, 18 R394, R396). -/
def State.readLaunch (s : State) (q va : Nat) : PRes LaunchData :=
  (s.qNat q va 16).then fun n s =>
  let r := LaunchRec.ofNat n
  if recReserved n r then (.error 2, s)
  else if r.badAddr then (.error 3, s)
  else (s.qNat q r.entryVa 16).then fun m s =>
  let k := Kernel.ofNat m
  if !entryOk s.stepping m false || r.gsets < k.span || r.gsets = 0 || r.gangs = 0 || r.stackWords = 0 || 16384 < r.stackWords
      || 64 < r.nodesN then (.error 5, s)
  else (s.readNodes q r.nodesVa r.nodesN).then fun nodes s =>
  (s.readPlanTable q r.planVa).then fun plan s =>
  (qReads (fun s a => s.qWord q a) r.argVa 16 s).then fun args s =>
  (.ok ⟨r, k, nodes, plan, args⟩, s)

/-- The action of a LAUNCH block. -/
def launchAct (q : Nat) (s : State) (b : Block) : Act :=
  match s.freeSlot with
  | none => .wait
  | some slot => actOf (s.readLaunch q b.arg0.toNat) fun d s =>
    .done (s.acceptLaunch q slot b.arg0.toNat b d.record d.kernel d.nodes d.plan d.args)

def execLaunch (q : Nat) (s : State) : Result := s.runBlock "LAUNCH" q (·.kind == 1) (launchAct q)

/-- LAUNCH_REPLAY: a killed replayable launch is restored and accepted again at qlt, from its record and what that names, read again.
Where that cannot be read or fails its checks, the queue halts and what was read before stands (log entry 27). -/
def execLaunchReplay (slot : Nat) (s : State) : Result :=
  match s.launches.get? slot with
  | none => notNow "LAUNCH_REPLAY"
  | some l =>
    if s.rebaseDue || !s.finished slot l || !l.replaysAgain then notNow "LAUNCH_REPLAY"
    else
      let s := s.undo slot l
      let (r, s) := s.readLaunch l.queue l.recVa
      let s := match r with
        | .ok d => s.modL slot fun l => { l with record := d.record, kernel := d.kernel, nodes := d.nodes, plan := d.plan, args := d.args }
        | .error e => s.procHalt l.queue e
      .next (s.modL slot fun l => { l with
        tsL := (s.queue l.queue).qlt, status := .ready, firstFail := none, replays := l.replays + 1, nextIndex := 0, nextAdmit := 0
        done := [], nodeGangs := 0, nodeQueue := [], sets := [] })

/-! ## The other kinds (R327) -/

def execWaitBlock (q : Nat) (s : State) : Result := s.runBlock "WAIT_BLOCK" q (·.kind == 2) fun s _ => .done s
def execBranchOn (q : Nat) (s : State) : Result := s.runBlock "BRANCH_ON" q (·.kind == 4) fun s _ => .done s

/-- SIGNAL: an atomic add of scope .sys at a semaphore. -/
def signalAct (q : Nat) (s : State) (b : Block) : Act :=
  let x := s.queue q
  actOf (s.procAt (qDie q) x.aspace (fld b.arg0.toNat 0 57) .atomic) fun t s =>
  if t.rep then .halt 4 s
  else match t.place with
    | .dev pa gpa =>
      let s := (s.fillLine (pa / 64)).recallLine (pa / 64)
      match s.atomLine pa gpa t.key .w64 (fun old => (old + b.arg1).toNat) .sys 0 .none x.qlt with
      | .ok (_, ts, s) => .done (s.bump q ts)
      | .error (c, p) => .halt 7 (s.damage c none (p.getD gpa))
    | _ => match s.placeStore t [] x.qlt with
      | (.ok _, s) => .done s
      | (.error e, s) => .halt e s

def execSignalAdd (q : Nat) (s : State) : Result :=
  s.runBlock "SIGNAL_ADD" q (fun b => b.kind == 3 && b.sel == 0) (signalAct q)
def execSignalSetCounter (q : Nat) (s : State) : Result :=
  s.runBlock "SIGNAL_SET_COUNTER" q (fun b => b.kind == 3 && b.sel == 1) fun s b =>
    .done { s with counters := s.counters.set (fld b.arg0.toNat 0 13) ⟨BitVec.ofNat 16 b.arg1.toNat, false⟩ }.settleParked

def execSkip (q : Nat) (s : State) : Result := s.runBlock "SKIP" q (·.kind == 5) fun s b =>
  .done (s.setQueue q fun x => { x with rptr := x.rptr + BitVec.ofNat 32 (fld b.arg0.toNat 0 16) })

def execFence (q : Nat) (s : State) : Result := s.runBlock "FENCE" q (·.kind == 6) fun s _ =>
  if s.earlier q then .wait else .done s

def execWriteBlock (q : Nat) (s : State) : Result := s.runBlock "WRITE" q (·.kind == 8) fun s b =>
  actOf (s.qStore q b.arg0.toNat b.arg1) fun _ s => .done s
def execTimestamp (q : Nat) (s : State) : Result := s.runBlock "TIMESTAMP" q (·.kind == 9) fun s b =>
  actOf (s.qStore q b.arg0.toNat (BitVec.ofNat 64 s.count125)) fun _ s => .done s

/-! ## MAP (R328, 04 R98, 05 R126) -/

/-- The range of a MAP block. -/
def Block.pages (b : Block) : Nat := fld b.arg1.toNat 0 32
def Block.meets (b : Block) (base size : Nat) : Bool :=
  decide (base < b.arg0.toNat + 65536 * b.pages ∧ b.arg0.toNat < base + size)

/-- The VA of an access. -/
def Acc.va : Acc → Option Nat
  | .load va _ _ _ _ _ _ _ _ _ | .store _ va _ | .atom va _ _ _ _ _ _ _ _ _ _ => some va.toNat
  | .joined _ => none

/-- Whether an access at a VA lies in the range, or was made through a leaf that maps some of the range. -/
def State.throughRange (s : State) (asp : Nat) (b : Block) (va : Nat) : Bool :=
  b.meets (va / 64 * 64) 128 || s.oldTlb.any fun e => b.meets e.base (2 ^ e.bits) && (e.covers asp va || e.covers asp (va + 63))

/-- Whether an access of an address space into the range has been translated and not yet performed: of a thread, a store of a gang that
is gone, an atom without a thread, or the update of a replica (04 R98). -/
def State.usesRange (s : State) (asp : Nat) (b : Block) : Bool :=
  (s.threads.any fun t => (match s.gangAt t.1 with | some g => g.aspace == asp | none => false) &&
    t.2.accs.any fun a => match a.va with | some va => s.throughRange asp b va | none => false) ||
  (s.msgs.any fun m => (s.queue (s.launchIds m.2.e.launch).1).aspace == asp &&
    m.2.e.feeders.any fun f => s.throughRange asp b f.2.1.toNat) ||
  !s.loose.isEmpty || !s.replicas.isEmpty

/-- The invalidate option: TLB entries of the range go at every level, the walk caches are emptied. -/
def State.invalidate (s : State) (asp : Nat) (b : Block) : State :=
  s.dropTlb fun e => e.aspace == asp && b.meets e.base (2 ^ e.bits)

/-- The exec remap: code lines of the range go. -/
def State.execRemap (s : State) (asp : Nat) (b : Block) : State :=
  { s with cores := s.cores.mapVals fun _ c => { c with
      icache := c.icache.filter fun l => !(l.aspace == asp && b.meets (64 * l.line) 64) } }

/-- The lines of `n` pages from a VA that are mapped, with whether their leaf has X. -/
def State.rangeLines (s : State) (die asp va n : Nat) : List (Nat × Bool) :=
  (List.range n).flatMap fun i => match s.procXlate die asp (va + 65536 * i) .load none with
    | .ok e => (List.range 1024).map fun k => (e.pa (va + 65536 * i) / 64 + k, leafX e.leaf)
    | _ => []

/-- Unmap execute: the contents of executable lines become the old ones (05 R127). -/
def State.oldLines (s : State) (ls : List (Nat × Bool)) : State :=
  { s with codeHist := ls.foldl (fun t e =>
      if e.2 then t.set e.1 (((t.getD e.1 []).map fun o => match o.till with | none => { o with till := some 0 } | _ => o) ++
        [⟨s.peekLine e.1 (s.line e.1).key, some 0⟩])
      else t) s.codeHist }

/-- Map execute: what a line held before can be fetched by gangs admitted before, and only as its old contents (05 R126, R127). -/
def State.newLines (s : State) (ls : List (Nat × Bool)) : State :=
  { s with codeHist := ls.foldl (fun t e =>
      match (t.getD e.1 []).filter fun o => o.till == some 0 with
      | [] => t.erase e.1
      | l => t.set e.1 (l.map fun o => { o with till := some (s.time + 1) })) s.codeHist }

/-- The PAs of the leaves that map `n` pages from a VA, each once; the error of the first page without one. -/
def State.rangeLeaves (s : State) (die asp va : Nat) : Nat → PRes (List Nat)
  | 0 => (.ok [], s)
  | n + 1 =>
    match s.rangeLeaves die asp va n with
    | (.error e, s) => (.error e, s)
    | (.ok l, s) => match s.procAt die asp (va + 65536 * n) .load, s.leafPa asp (va + 65536 * n) with
      | (.ok _, s), some lp => (.ok (addNew l lp), s)
      | (.error e, s), _ => (.error e, s)
      | (.ok _, s), none => (.error 4, s)

/-- Sets X and W of leaves, as stores of the processor. -/
def State.editLeaves (s : State) (q : Nat) (x w : Bool) : List Nat → PRes Unit
  | [] => (.ok (), s)
  | lp :: r =>
    let t : Target := ⟨.dev lp lp, 0, false, false⟩
    match s.placeLoad t (s.queue q).qlt with
    | (.error e, s) => (.error e, s)
    | (.ok (v, ts), s) =>
      let s := s.bump q ts
      let n := v.toNat - fld v.toNat 3 2 * 8 + (if x then 16 else 0) + (if w then 8 else 0)
      match s.placeStore t [(lp / 8 % 8, Gran.mk' (BitVec.ofNat 64 n) lp)] (s.queue q).qlt with
      | (.error e, s) => (.error e, s)
      | (.ok ts, s) => (s.bump q ts).editLeaves q x w r

/-- Copies `n` words from a VA to a VA, checked, as ordinary stores. -/
def State.copyWords (s : State) (q src dst : Nat) : Nat → PRes Unit
  | 0 => (.ok (), s)
  | n + 1 =>
    match s.copyWords q src dst n with
    | (.error e, s) => (.error e, s)
    | (.ok _, s) => match s.qWord q (src + 8 * n) with
      | (.error e, s) => (.error e, s)
      | (.ok w, s) => s.qStore q (dst + 8 * n) w

/-- A MAP block's action: its edits, then the invalidation. It begins when no access under the old translations is
outstanding (log entry 28). -/
def mapAct (q : Nat) (f : State → Block → PRes Unit) (s : State) (b : Block) : Act :=
  if s.usesRange (s.queue q).aspace b then .hold
  else actOf (f s b) fun _ s => .done (s.invalidate (s.queue q).aspace b)

def isMap (op : Nat) (b : Block) : Bool := b.kind == 7 && b.op == op

def execInvalidate (q : Nat) (s : State) : Result :=
  s.runBlock "INVALIDATE" q (isMap 0) (mapAct q fun s _ => (.ok (), s))
def execUnmapX (q : Nat) (s : State) : Result :=
  s.runBlock "UNMAP_X" q (isMap 1) (mapAct q fun s b =>
    match s.rangeLeaves (qDie q) (s.queue q).aspace b.arg0.toNat b.pages with
    | (.ok l, s) =>
      (s.oldLines (s.rangeLines (qDie q) (s.queue q).aspace b.arg0.toNat b.pages)).editLeaves q false true l
    | (.error e, s) => (.error e, s))
def execMapX (q : Nat) (s : State) : Result :=
  s.runBlock "MAP_X" q (isMap 2) (mapAct q fun s b =>
    match s.rangeLeaves (qDie q) (s.queue q).aspace b.arg0.toNat b.pages with
    | (.ok l, s) => match s.editLeaves q true false l with
      | (.ok _, s) => (.ok (), (s.newLines (s.rangeLines (qDie q) (s.queue q).aspace b.arg0.toNat b.pages)).execRemap
          (s.queue q).aspace b)
      | (.error e, s) => (.error e, s)
    | (.error e, s) => (.error e, s))
def execWriteCode (q : Nat) (s : State) : Result :=
  s.runBlock "WRITE_CODE" q (isMap 3) (mapAct q fun s b =>
    match s.rangeLeaves (qDie q) (s.queue q).aspace b.arg0.toNat b.pages with
    | (.ok l, s) =>
      if l.any fun lp => leafX (s.peekGran (lp / 8) 0).data then (.error 4, s)
      else s.copyWords q b.tval.toNat b.arg0.toNat (8192 * b.pages)
    | (.error e, s) => (.error e, s))

end Sys2Proof.Machine
end

