-- ==== Sys2Proof/Machine/HostRegs.lean ====
section
/-! DEFINITION. BAR0: the host's accesses to the device's registers (19 R402, R403, 15 R324, R331, 04 R101, 19 R407). Every
write goes through one operation; an access of 4 bytes reaches one half of a 64-bit register. -/

namespace Sys2Proof.Machine

/-! ## GSTAT's error bits (R403) -/

/-- Records an access error or a reserved bit written: ERR_OFF keeps the first offset while both bits are clear. -/
def State.noteErr (s : State) (off : Nat) (rsvd : Bool) : State :=
  let h := s.host
  let errOff := if h.rsvdWr || h.accessErr then h.errOff else off % 2 ^ 18
  { s with host := { h with errOff, rsvdWr := h.rsvdWr || rsvd, accessErr := h.accessErr || !rsvd } }

/-- GSTAT as a word (R403). -/
def State.gstat (s : State) : Word :=
  let h := s.host
  let b (x : Bool) (n : Nat) : Nat := if x then 2 ^ n else 0
  BitVec.ofNat 64 (b h.accessErr 0 + b h.rsvdWr 1 + b h.recovery 2 + h.errOff * 2 ^ 8 +
    (match s.stepping with | .b0 => 0x10 | .b1 => 0x11) * 2 ^ 32 + h.ualId * 2 ^ 40 + b h.ualValid 50)

/-- The Revision ID of the control function in PCI Express configuration space (00 R1, R402). -/
def State.revisionId (s : State) : Byte := BitVec.ofNat 8 (stepCode s.stepping)

/-- QCFG as a word (15 R324). -/
def Queue.qcfg (x : Queue) : Word :=
  BitVec.ofNat 64 ((if x.enable then 1 else 0) + x.prio * 2 + x.aspace * 2 ^ 8 + x.size * 2 ^ 16 + x.slice * 2 ^ 24 +
    x.dies * 2 ^ 32 + x.state * 2 ^ 36 + x.err.toNat * 2 ^ 40)

/-! ## Queue registers (15 R324, R331) -/

/-- The bits of a write: value and the mask of the bits that it reaches. -/
structure Wr where
  v : Word
  m : Word

/-- A field of a register after a write. -/
def Wr.field (w : Wr) (old bit n : Nat) : Nat := if w.m.getLsbD bit then fld w.v.toNat bit n else old
/-- The bits of a field written as 1. -/
def Wr.ones (w : Wr) (bit n : Nat) : Nat := fld (w.v &&& w.m).toNat bit n

/-- A halted queue whose ERR has become 0 resumes after the failed block (R331). -/
def State.resumeQueue (s : State) (q : Nat) : State :=
  let x := s.queue q
  let s := s.setQueue q fun x => { x with state := if x.enable then 1 else 0, skip := false }
  if x.skip then s.advanceQueue q else s.examine q

/-- A write to QCFG. -/
def State.writeQcfg (s : State) (q : Nat) (w : Wr) : State :=
  let x := s.queue q
  let quiet := !x.enable && x.state == 0
  let on := w.field (if x.enable then 1 else 0) 0 1 == 1
  let err : Byte := x.err &&& ~~~(BitVec.ofNat 8 (w.ones 40 8))
  let s := s.setQueue q fun x => { x with
    err, dies := w.field x.dies 32 2, slice := w.field x.slice 24 8, prio := w.field x.prio 1 2
    size := if quiet then w.field x.size 16 5 else x.size, aspace := if quiet then w.field x.aspace 8 8 else x.aspace
    enable := on }
  let s := if x.state == 3 && x.err != 0 && err == 0 then s.resumeQueue q else s
  if on && !x.enable then
    if decide ((s.queue q).size < 4 ∨ 16 < (s.queue q).size) then s.haltQueue q 2 false else s.examine q
  else if !on && x.enable && (s.queue q).state != 3 then
    s.setQueue q fun x => { x with block := none, passed := false, state := 0 }
  else s

/-! ## The fault port (04 R101) -/

/-- One waiter of an entry that is answered RETRY: it replays its instruction. -/
def State.retryWaiter (s : State) (w : Waiter) : State :=
  match w with
  | .thread t va k | .frame t va k => (s.pairOf t).foldl (fun s u => s.replayWaiter (.thread u va k)) s
  | .copy _ _ _ => s.replayWaiter w

/-- One waiter of an entry that is answered FAIL: its own cause; a frame fault kills the crew and is a fatal trigger (09
R223, 17 R382). -/
def State.failWaiter (s : State) (w : Waiter) (row : Nat) : State :=
  match w with
  | .thread t va _ => s.stopAll ((s.pairOf t).map fun u => (u, .trap (rowCause row) va none))
  | .copy c _ _ => s.failCopy c row
  | .frame t _ _ => match s.gangAt t with
    | some g => s.contain g.slot (rowCause row).toNat g.detail true
    | none => s

/-- A RESOLVE command; one whose VPN is not the entry's is ignored. -/
def State.resolveEntry (s : State) (die entry vpn : Nat) (fail : Bool) : State :=
  match s.faults.get? (fkey die entry) with
  | some f =>
    if f.vpn = vpn then
      let s := { s with faults := s.faults.erase (fkey die entry) }
      f.waiters.foldl (fun s w => if fail then s.failWaiter w.1 w.2 else s.retryWaiter w.1) s
    else s
  | none => s

def State.resolveWord (s : State) (die : Nat) (v : Word) : State :=
  s.resolveEntry die (fld v.toNat 0 12) (fld v.toNat 23 41) (v.getLsbD 12)

/-! ## The mailbox (19 R407) -/

/-- Porast's answer: status and further bytes; the command is done. -/
def State.respond (s : State) (st : Byte) (l : List Byte) : State :=
  { s with porast := { s.porast with resp := ((st :: l) ++ List.replicate 64 0).take 64, busy := false } }.interrupt 3

/-- The doorbell: the command runs, as the block stands now, unless one runs. In recovery only opcodes 0x09 to 0x0F are accepted; at
other times the status of an unassigned opcode is open (log entry 2). -/
def State.doorbell (s : State) : State :=
  if s.porast.busy then s
  else
    let op := (s.porast.cmd.headD 0).toNat
    let s := { s with porast := { s.porast with busy := true, run := s.porast.cmd, resp := 1 :: List.replicate 63 0 } }
    if s.host.recovery && !(decide (9 ≤ op ∧ op ≤ 15)) then s.respond 2 []
    else if op = 0 ∨ 15 < op then
      let (c, s) := s.pick 2
      s.respond (if c = 0 then 2 else 3) []
    else s

/-- Bytes of the command block replaced. -/
def State.writeCmd (s : State) (off n : Nat) (v : Word) : State :=
  let l := s.porast.cmd
  { s with porast := { s.porast with cmd := l.take off ++ leBytes n v.toNat ++ l.drop (off + n) } }

/-! ## The registers -/

/-- The reserved bits of the register at an 8-byte aligned offset, as a mask; none for an offset outside every register.
In recovery only GSTAT, INTSTAT and the mailbox are documented. -/
def State.reserved (s : State) (off : Nat) : Option Nat :=
  if off = 0 then some (fld (2 ^ 64 - 1) 0 13 * 2 ^ 51 + 63 * 2 ^ 26 + 31 * 2 ^ 3)
  else if off = 8 then some (2 ^ 64 - 2 ^ 5)
  else if 0x4000 ≤ off ∧ off < 0x40C0 then some 0
  else if s.host.recovery then none
  else if 0x1000 ≤ off ∧ off < 0x2000 then
    match off % 64 with
    | 0 => some (2 ^ 64 - 2 ^ 52 + 0xFFF)
    | 8 => some (2 ^ 64 - 2 ^ 48 + 3 * 2 ^ 38 + 3 * 2 ^ 34 + 7 * 2 ^ 21 + 31 * 2 ^ 3)
    | 16 => some (2 ^ 64 - 2 ^ 32)
    | 24 => some 0
    | _ => none
  else if 0x2000 ≤ off ∧ off < 0x2800 then some (2 ^ 64 - 2 ^ 52 + (2 ^ 17 - 2))
  else if off = 0x3000 ∨ off = 0x3008 then some (2 ^ 23 - 2 ^ 13)
  else if 0x1_0000 ≤ off ∧ off < 0x3_0000 then some 0
  else none

/-- The effect of a write on the register at an 8-byte aligned offset. -/
def State.writeReg (s : State) (off : Nat) (w : Wr) : State :=
  let q := (off - 0x1000) / 64
  if off = 0 then
    { s with host := { s.host with accessErr := s.host.accessErr && w.ones 0 1 == 0, rsvdWr := s.host.rsvdWr && w.ones 1 1 == 0 } }
  else if off = 8 then
    { s with host := { s.host with intstat := s.host.intstat &&& ~~~(BitVec.ofNat 5 (w.ones 0 5)) } }
  else if 0x4000 ≤ off ∧ off < 0x4040 then
    let lo := w.m.getLsbD 0
    if lo && w.m.getLsbD 32 then s.writeCmd (off - 0x4000) 8 w.v
    else if lo then s.writeCmd (off - 0x4000) 4 w.v
    else s.writeCmd (off - 0x4000 + 4) 4 (w.v >>> 32)
  else if off = 0x4080 then (if w.ones 0 1 = 1 then s.doorbell else s)
  else if 0x1000 ≤ off ∧ off < 0x2000 then
    match off % 64 with
    | 0 =>
      let x := s.queue q
      if !x.enable && x.state == 0 then
        let b := ((BitVec.ofNat 64 x.base &&& ~~~w.m) ||| (w.v &&& w.m)).toNat
        s.setQueue q fun x => { x with base := fld b 12 40 * 4096 }
      else s
    | 8 => s.writeQcfg q w
    | 16 => if w.m.getLsbD 0 then (s.setQueue q fun x => { x with wptr := BitVec.ofNat 32 w.v.toNat }).examine q else s
    | _ => s
  else if 0x2000 ≤ off ∧ off < 0x2800 then
    let n := (off - 0x2000) / 8
    let e := (s.host.aspaces.getD n 0 &&& ~~~w.m) ||| (w.v &&& w.m)
    { s with host := { s.host with aspaces := s.host.aspaces.set n (BitVec.ofNat 64 (fld e.toNat 17 35 * 2 ^ 17 + e.toNat % 2)) } }
  else if off = 0x3000 ∨ off = 0x3008 then
    let d := (off - 0x3000) / 8
    let i : Fin 2 := Fin.ofNat 2 d
    let low : U32 := if w.m.getLsbD 0 then BitVec.ofNat 32 w.v.toNat else s.host.resolveLow[i]
    let s := { s with host := { s.host with resolveLow := s.host.resolveLow.set i low } }
    if w.m.getLsbD 32 then s.resolveWord d (BitVec.ofNat 64 (low.toNat + fld w.v.toNat 32 32 * 2 ^ 32)) else s
  else s

/-- A write of 8 bytes, or of 4, at a BAR0 offset: its fields are performed, and a reserved bit written as 1 is recorded. A
misaligned write, or one outside every register, is ignored and recorded. -/
def State.barWrite (s : State) (off : Nat) (eight : Bool) (v : Word) : State :=
  let base := off / 8 * 8
  if off % (if eight then 8 else 4) != 0 then s.noteErr off false
  else match s.reserved base with
    | none => s.noteErr off false
    | some r =>
      let w : Wr := if eight then ⟨v, BitVec.allOnes 64⟩
        else if off % 8 = 0 then ⟨BitVec.ofNat 64 (v.toNat % 2 ^ 32), BitVec.ofNat 64 (2 ^ 32 - 1)⟩
        else ⟨BitVec.ofNat 64 (v.toNat % 2 ^ 32 * 2 ^ 32), BitVec.ofNat 64 (2 ^ 64 - 2 ^ 32)⟩
      let s := s.writeReg base w
      if (w.v &&& w.m &&& BitVec.ofNat 64 r) != 0 then s.noteErr off true else s

/-! ## What the host reads

A read changes nothing but where it lies outside every register (BAR0_UNDOCUMENTED_ACCESS). -/

/-- A fault-buffer entry as its 128 bits (04 R100): a pending one. -/
def FaultEntry.word (f : FaultEntry) : Nat :=
  f.vpn + (match f.kind with | .load => 0 | .store => 1 | .atomic => 2 | .fetch => 3) * 2 ^ 41 + f.cause * 2 ^ 43 + 2 ^ 46 +
    Nat.min f.waiters.length 65535 * 2 ^ 48 + f.launch * 2 ^ 64 + f.queue * 2 ^ 80 + f.aspace * 2 ^ 88 + f.firstCycle * 2 ^ 96

/-- The register at an 8-byte aligned offset as it reads (19 R402, R403, 15 R324, 04 R100). None where no rule says what a
read gives: the RESOLVE ports and the rest of the mailbox. -/
def State.regWord (s : State) (off : Nat) : Option Word :=
  if (s.reserved off).isNone then some 0
  else if off = 0 then some s.gstat
  else if off = 8 then some (s.host.intstat.setWidth 64)
  else if 0x4000 ≤ off ∧ off < 0x4040 then some (BitVec.ofNat 64 (leNat ((s.porast.cmd.drop (off - 0x4000)).take 8)))
  else if 0x4040 ≤ off ∧ off < 0x4080 then some (BitVec.ofNat 64 (leNat ((s.porast.resp.drop (off - 0x4040)).take 8)))
  else if 0x1000 ≤ off ∧ off < 0x2000 then
    let x := s.queue ((off - 0x1000) / 64)
    some (match off % 64 with
      | 0 => BitVec.ofNat 64 x.base
      | 8 => x.qcfg
      | 16 => x.wptr.setWidth 64
      | _ => x.rptr.setWidth 64)
  else if 0x2000 ≤ off ∧ off < 0x2800 then some (s.host.aspaces.getD ((off - 0x2000) / 8) 0)
  else if 0x1_0000 ≤ off ∧ off < 0x3_0000 then
    let n := match s.faults.get? (fkey (off / 0x1_0000 - 1) (off % 0x1_0000 / 16)) with | some f => f.word | none => 0
    some (BitVec.ofNat 64 (fld n (8 * (off % 16)) 64))
  else none

/-- A read of 8 bytes, or of 4, at a BAR0 offset. A misaligned one, or one outside every register, reads zero. -/
def State.barRead (s : State) (off : Nat) (eight : Bool) : Option Word :=
  if off % (if eight then 8 else 4) != 0 then some 0
  else if eight then s.regWord off
  else (s.regWord (off / 8 * 8)).map fun w => BitVec.ofNat 64 (fld w.toNat (8 * (off % 8)) 32)

/-! ## Events -/

def qreg (q n : Nat) : Nat := 0x1000 + 64 * q + n

/-- A write to a register of a queue that exists. -/
def State.queueWrite (s : State) (name : String) (q n : Nat) (v : Word) (ok : Bool) : Result :=
  if 64 ≤ q || !ok then notNow name else .next (s.barWrite (qreg q n) true v)

def execQwptrWrite (q v : Nat) (s : State) : Result := s.queueWrite "QWPTR_WRITE" q 16 (BitVec.ofNat 64 (v % 2 ^ 32)) true
/-- QCFG writes that set ENABLE, that clear it, and that write 1 to bits of ERR. -/
def execQcfgEnable (q : Nat) (v : Word) (s : State) : Result := s.queueWrite "QCFG_ENABLE" q 8 v (v.getLsbD 0)
def execQcfgDisable (q : Nat) (v : Word) (s : State) : Result := s.queueWrite "QCFG_DISABLE" q 8 v (!v.getLsbD 0)
def execQcfgErrClear (q : Nat) (v : Word) (s : State) : Result :=
  s.queueWrite "QCFG_ERR_CLEAR" q 8 v (fld v.toNat 40 8 != 0)

/-- REGISTER_WRITE: any write of BAR0. -/
def execRegisterWrite (off : Nat) (eight : Bool) (v : Word) (s : State) : Result :=
  if 2 ^ 18 ≤ off then notNow "REGISTER_WRITE" else .next (s.barWrite off eight v)

/-- RESOLVE as one 8-byte write of a die's fault port. -/
def State.resolveWrite (s : State) (name : String) (die entry vpn : Nat) (fail : Bool) : Result :=
  if 2 ≤ die then notNow name
  else .next (s.barWrite (0x3000 + 8 * die) true
    (BitVec.ofNat 64 (entry % 4096 + (if fail then 4096 else 0) + vpn % 2 ^ 41 * 2 ^ 23)))

def execResolveRetry (die entry vpn : Nat) (s : State) : Result := s.resolveWrite "RESOLVE_RETRY" die entry vpn false
def execResolveFail (die entry vpn : Nat) (s : State) : Result := s.resolveWrite "RESOLVE_FAIL" die entry vpn true

def execIntstatClear (v : Word) (s : State) : Result := .next (s.barWrite 8 true v)
def execGstatClear (v : Word) (s : State) : Result := .next (s.barWrite 0 true v)

/-- BAR0_UNDOCUMENTED_ACCESS: a read or write that lies outside every register, or that is treated so: of another size than 4 or 8
bytes, or misaligned (R402). -/
def execBar0UndocumentedAccess (x : BarAccess) (s : State) : Result :=
  if 2 ^ 18 ≤ x.off || ((x.size == 4 || x.size == 8) && x.off % x.size == 0 && (s.reserved (x.off / 8 * 8)).isSome) then
    notNow "BAR0_UNDOCUMENTED_ACCESS"
  else .next (s.noteErr x.off false)

end Sys2Proof.Machine
end

