-- ==== Sys2Proof/Machine/Porast.lean ====
section
/-! DEFINITION. Porast: scruples and targeted tests, power, keys, the debugger's commands, migration, the event log, firmware,
and power-on (17 R379, R390, 18 R399, R400, 19 R407 to R410). A mailbox command is two steps: the doorbell, and the event
that performs it. Log entries 29 to 32 name what the spec leaves open of them. -/

namespace Sys2Proof.Machine

/-! ## Scruples (17 R390) -/

def State.scruples (s : State) : HwUnit → Nat
  | .core n => s.porast.coreScr.getD n 0
  | .slice n => s.porast.sliceScr.getD n 0
  | .stack n => s.porast.stackScr.getD n 0

def State.setPorast (s : State) (f : Porast → Porast) : State := { s with porast := f s.porast }

/-- Whether a unit is out of service: drained, uncached or being swept. -/
def State.outOfService (s : State) : HwUnit → Bool
  | .core n => (s.core n).drained
  | .slice n => s.porast.uncached.contains n
  | .stack n => s.porast.swept.contains n

/-- A slice writes back its dirty lines and keeps none. -/
def State.flushSlice (s : State) (n : Nat) : State :=
  (s.l2.keysWhere fun ln _ => sliceOf ln == n).foldl (fun s ln => (s.recallLine ln).evictL2 ln) s

/-- Takes a unit out of service, or returns it. -/
def State.drain (s : State) (u : HwUnit) (out : Bool) : State :=
  match u with
  | .core n => s.setCore n fun c => { c with drained := out, drainedAt := if out then s.time else c.drainedAt }
  | .slice n =>
    let s := if out then s.flushSlice n else s
    s.setPorast fun p => { p with uncached := markSet p.uncached n out }
  | .stack n => s.setPorast fun p => { p with swept := markSet p.swept n out }

/-- SCRUPLE_THRESHOLD: a unit at 256 scruples is drained and tested. -/
def execScrupleThreshold (u : HwUnit) (s : State) : Result :=
  if s.scruples u < 256 || s.outOfService u then notNow "SCRUPLE_THRESHOLD"
  else .next ((s.drain u true).logEvent (.scruple u))

/-- SCRUPLE_HALVING, once per powered hour. -/
def execScrupleHalving (s : State) : Result :=
  if s.count125 < s.porast.halvedAt + 3600 * 1250000000 then notNow "SCRUPLE_HALVING"
  else
    let half (t : Tab Nat) : Tab Nat := t.mapVals fun _ n => n / 2
    .next (s.setPorast fun p => { p with
      halvedAt := s.count125, coreScr := half p.coreScr, sliceScr := half p.sliceScr, stackScr := half p.stackScr })

/-- TARGETED_TEST_DONE: the unit returns to service with no scruples, or stays as it is. -/
def execTargetedTestDone (u : HwUnit) (pass : Bool) (s : State) : Result :=
  if !s.outOfService u || s.porast.failed.contains u then notNow "TARGETED_TEST_DONE"
  else if pass then
    let s := (s.drain u false).setPorast fun p => match u with
      | .core n => { p with coreScr := p.coreScr.erase n }
      | .slice n => { p with sliceScr := p.sliceScr.erase n }
      | .stack n => { p with stackScr := p.stackScr.erase n }
    .next (s.logEvent (.testPass u))
  else .next ((s.setPorast fun p => { p with failed := p.failed ++ [u] }).logEvent (.testFail u))

/-! ## Power (R407) -/

/-- POWER_EXCURSION and POWER_RECOVERY: the core clock runs at half its rate between them. -/
def execPowerExcursion (s : State) : Result :=
  if s.halfClock then notNow "POWER_EXCURSION" else .next ({ s with halfClock := true }.logEvent .power)
def execPowerRecovery (s : State) : Result :=
  if s.halfClock then .next { s with halfClock := false } else notNow "POWER_RECOVERY"

/-! ## Commands -/

/-- Whether Porast runs a command with an opcode. -/
def State.runs (s : State) (op : Nat) : Bool := s.porast.busy && (s.porast.run.headD 0).toNat == op

/-- Performs a command that answers at once. -/
def State.command (s : State) (name : String) (op : Nat) (f : State → State) : Result :=
  if s.runs op then .next (f s) else notNow name

def State.cmdByte (s : State) (i : Nat) : Nat := (s.porast.run.getD i 0).toNat

/-! ### Keys (R407, 04 R83, R84) -/

def State.setKey (s : State) (slot : Nat) (k : KeySlot) : State := { s with keys := s.keys.set slot k }

/-- KEY_LOAD: half 1 after half 0 loads the slot. The status of a half 1 without half 0 is open (log entry 2). -/
def execKeyLoad (slot half : Nat) (key : KeyHalf) (s : State) : Result :=
  if s.cmdByte 8 != slot || s.cmdByte 9 != half || BitVec.ofNat 256 (leNat ((s.porast.run.drop 16).take 32)) != key then
    notNow "KEY_LOAD"
  else s.command "KEY_LOAD" 1 fun s =>
    let k := s.keys.getD slot .empty
    if slot = 0 ∨ 127 < slot ∨ 1 < half then s.respond 3 []
    else if half = 0 then (s.setKey slot { k with pend := some key }).respond 0 []
    else match k.pend with
      | some lo => (s.setKey slot (k.load lo key)).respond 0 []
      | none => let (c, s) := s.pick 2; s.respond (if c = 0 then 2 else 3) []

/-- KEY_CLEAR. -/
def execKeyClear (slot : Nat) (s : State) : Result :=
  if s.cmdByte 8 != slot then notNow "KEY_CLEAR"
  else s.command "KEY_CLEAR" 2 fun s =>
    if slot = 0 then s.respond 2 []
    else if 127 < slot then s.respond 3 []
    else (s.setKey slot (s.keys.getD slot .empty).clear).respond 0 []

/-! ### The debugger (17 R379) -/

/-- The slot of the launch with an identifier. -/
def State.slotOfLid (s : State) (lid : Nat) : Option Nat := (s.launches.find? fun l => l.2.lid == lid).map (·.1)

/-- The gangs that a command names: one regular gang by its index, or all with 0xFFFF_FFFF. -/
def State.named (s : State) (lid gang : Nat) : List (Nat × Gang) :=
  match s.slotOfLid lid with
  | some slot => s.gangs.filter fun e => e.2.slot == slot && (gang == 0xFFFF_FFFF || (e.2.node.isNone && e.2.index == gang))
  | none => []

/-- The crews of a gang that a command names: one, or all with 0xFF. -/
def State.namedCrews (s : State) (gk crew : Nat) : List Nat :=
  (s.crews.keysWhere fun k c => k / 32 == gk && !c.departed && (crew == 0xFF || k % 32 == crew)).map (· % 32)

/-- Whether a crew's accesses have bound, its accepted copies have landed (07 R163) and no spill of it is with the driver. -/
def State.crewStill (s : State) (ck : Nat) : Bool :=
  !(s.copies.any fun c => ckey c.2.gang c.2.crew == ck && c.2.phase.held && !c.2.orphan) && (s.crewThreads ck).all fun t => match s.threads.get? t with
    | some x => x.accs.isEmpty && !s.frameBusy t
    | none => true

/-- Marks a crew halted: its blocked instructions are withdrawn, its entries sent. -/
def State.haltCrew (s : State) (gk j : Nat) : State :=
  let s := (s.crewThreads (ckey gk j)).foldl (fun s t => match s.threads.get? t with
    | some x => (if x.live && !x.inAccess then s.withdrawT t else s).sendThread t
    | none => s) s
  s.modC (ckey gk j) fun c => { c with halted := true }

/-- Saves the threads of one halted crew of a running gang to their backing stacks, and the gang's regions to their images. -/
def State.saveCrew (s : State) (gk j : Nat) (g : Gang) : State :=
  if g.phase != .resident then s
  else match State.saveThreads g true true (s.liveThreads (ckey gk j)) s with
    | .error e => s.saveFault e
    | .ok s1 => (s1.saveRecords gk g).regionsOut g g.acreNos

/-- What is left to do of a HALT: nothing, to wait, or a step. -/
inductive HaltStep where
  | done | waits
  | step (s : State)

/-- A gang that is saved, or about to resume, is held: what of it stands in the pool goes to its images, its resumption is withdrawn, and
it keeps its place as a resumption. -/
def State.holdSaved (s : State) (gk : Nat) (g : Gang) : State :=
  match s.writeOutAcres gk g.inPool with
  | .error e => s.saveFault e
  | .ok s1 =>
    let s2 := (s1.withdraw g.core fun r => match r with | .resume x => x == gk | _ => false).modG gk fun y => { y with
      phase := .preempted, held := true, resume := y.resume.orElse fun _ => some s1.nextId }
    { s2 with nextId := s2.nextId + 1 }.listGang g.core gk

/-- One step of a HALT of whole gangs: all that run stop together, then each is saved; what does not run is held where it stands. A gang
that another stop holds is halted after that. -/
def State.haltStep (s : State) (ns : List (Nat × Gang)) : List (Nat × Gang) → HaltStep
  | [] => .done
  | (gk, g) :: r =>
    match g.phase with
    | .resident | .prologue => .step (ns.foldl (fun s e =>
        if e.2.phase == .resident || e.2.phase == .prologue then s.stopGang e.1 .halt else s) s)
    | .stopping .halt => if s.stopped gk then .step (s.finishStop gk g .halt) else .waits
    | .stopping _ => .waits
    | .halted | .ended => s.haltStep ns r
    | .listed | .admitting | .reserved | .ready false =>
      if g.held then s.haltStep ns r else .step ((s.giveUp gk).modG gk fun y => { y with held := true })
    | .out => if g.held then s.haltStep ns r else .step (s.modG gk fun y => { y with held := true })
    | .preempted | .resuming | .ready true => if g.held then s.haltStep ns r else .step (s.holdSaved gk g)

/-- One step of a HALT of one crew: its halt. A crew of a gang that does not run is marked, and stays halted when the gang resumes. -/
def State.haltCrewStep (s : State) (crew : Nat) : List (Nat × Gang) → HaltStep
  | [] => .done
  | (gk, g) :: r =>
    let mark (s : State) (j : Nat) : State := s.modC (ckey gk j) fun c => { c with halted := true }
    match (s.namedCrews gk crew).find? fun j => match s.crews.get? (ckey gk j) with | some c => !c.halted | none => false with
    | none => s.haltCrewStep crew r
    | some j => match g.phase with
      | .resident => .step (s.haltCrew gk j)
      | .stopping _ | .prologue | .reserved | .ready false => .waits
      | .preempted | .resuming | .ready true => .step (match s.writeOutAcres gk g.inPool with
          | .error e => s.saveFault e
          | .ok s1 => mark s1 j)
      | _ => .step (mark s j)

/-- A launch that is named as a whole: its gangs to come are held, or no longer. -/
def State.holdLaunch (s : State) (lid gang crew : Nat) (h : Bool) : State :=
  match s.slotOfLid lid with
  | some slot => if gang = 0xFFFF_FFFF ∧ crew = 0xFF then s.modL slot fun l => { l with held := h } else s
  | none => s

/-- HALT: its steps, then the answer. It waits while a stop waits. -/
def execHalt (lid gang crew : Nat) (s : State) : Result :=
  let ns := s.named lid gang
  if !s.runs 3 then notNow "HALT"
  else if ns.isEmpty then .next (s.respond 3 [])
  else match if crew = 0xFF then s.haltStep ns ns else s.haltCrewStep crew ns with
    | .step s' => .next s'
    | .waits => notNow "HALT"
    | .done =>
      let js := if crew = 0xFF then [] else ns.flatMap fun e => (s.namedCrews e.1 crew).map fun j => (e.1, j, e.2)
      if js.all fun c => s.crewStill (ckey c.1 c.2.1) then
        let s := js.foldl (fun s c => s.saveCrew c.1 c.2.1 c.2.2) s
        .next ((s.holdLaunch lid gang crew true).respond 0 [])
      else notNow "HALT"

/-- A halted crew goes on; one of a running gang from its images, and the gang's pad and tile store with it (log entry 30). -/
def State.resumeCrew (s : State) (gk j : Nat) (g : Gang) : State :=
  match s.crews.get? (ckey gk j) with
  | some c =>
    if c.halted then
      let s := s.modC (ckey gk j) fun c => { c with halted := false, passed := 0 }
      if g.phase == .resident then
        (s.liveThreads (ckey gk j)).foldl (fun s t => s.restoreThread g t) ((s.regionsIn g g.acreNos).reviseCrew gk g j)
      else s
    else s
  | none => s

/-- A halted gang goes on from its images with its span; a held one may start or resume again. Of a halted gang of which one crew is
named, the others stay halted. -/
def State.resumeNamed (s : State) (crew gk : Nat) (g : Gang) : State :=
  let js := s.namedCrews gk crew
  if g.phase == .halted then
    let s := (s.regionsIn g g.acreNos).modG gk fun y => { y with phase := .ready true }
    let s := { s with crews := s.crews.mapVals fun k c => if k / 32 = gk then { c with halted := !js.contains (k % 32) } else c }
    s.resumeReady gk
  else if g.held then
    let s := (s.regionsIn g g.inPool).modG gk fun y => { y with held := false }
    { s with crews := s.crews.mapVals fun k c => if k / 32 = gk then { c with halted := !js.contains (k % 32) } else c }
  else js.foldl (fun s j => s.resumeCrew gk j g) s

/-- RESUME: halted gangs and crews come back from their images. -/
def execResume (lid gang crew : Nat) (s : State) : Result :=
  s.command "RESUME" 4 fun s =>
    let ns := s.named lid gang
    if ns.isEmpty then s.respond 3 []
    else ((ns.foldl (fun s e => s.resumeNamed crew e.1 e.2) s).holdLaunch lid gang crew false).respond 0 []

/-- A crew of a gang that does not run departs: its gang record and its barriers in the images follow (16 R353). -/
def State.killSaved (s : State) (gk : Nat) (g : Gang) : State :=
  if g.phase.runs then s
  else match s.gangs.get? gk with
    | some y => (s.ctxWrite y 0 y.record).saveBars gk y
    | none => s

/-- KILL: a whole gang ends, or each named crew departs. -/
def execKill (lid gang crew : Nat) (s : State) : Result :=
  s.command "KILL" 5 fun s =>
    let ns := s.named lid gang
    if ns.isEmpty then s.respond 3 []
    else (ns.foldl (fun s e =>
      if crew = 0xFF then s.killWhole e.1
      else ((s.namedCrews e.1 crew).foldl (fun s j => s.killCrew e.1 j) s).killSaved e.1 e.2) s).respond 0 []

/-- BREAKPOINT with xval 1 arrives at a thread through slot 1; at one that stands saved, in its trap record (17 R369, R381). -/
def State.breakThread (s : State) (g : Gang) (t : Nat) : State :=
  let halted := match s.crews.get? (ckOf t) with | some c => c.halted | none => false
  if halted || !g.phase.runs then s.arriveSaved g t 1 cBREAKPOINT 1 else s.asyncCause t 1 cBREAKPOINT 1

/-- BREAK: BREAKPOINT arrives at every live thread of the named crews. -/
def execBreakReq (lid gang crew : Nat) (s : State) : Result :=
  s.command "BREAK" 6 fun s =>
    let ns := s.named lid gang
    if ns.isEmpty then s.respond 3 []
    else (ns.foldl (fun s e => (s.namedCrews e.1 crew).foldl (fun s j =>
      (s.liveThreads (ckey e.1 j)).foldl (fun s t => s.breakThread e.2 t) s) s) s).respond 0 []

/-! ### Migration (18 R399, R400) -/

/-- A 32-bit number at a byte address of a gang's address space, which may lie across two words. -/
def State.eng32 (s : State) (g : Gang) (va : Nat) : Option Nat × State :=
  match s.engWord g (va / 8 * 8) with
  | (none, s) => (none, s)
  | (some w, s) =>
    if va % 8 ≤ 4 then (some (fld w.toNat (8 * (va % 8)) 32), s)
    else match s.engWord g (va / 8 * 8 + 8) with
      | (none, s) => (none, s)
      | (some u, s) => (some (fld (w.toNat + u.toNat * 2 ^ 64) (8 * (va % 8)) 32), s)

/-- `n` such numbers from an address up. -/
def State.eng32s (s : State) (g : Gang) (va : Nat) : Nat → Option (List Nat) × State
  | 0 => (some [], s)
  | n + 1 => match s.eng32s g va n with
    | (none, s) => (none, s)
    | (some l, s) => match s.eng32 g (va + 4 * n) with
      | (some x, s) => (some (l ++ [x]), s)
      | (none, s) => (none, s)

/-- The safe points of a kernel, as PCs (18 R392); none where there is no list or it cannot be read. -/
def State.safePoints (s : State) (g : Gang) : Option (List Nat) × State :=
  match g.kernel.safeVa with
  | none => (none, s)
  | some va => match s.eng32 g va with
    | (none, s) => (none, s)
    | (some n, s) => match s.eng32s g (va + 4) (Nat.min n (g.kernel.codeLen / 2)) with
      | (some l, s) => (some (l.map (g.kernel.codeBase + ·)), s)
      | (none, s) => (none, s)

/-- The live threads of a span's gangs. -/
def State.spanThreads (s : State) (gk : Nat) : List Nat :=
  match s.gangs.get? gk with
  | none => []
  | some g => (s.spanMembers g).flatMap fun m => (s.gangThreads m).filter fun t => match s.threads.get? t with
      | some x => x.live
      | none => false

/-- An armed thread at depth 0 that stands at a safe point stops there. -/
def State.stopAt (points : List Nat) (s : State) (t : Nat) : State :=
  match s.threads.get? t with
  | some x =>
    if x.armed && !x.restoring && !x.xdepth && x.wait != .safePoint && !x.inAccess && points.contains x.pc.toNat then
      (s.withdrawT t).modT t fun y => { y with wait := .safePoint }
    else s
  | none => s

/-- Whether every live thread of a migrating span has stopped: its gangs run, and their threads stand at safe points. -/
def State.allStopped (s : State) (gk : Nat) (g : Gang) : Bool :=
  ((s.spanMembers g).all fun m => (s.gangs.get? m).all fun y => y.phase == .resident || y.phase == .prologue) &&
  (s.spanThreads gk).all fun t => match s.threads.get? t with | some x => x.wait == .safePoint | none => true

/-- Armed threads that stand at a safe point stop there; when every thread has, within the time, the span halts (18 R399). -/
def State.stopArmed (s : State) : State :=
  match s.porast.migrating with
  | none => s
  | some m =>
    match s.gangs.get? m.gang with
    | none => s
    | some g =>
      if m.halting then s
      else
        let s := (s.spanThreads m.gang).foldl (State.stopAt m.points) s
        if s.allStopped m.gang g && decide (s.time ≤ m.deadline) then
          ((s.spanMembers g).foldl (fun s k => s.stopGang k .halt) s).setPorast fun p => { p with
            migrating := some { m with halting := true } }
        else s

/-- MIGRATE: arms the live threads of the gang's span, or answers NOT_SAFE: without a safe-point list, or where no crew of the gang has
started. -/
def execMigrate (lid gang : Nat) (s : State) : Result :=
  if s.porast.migrating.isSome then notNow "MIGRATE"
  else s.command "MIGRATE" 7 fun s =>
    match s.named lid gang with
    | [] => s.respond 3 []
    | (gk, g) :: _ =>
      match if g.phase.canEnd then s.safePoints g else (none, s) with
      | (none, s) => s.respond 2 []
      | (some points, s) =>
        let s := s.onThreads (s.spanThreads gk) fun x => { x with armed := true }
        (s.setPorast fun p => { p with migrating := some ⟨gk, s.time + 9400000, points, false⟩ }).stopArmed

/-- Whether a migration's gang is the one named. -/
def State.migratingGang (s : State) (lid gang : Nat) : Option (Migration × Gang) :=
  match s.porast.migrating with
  | some m => match s.gangs.get? m.gang with
    | some g => if g.lid == lid && g.index == gang then some (m, g) else none
    | none => none
  | none => none

/-- MIGRATE_READY: every thread has stopped in time; each gang of the span is saved, and then READY is reported. -/
def execMigrateReady (lid gang : Nat) (s : State) : Result :=
  match s.migratingGang lid gang with
  | none => notNow "MIGRATE_READY"
  | some (m, g) =>
    let ms := s.spanMembers g
    let phase (k : Nat) : Phase := match s.gangs.get? k with | some y => y.phase | none => .halted
    if !m.halting then notNow "MIGRATE_READY"
    else match ms.find? fun k => phase k == .stopping .halt && s.stopped k with
      | some k => match s.gangs.get? k with
        | some y => .next (s.finishStop k y .halt)
        | none => notNow "MIGRATE_READY"
      | none =>
        if ms.all fun k => phase k == .halted then
          let s := s.onThreads (s.spanThreads m.gang) fun x => { x with armed := false }
          .next ((s.setPorast fun p => { p with migrating := none }).respond 0 [])
        else notNow "MIGRATE_READY"

/-- A thread released from a safe point, or disarmed; its ageing count is 0, as after a resumption. -/
def Thread.disarm (x : Thread) : Thread :=
  let wait := if x.wait = .safePoint then (if x.pc = x.mt then .meet else .none) else x.wait
  { x with armed := false, wait, age := 0 }

/-- The ageing counts of some gangs' crews become 0, and their residency begins anew: as after a halt and a resumption (18 R399, 17
R376, R377). -/
def State.asResumed (s : State) (ms : List Nat) : State :=
  { s with
    crews := s.crews.mapVals fun k c => if ms.contains (k / 32) then { c with passed := 0 } else c
    gangs := s.gangs.mapVals fun k g => if ms.contains k then { g with residentSince := s.time } else g }

/-- MIGRATE_TIMEOUT: 10 ms without every thread stopped, or the gang is gone: NOT_SAFE. -/
def execMigrateTimeout (lid gang : Nat) (s : State) : Result :=
  match s.porast.migrating with
  | none => notNow "MIGRATE_TIMEOUT"
  | some m =>
    match s.gangs.get? m.gang with
    | none => .next ((s.setPorast fun p => { p with migrating := none }).respond 2 [])
    | some g =>
      if g.lid != lid || g.index != gang || decide (s.time ≤ m.deadline) || m.halting then notNow "MIGRATE_TIMEOUT"
      else
        let s := (s.onThreads (s.spanThreads m.gang) Thread.disarm).asResumed (s.spanMembers g)
        .next ((s.setPorast fun p => { p with migrating := none }).respond 2 [])

/-- Which of a crew's threads are live: bit `l` for lane `l` of a free word, both of a pair in a protected launch; `some'`: at
least one. -/
def liveMask32 (paired some' : Bool) (w : Word) : Nat :=
  let m := w.toNat % 2 ^ 32
  let m := if m = 0 ∧ some' then 1 else m
  if paired then ((List.range 16).map fun i => if m / 4 ^ i % 4 = 0 then 0 else 3 * 4 ^ i).foldl (· + ·) 0 else m

/-- A crew of a migrated gang whose image is not what the device wrote: the layout is not stated, so that quota, tickets, k registers and
which threads are live are free values; the registers lie in the backing stacks. -/
def State.freeCrew (s : State) (gk j : Nat) (g : Gang) (lt : Nat) (some' : Bool) : State :=
  let w (i : Nat) : Word := Config.freeWord (s.free + i)
  let live := liveMask32 g.kernel.protected_ some' (w 38)
  let quota := if live = 0 then 0 else 8 + (w 36).toNat % 249
  let c : Crew :=
    { k := Vector.ofFn fun i => w i.val, ktok := [], copyTs := 0, quota, perchMap := []
      tp := Vector.ofFn fun i => BitVec.ofNat 16 ((w (32 + i.val / 4)).toNat / 2 ^ (16 * (i.val % 4)))
      ts := Vector.ofFn fun i => BitVec.ofNat 16 ((w 37).toNat / 2 ^ (16 * i.val)), slot := 0, passed := 0, pins := []
      departed := decide (live = 0), halted := false }
  { s with
    free := s.free + 64, crews := s.crews.set (ckey gk j) c
    threads := (List.range 32).foldl (fun (m : Tab Thread) l =>
      m.set (tkey gk j l) { Thread.init g.kernel.codeBase lt with live := bitAt live l }) s.threads }

/-- A crew of a migrated gang with its threads, from its image; every time is `ts`. -/
def State.imagedCrew (s : State) (gk j : Nat) (g : Gang) (ts : Nat) (some' : Bool) : State :=
  let s := s.ctxBring g (0x4000 + 256 * j) 32
  match s.imageAt g (0x4000 + 256 * j) 32 with
  | some (.crew c live) => { s with
      crews := s.crews.set (ckey gk j) { c with ktok := c.ktok.mapVals fun _ _ => ts, copyTs := ts, slot := 0, passed := 0, halted := false }
      threads := (List.range 32).foldl (fun (m : Tab Thread) l =>
        m.set (tkey gk j l) { Thread.init g.kernel.codeBase ts with live := live.contains l }) s.threads }
  | _ => s.freeCrew gk j g ts some'

/-- Gives the crews of a gang and its pot their perch numbers, one after another, and the acres that hold them. -/
def State.renumber (s : State) (gk n pot : Nat) : State :=
  let r := (List.range n).foldl (fun (acc : Nat × State) j =>
    let f := match acc.2.crews.get? (ckey gk j) with | some c => c.quota | none => 0
    (acc.1 + f, acc.2.modC (ckey gk j) fun c => { c with perchMap := (List.range f).map (acc.1 + ·) })) (0, s)
  let held := r.1 + pot
  let acres := (held + 15) / 16
  r.2.modG gk fun g => { g with
    pot := (List.range pot).map (r.1 + ·), slack := (List.range (16 * acres - held)).map (held + ·), frameAcres := acres
    gone := List.range (acres + g.padAcres + g.tileAcres) }

/-- An unaccepted copy of a migrated gang: it owns its handle, and its token is outstanding. One that names a handle that the gang has not
bound, or that another copy owns, is none that the gang could have issued. -/
def State.addCopy (s : State) (gk : Nat) (c : Copy) : State :=
  match s.gangs.get? gk with
  | none => s
  | some g =>
    let owns := match c.op with
      | .cpPad | .cpPadOut => false
      | .cpMc => c.aux.getLsbD (g.core % 8)
      | _ => true
    let free := match g.handles.get? c.handle with | some h => h.owner.isNone | none => c.op == .cpMc
    if owns && !free then s
    else
      let id := s.nextId
      let s := { s with nextId := id + 1, copies := s.copies.set id c }
      let s := if owns then s.modG gk fun g => { g with handles := g.handles.modify c.handle fun h => { h with owner := some id } } else s
      if h : c.tok < 32 then s.setK (ckey gk c.crew) ⟨c.tok, h⟩ 0xFF else s

/-- One unaccepted copy of a migrated gang whose descriptor is not what the device wrote: the layout is not stated, so that its fields
are free; its time is `ts`. -/
def State.freeCopy (s : State) (gk ts : Nat) : State :=
  let w (i : Nat) : Word := Config.freeWord (s.free + i)
  match s.gangs.get? gk with
  | none => s
  | some g =>
    let op := [CopyOp.cpIn, .cpOut, .cpOutAdd, .cpMc, .cpPad, .cpPadOut, .cpFill, .mdrain, .mdrainAdd].getD ((w 0).toNat % 9) .cpIn
    { s with free := s.free + 8 }.addCopy gk
      { gang := gk, crew := (w 1).toNat % g.kernel.crews, core := g.core, op, tok := (w 2).toNat % 32, handle := (w 3).toNat % 16
        recVa := w 4, origin := w 5, aux := w 6, tsi := ts, tsc := ts, phase := .queued, xfer := .init, orphan := false
        prologue := false, env := none }

/-- The unaccepted copies of a migrated gang from number `i` on, ahead of any that it will issue (07 R163, 18 R401): those of its images,
up to their end; where an image is not what the device wrote, free ones, at most its slots. -/
def State.imagedCopies (s : State) (gk ts : Nat) (g : Gang) (i : Nat) : Nat → State
  | 0 => s
  | n + 1 =>
    let s := s.ctxBring g (0x1400 + 64 * i) 8
    match s.imageAt g (0x1400 + 64 * i) 8 with
    | some (.copy c) =>
      (s.addCopy gk { c with gang := gk, core := g.core, tsi := ts, tsc := ts, phase := .queued, xfer := .init }).imagedCopies gk ts g
        (i + 1) n
    | some .noCopy => s
    | _ =>
      let (k, s) := s.pick (n + 2)
      (List.range k).foldl (fun s _ => s.freeCopy gk ts) s

/-- The span on the target that a migrated gang of a kernel with spans joins: that of its mates that have come before it. -/
def State.migrateSpan (s : State) (slot gang : Nat) (k : Kernel) : Option (Nat × Span) :=
  if k.span ≤ 1 then none
  else s.spans.find? fun e => e.2.slot == slot && e.2.index == gang / k.span && e.2.members.all fun m =>
    match s.gangs.get? m with | some y => y.phase == .out | none => false

/-- The core that lists a migrated gang: with its mates, another of their cluster. -/
def State.migrateCore (s : State) (slot gang : Nat) (l : Launch) : Option Nat :=
  match s.migrateSpan slot gang l.kernel with
  | none =>
    let g := s.newGang slot l l.kernel gang none 0
    (s.refuge g).orElse fun _ => (s.hosts g).head?
  | some (_, p) =>
    let at' := p.members.filterMap fun m => (s.gangs.get? m).map (·.core)
    minBy (fun c => (s.core c).glist.length * 256 + c)
      (((List.range 8).map (8 * clusterOf (at'.headD 0) + ·)).filter fun c => !at'.contains c)

/-- A migrated gang stands in its span: a new one, or that of its mates. -/
def State.joinSpan (s : State) (slot gk gang : Nat) (k : Kernel) (joined : Option (Nat × Span)) : State :=
  let s := match joined with
    | some (i, p) => (s.modS i fun q => { q with members := p.members ++ [gk] }).modG gk fun g => { g with span := i }
    | none =>
      let i := s.nextId
      (s.newSpan slot (gang / k.span) [gk] k none).modS i fun p => { p with
        bars := Vector.replicate 4 ⟨0, k.span * k.crews, 0, 0⟩ }
  s.modG gk fun g => { g with spanPos := gang % k.span }

/-- A gang made of its images (18 R400): its record, its crews and its copies, every time in them `ts`. -/
def State.fromImages (s : State) (gk ts : Nat) : State :=
  match s.gangs.get? gk with
  | none => s
  | some g =>
    let k := g.kernel
    let s := s.ctxBring g 0 32
    let h := s.ctxRead g 0 32
    let hs := handlesOf h []
    let bytes := maxOf (hs.map fun e => e.2.off + 1024 * e.2.kib)
    let s := s.modG gk fun g => { g with handles := hs, tileAcres := Nat.max k.tileAcres ((bytes + 4095) / 4096) }
    let (one, s) := s.pick k.crews
    let s := (List.range k.crews).foldl (fun s j => s.imagedCrew gk j g ts (j == one)) s
    ((s.renumber gk k.crews (fld (h.getD 1 0).toNat 0 16)).retime g ts).imagedCopies gk ts g 0 k.slots

/-- MIGRATE_IN: `same`: whether the placed entries agree. The gang joins the target launch as a resumption that was written
out. Which gang set its images stand in is not stated: a free choice (log entry 31). -/
def execMigrateIn (lid gang : Nat) (same : Bool) (s : State) : Result :=
  s.command "MIGRATE_IN" 8 fun s =>
    match s.slotOfLid lid with
    | none => s.respond 3 []
    | some slot =>
      match s.launches.get? slot with
      | none => s.respond 3 []
      | some l =>
        let k := l.kernel
        let (set, s) := s.pick l.record.gsets
        if !same || (k.step != 0 && k.step != stepCode s.stepping) || l.sets.contains set then s.respond 2 []
        else
          let g0 := s.newGang slot l k gang none 0
          match s.migrateCore slot gang l, s.ctxPages l g0 set 64 with
          | some core, (.ok pages, s) =>
            let joined := s.migrateSpan slot gang k
            let (gk, s) := s.addGang { g0 with
              core, set, pages, phase := .out, resume := some s.nextId, padAcres := k.padAcres, prologueLeft := 0 }
            let s := (s.joinSpan slot gk gang k joined).fromImages gk l.tsL
            let s := s.modL slot fun l => { l with
              sets := l.sets ++ [set], nextIndex := Nat.max l.nextIndex (gang / k.span + 1)
              nextAdmit := Nat.max l.nextAdmit (gang + 1) }
            (s.listGang core gk).respond 0 []
          | _, (_, s) => s.respond 2 []

/-! ### Sensors, log, attestation (R407 to R409) -/

/-- SENSOR. -/
def execSensor (s : State) : Result :=
  s.command "SENSOR" 9 fun s => s.respond 0 ((List.range 63).map fun i => Config.sensorByte s.time i)

/-- The numbers that tell a unit, and an event of the log. -/
def unitNums : HwUnit → List Nat | .core n => [0, n] | .slice n => [1, n] | .stack n => [2, n]
def LogEvent.nums : LogEvent → List Nat
  | .scruple u => 0 :: unitNums u
  | .testPass u => 1 :: unitNums u
  | .testFail u => 2 :: unitNums u
  | .contained l => [3, l]
  | .chainRepair d g => [4, d, g]
  | .chainHalf => [5]
  | .rebase => [6]
  | .boot n a ok => [7, n, a, if ok then 1 else 0]
  | .firmware u => [8, u]
  | .enrolled => [9]
  | .refusedWrite l => [10, l]
  | .egressPoison l => [11, l]
  | .power => [12]

/-- The 32 bytes of an entry of the log; how they encode it is not stated (log entry 9). -/
def LogEntry.bytes (e : LogEntry) : List Byte := (List.range 32).map (Config.logByte e.time e.ev.nums)

/-- LOG_READ: entry `n` of the log. -/
def execLogRead (n : Nat) (s : State) : Result :=
  s.command "LOG_READ" 10 fun s => match s.porast.log[n]? with
    | some e => s.respond 0 e.bytes
    | none => s.respond 3 []

/-- ATTEST: a page of 48 bytes of the report (log entry 9). -/
def execAttest (nonce : KeyHalf) (page : Nat) (s : State) : Result :=
  s.command "ATTEST" 11 fun s =>
    let p := s.porast
    let images := p.fw.toList.flatMap fun f => [f.a.image, f.b.image]
    s.respond 0 ((List.range 48).map fun i =>
      Config.attestByte images (p.fw.toList.map (·.activeB)) s.stepping p.owners nonce (48 * page + i))

/-! ### Firmware and owner keys (R409) -/

/-- The inactive slot of a unit's firmware. -/
def Firmware.idle (f : Firmware) : FwSlot := if f.activeB then f.a else f.b
def Firmware.active (f : Firmware) : FwSlot := if f.activeB then f.b else f.a
def Firmware.setIdle (f : Firmware) (x : FwSlot) : Firmware :=
  if f.activeB then { f with a := x, failsA := 0 } else { f with b := x, failsB := 0 }

/-- A slot has booted, or failed to: the active one, or the `other` that stands in for it. -/
def Firmware.booted (f : Firmware) (other ok : Bool) : Firmware :=
  if f.activeB != other then { f with failsB := if ok then 0 else f.failsB + 1 }
  else { f with failsA := if ok then 0 else f.failsA + 1 }

/-- An active slot that has failed to boot three times gives way to the other. -/
def Firmware.giveWay (f : Firmware) : Firmware :=
  if f.activeB then (if 3 ≤ f.failsB then { f with activeB := false, failsB := 0 } else f)
  else if 3 ≤ f.failsA then { f with activeB := true, failsA := 0 } else f

def State.firmware (s : State) (u : Nat) : Firmware := s.porast.fw[(Fin.ofNat 3 u)]
def State.setFirmware (s : State) (u : Nat) (f : Firmware) : State :=
  s.setPorast fun p => { p with fw := p.fw.set (Fin.ofNat 3 u) f }

/-- FW_STAGE: a piece enters the inactive slot; at the last one the image is verified. -/
def execFwStage (p : FwPiece) (s : State) : Result :=
  s.command "FW_STAGE" 12 fun s =>
    if 3 ≤ p.unit ∨ 48 < p.bytes.length then s.respond 3 []
    else
      let f := s.firmware p.unit
      let old := f.idle.image
      let image := (old.take (48 * p.index) ++ List.replicate (48 * p.index - old.length) 0) ++ p.bytes ++
        (if p.last then [] else old.drop (48 * p.index + p.bytes.length))
      let ok := p.last && decide (f.active.version ≤ p.version) && Config.sigVerifies s.porast.owners image p.sig
      let s := s.setFirmware p.unit (f.setIdle ⟨p.version, image, ok⟩)
      if p.last && !ok then s.respond 4 [] else if ok then (s.logEvent (.firmware p.unit)).respond 0 [] else s.respond 0 []

/-- FW_ACTIVATE: a verified slot becomes active; a success leaves recovery. -/
def execFwActivate (u : Nat) (s : State) : Result :=
  s.command "FW_ACTIVATE" 13 fun s =>
    if 3 ≤ u then s.respond 3 []
    else if u ≠ 0 ∧ !s.launches.isEmpty then s.respond 1 []
    else
      let f := s.firmware u
      if !f.idle.verified then s.respond 2 []
      else
        let s := s.setFirmware u { f with activeB := !f.activeB }
        ({ s with host := { s.host with recovery := false } }.logEvent (.firmware u)).respond 0 []

/-- ENROLL: an owner key joins or leaves, by a signed request; at most four. -/
def execEnroll (r : EnrollReq) (s : State) : Result :=
  s.command "ENROLL" 14 fun s =>
    let o := s.porast.owners
    if !Config.sigVerifies o ((if r.add then 1 else 0) :: leBytes 32 r.key.toNat) r.sig then s.respond 4 []
    else if r.add then
      if 4 ≤ o.length then s.respond 2 []
      else ((s.setPorast fun p => { p with owners := o ++ [r.key] }).logEvent .enrolled).respond 0 []
    else if o.contains r.key then
      ((s.setPorast fun p => { p with owners := o.filter (· != r.key) }).logEvent .enrolled).respond 0 []
    else s.respond 2 []

/-- JOURNAL_CLEAR: the journal is cleared and recovery ends. -/
def execJournalClear (s : State) : Result :=
  s.command "JOURNAL_CLEAR" 15 fun s =>
    let s := s.setPorast fun p => { p with journal := [], bootFails := [] }
    { s with host := { s.host with recovery := false } }.respond 0 []

/-! ## Power-on (R410, 04 R83, R86) -/

/-- One attempt of a boot step: its outcome is open; the journal and the log record it. -/
def State.attempt (s : State) (step n : Nat) : Bool × State :=
  let (c, s) := s.pick 2
  let ok := c == 0
  let s := s.setPorast fun p => { p with journal := p.journal ++ [⟨step, n, ok⟩] }
  (ok, s.logEvent (.boot step n ok))

/-- What attempt `n` of step 1 or 2 shows of the slots that it verifies: the active ones, and after a failure the others by turns. Which
of the two firmwares of step 2 has failed is open. -/
def State.bootSlots (s : State) (step n : Nat) (ok : Bool) : State :=
  let slot (u : Nat) (ok : Bool) (s : State) : State := s.setFirmware u ((s.firmware u).booted (n % 2 == 0) ok)
  match step with
  | 1 => slot 0 ok s
  | 2 =>
    if ok then slot 1 true (slot 2 true s)
    else
      let (c, s) := s.pick 3
      slot 1 (c == 1) (slot 2 (c == 0) s)
  | _ => s

/-- What the alternative of a required step changes besides the firmware slot: a data lane of a stack remapped to a spare (R77: which
one is open), or the Chain at half rate. -/
def State.alternative (s : State) (step : Nat) : State :=
  match step with
  | 4 =>
    let (n, s) := s.pick 12
    let x := s.hbmStacks.getD n .init
    { s with free := s.free + 1, hbmStacks := s.hbmStacks.set n { x with
        remapped := addNew x.remapped ((Config.freeWord s.free).toNat % 2048) } }
  | 5 => { s with chainHalf := true }
  | _ => s

/-- A required step, redone by its alternative after a failure; the third consecutive failure leads to recovery. -/
def State.required (s : State) (step n : Nat) : Nat → State
  | 0 => s
  | fuel + 1 =>
    let (ok, s) := s.attempt step n
    let s := s.bootSlots step n ok
    if ok then s.setPorast fun p => { p with bootFails := p.bootFails.erase step }
    else
      let k := s.porast.bootFails.getD step 0 + 1
      let s := s.setPorast fun p => { p with bootFails := p.bootFails.set step k }
      if 3 ≤ k then { s with host := { s.host with recovery := true } }
      else (s.alternative step).required step (n + 1) fuel

/-- Step 7: skipped after a boot at which it failed. -/
def State.trainPorts (s : State) : State :=
  if s.porast.portsFailed then s.setPorast fun p => { p with portsFailed := false }
  else
    let (ok, s) := s.attempt 7 1
    { s with host := { s.host with ports := ok } }.setPorast fun p => { p with portsFailed := !ok }

/-- The boot steps in order; in recovery the rest is left. -/
def State.boot (s : State) : List Nat → State
  | [] => s
  | n :: r => if s.host.recovery then s else (if n = 7 then s.trainPorts else s.required n 1 4).boot r

/-- POWER_ON: everything takes its state at power-on but what flash keeps; Porast generates the device key (04 R83), and the boot steps
run. A device in recovery stays in it (log entry 32). -/
def execPowerOn (s : State) : Result :=
  let p := s.porast
  let keep : Porast := { Porast.init with
    log := p.log, journal := p.journal, fw := p.fw.map Firmware.giveWay, owners := p.owners, bootFails := p.bootFails
    portsFailed := p.portsFailed, boots := p.boots + 1 }
  let host := { State.reset.host with recovery := s.host.recovery, ports := false }
  .next ({ State.reset with
    stepping := s.stepping, turns := s.turns, free := s.free, nextId := s.nextId, keys := [(0, .device (p.boots + 1))], porast := keep
    host }.boot [1, 2, 3, 4, 5, 6, 7, 8])

end Sys2Proof.Machine
end

