-- ==== Sys2Proof/Machine/Peers.lean ====
section
/-! DEFINITION. UALink: what arrives from peers and foreign agents, and the answers to this device's own requests (05 R116, 02
R46, R48, R50, 19 R404, R405). Accesses from outside are made under key slot 0 (log entry 33). -/

namespace Sys2Proof.Machine

/-- Whether the ports are open to peers: trained, and the device not in recovery (R410). -/
def State.portsUp (s : State) : Bool := s.host.ports && !s.host.recovery

/-- UAL_ID_ASSIGN: the domain assigns the device its ID through the ports, once after a power-on. -/
def execUalIdAssign (id : Nat) (s : State) : Result :=
  if !s.portsUp || s.host.ualValid || 1024 ≤ id then notNow "UAL_ID_ASSIGN"
  else .next { s with host := { s.host with ualValid := true, ualId := id } }

/-! ## Ingress -/

end Sys2Proof.Machine

namespace Sys2Proof
open Sys2Proof.Machine

/-- The bytes of an arriving write within granule `k`. -/
def IngressWrite.within (w : IngressWrite) (k : Nat) : List (Nat × Byte) :=
  (w.bytes.filter fun b => b.1 / 8 == k).map fun b => (b.1 % 8, b.2)

/-- A granule's data with the bytes of a write. -/
def IngressWrite.over (w : IngressWrite) (k : Nat) (d : Word) : Word :=
  (w.within k).foldl (fun x b => setByte x b.1 b.2) d

/-- Whether the write enables every byte of granule `k`. -/
def IngressWrite.whole (w : IngressWrite) (k : Nat) : Bool := (List.range 8).all fun i => (w.within k).any (·.1 == i)

/-- Granule `k` as it is written: from a Vilza part whole granules keep their grain and mark; from a foreign agent they get
a fresh grain; a partly enabled one is merged after the old granule passes its check. -/
def IngressWrite.gran (w : IngressWrite) (k : Nat) (old : Gran) (a : Nat) : Except Byte Gran :=
  if w.whole k then
    let fresh := Gran.mk' (w.over k 0) a
    if w.vilza then
      .ok { fresh with grain := (match w.grains.find? (·.1 == k) with | some g => g.2 | none => fresh.grain)
                       poison := w.poison.contains k }
    else .ok fresh
  else match old.check a with
    | some c => .error c
    | none => .ok (Gran.mk' (w.over k old.data) a)

/-- The granules that a write changes, or the cause of the first that refuses it. -/
def IngressWrite.grans (w : IngressWrite) (line : List Gran) : Except Byte (List (Nat × Gran)) :=
  (List.range 8).foldl (fun acc k => match acc with
    | .error c => .error c
    | .ok l =>
      if (w.within k).isEmpty then .ok l
      else match w.gran k (line.getD k ⟨0, 0, true⟩) (64 * w.line + 8 * k) with
        | .ok g => .ok (l ++ [(k, g)])
        | .error c => .error c) (.ok [])

end Sys2Proof

namespace Sys2Proof.Machine

/-- The scruples of a refused write: its slice and its stack (R405). -/
def State.refuse (s : State) (line : Nat) : State :=
  (s.addScruples (.slice (sliceOf line)) 16).addScruples (.stack (stackOf line)) 16

/-- UALINK_INGRESS_WRITE. A write outside HBM is answered with an error. A write of a whole line needs no read of it (13 R298). Arriving
accesses wait for a rebase. -/
def execUalinkIngressWrite (w : IngressWrite) (s : State) : Result :=
  if !s.portsUp || s.rebaseDue || w.bytes.any fun b => decide (64 ≤ b.1) then notNow "UALINK_INGRESS_WRITE"
  else if !isHbm (64 * w.line) then .next s
  else
    let comp := (s.lineTag w.line).comp
    let s := if (List.range 8).all w.whole then s else (s.fillLine w.line).readyLine w.line 0 comp false
    match w.grans (s.line w.line).gr with
    | .ok l => .next (if l.isEmpty then s else (s.lineStore w.line 0 comp l 0).2)
    | .error _ =>
      let s := s.refuse w.line
      .next (if w.vilza then s else s.logEvent (.refusedWrite w.line))

/-- UALINK_INGRESS_READ. Towards a foreign agent the egress checks; what fails leaves marked, and Porast logs it (02 R50).
-/
def execUalinkIngressRead (line : Nat) (foreign : Bool) (s : State) : Result :=
  if !s.portsUp || s.rebaseDue then notNow "UALINK_INGRESS_READ"
  else if !isHbm (64 * line) then .next s
  else
    let (r, s) := s.lineLoad line 0 0
    let bad := (List.range 8).filterMap fun k => (r.line.getD k ⟨0, 0, true⟩).check (64 * line + 8 * k)
    .next (if foreign && !bad.isEmpty then
      (bad.foldl (fun s c => s.damage c none (64 * line)) s).logEvent (.egressPoison line) else s)

/-- UALINK_INGRESS_ATOMIC: an atomic of scope .sys. A misaligned one, or one outside HBM, is answered with an error. -/
def execUalinkIngressAtomic (pa : Nat) (w : Width) (o : AtomOp) (v c : Word) (s : State) : Result :=
  if !s.portsUp || s.rebaseDue then notNow "UALINK_INGRESS_ATOMIC"
  else if !isHbm pa || pa % (wbits w / 8) != 0 then .next s
  else
    let s := (s.fillLine (pa / 64)).recallLine (pa / 64)
    match s.atomLine pa pa 0 w (fun old => atomNew o w old v c) .sys 0 .none 0 with
    | .ok (_, _, s') => .next s'
    | .error (z, p) => .next (s.damage z none (p.getD pa))

/-- The elements of a reduce-on-arrival write, in ascending order as .sys atomics. -/
def State.reduce (s : State) (w : IngressReduce) : Nat → List U32 → State
  | _, [] => s
  | i, e :: r =>
    let pa := w.pa + 4 * i
    let f := addNew32 (if w.isF32 then .f32 else .s32) w.amode e.toNat
    match s.atomLine pa pa 0 .w32 f .sys 0 .none 0 with
    | .ok (_, _, s') => s'.reduce w (i + 1) r
    | .error _ => s.reduce w (i + 1) r

/-- REDUCE_ON_ARRIVAL: every payload granule and every old granule passes its check, or the whole write is refused and the line is left
as it is (05 R440). -/
def execReduceOnArrival (w : IngressReduce) (s : State) : Result :=
  if !s.portsUp || s.rebaseDue || 16 < w.elems.length || w.pa % 4 != 0 || w.pa % 64 + 4 * w.elems.length > 64 || 2 < w.amode then
    notNow "REDUCE_ON_ARRIVAL"
  else if !isHbm w.pa then .next s
  else
    let s := (s.fillLine (w.pa / 64)).recallLine (w.pa / 64)
    let old := coveredGrans ((List.range 8).map fun k => s.peekGran (w.pa / 64 * 8 + k) 0) w.pa (4 * w.elems.length)
    if w.payloadOk && (firstBad 0 old).isNone then .next (s.reduce w 0 w.elems)
    else .next (s.refuse (w.pa / 64))

/-! ## Answers (R404, R405) -/

/-- The granules of the line that a peer answers with; a foreign answer has no grains and takes fresh ones. The grain
address is the target's PA. -/
def peerLine (pa : Nat) (data grains : List Byte) (poison : List Nat) : List Gran :=
  (List.range 8).map fun k =>
    let d : Word := BitVec.ofNat 64 (leNat ((data.drop (8 * k)).take 8))
    let a := fld pa 0 41 / 64 * 64 + 8 * k
    { (Gran.mk' d a) with grain := grains.getD k (grainOf d a), poison := poison.contains k }

/-- The answer to a thread's request: it binds when it stands first among the thread's accesses. None: not yet. -/
def State.peerAnswer (s : State) (t pa : Nat) (r : UalReply) : Option State :=
  match s.threads.get? t with
  | none => some s
  | some x =>
    if s.frameBusy t then none
    else match x.accs, r with
      | .load va (.peer p) size key form slot k toK held rep :: _, .done data gr po =>
        if p != pa then none
        else
          let b := s.boundOf t x (.load va (.peer p) size key form slot k toK held rep)
          some (s.bindLoad t va size form slot k toK held (coveredGrans (peerLine pa data gr po) (fld pa 0 41) size) b)
      | .atom va (.peer p) w op sc key slot k o c srcs :: _, .done data gr po =>
        if p != pa then none
        else
          let b := s.boundOf t x (.atom va (.peer p) w op sc key slot k o c srcs)
          match firstBad 0 (coveredGrans (peerLine pa data gr po) (fld pa 0 41) (wbits w / 8)) with
          | some (_, z, a) => some ((s.popAcc t).stopAll ((s.pairOf t).map fun u => (u, .trap z (atomXval va z) (some a))))
          | none =>
            let old : Word := BitVec.ofNat 64 (leNat ((data.drop (pa % 64)).take (wbits w / 8)))
            let s2 := State.commitAll srcs (s.queuesOf (gangOf t)) (s.pairOf t) (s.popAcc t)
            match State.writeFor [atomResult op w old] slot k (s.pairOf t) s2 with
            | .error e => some (s.frameStop e.1 e.2)
            | .ok s3 =>
              let s4 := s3.onThreads (s.pairOf t) fun x => { x with lt := b }
              some ((s.pairOf t).foldl (fun s u => s.finishT u) s4)
      | .load va (.peer p) _ _ _ _ _ toK _ _ :: _, .error =>
        if p != pa then none
        else some (((s.popAcc t).popJoined t).stopAll ((s.takers t toK).map fun u => (u, .trap cPROTECTION va none)))
      | .atom va (.peer p) _ _ _ _ _ _ _ _ _ :: _, .error =>
        if p != pa then none
        else some ((s.popAcc t).stopAll ((s.pairOf t).map fun u => (u, .trap cPROTECTION va none)))
      | _, _ => none

/-- Whether a request of this device may bind: while a rebase is due, a load only before an issued store or atomic of its thread (05
R111). -/
def State.peerBinds (s : State) : PeerReq → Bool
  | .load t _ => match s.threads.get? t with | some x => s.mayBind t x | none => true
  | _ => true

/-- UALINK_RESPONSE: the answer to request `m`. While the device has no ID every answer is an error. -/
def execUalinkResponse (m : Nat) (r : UalReply) (s : State) : Result :=
  if !s.host.ualValid && r != .error then notNow "UALINK_RESPONSE"
  else match s.peers.get? m with
    | none => notNow "UALINK_RESPONSE"
    | some p =>
      if !s.peerBinds p then notNow "UALINK_RESPONSE"
      else
        let s := { s with peers := s.peers.erase m }
        match p with
        | .load t pa | .atom t pa => match s.peerAnswer t pa r with
          | some s' => .next s'
          | none => notNow "UALINK_RESPONSE"
        | .store n => match s.msgs.get? n with
          | some x => .next (s.setMsg n (match r with | .error => .refused | .done _ _ _ => .performed (s.boundMsg x.e) []))
          | none => .next s

end Sys2Proof.Machine
end

