-- ==== Sys2Proof/Machine/Settle.lean ====
section
/-! DEFINITION. What follows every step of an agent at once: accesses that a pad or an L1 copy serves bind, waits that are over
end, threads meet, lane groups and crew-collective instructions fall due or fail, held causes are delivered, and the
operand caches keep to their rows (05 R107, R115, 09 R212, 10 R239, 14 R309 to R312, 17 R369, 18 R399). -/

namespace Sys2Proof.Machine

/-! ## Waits that are over -/

/-- Whether a thread is among the waiters of a walk. -/
def Walk.holds (w : Walk) (t : Nat) : Bool :=
  w.waiters.any (Waiter.ofThread t) || w.held.any fun u => Waiter.ofThread t u.1

/-- What of a thread's accesses a stalled register waits for: its own, its even thread's, and the crew's ldk. -/
def State.regAccs (s : State) (t : Nat) : Nat :=
  let l := s.accsOf t
  let ks := (List.range 32).countP fun k => s.kPending (ckOf t) k
  loadsOf l + atomsOf l + ks

/-- Whether what a thread waits for has come. `old`: the state before the step; a thread that stalls on a register tries
again whenever one of the accesses has bound. -/
def State.waitOver (old s : State) (t : Nat) (x : Thread) (g : Gang) : Bool :=
  match x.wait with
  | .drain => (s.accsOf t).isEmpty
  | .reps => x.reps.isEmpty
  | .ports => decide (loadsOf x.accs < 32 ∧ storesOf x.accs < 32)
  | .regs => !x.inAccess && !(s.isShadow t && (match s.threads.get? (t - 1) with | some y => y.inAccess | none => false)) &&
      (s.regAccs t == 0 || decide (s.regAccs t < old.regAccs t))
  | .walk w => match s.walks.get? w with | some k => !k.holds t | none => true
  | .fault d e => match s.faults.get? (fkey d e) with
    | some f => !f.waiters.any fun u => Waiter.ofThread t u.1
    | none => true
  | .tile hs => hs.all fun h => match g.handles.get? h with | some y => y.owner.isNone | none => true
  | .fold => !s.tileOps.any fun o => o.2.gang == gangOf t
  | .classes m n => s.classesDone t m n
  | .copyQueue => decide (s.slotsUsed (gangOf t) < g.kernel.slots)
  | .turn _ => (s.accsOf t).isEmpty
  | .bin n => s.pushTurn t (8 + n) && match s.launches.get? g.slot with
    | some l => match l.nodes[n]? with
      | some d => decide (d.count < d.binCap) && !s.recordUnderWay g.slot n
      | none => true
    | none => true
  | .pop q => (match g.pops.find? (·.1 == q) with | some e => e.2 == s.lead t | none => true) &&
      (if h : q < 8 then !(g.queues[q]).isEmpty else true)
  | .push q => s.pushTurn t q &&
      (if h : q < 8 then decide ((g.queues[q]).length < 16) else true)
  | _ => false

/-- A thread whose wait is over issues again; a member of a crew-collective instruction is held again. -/
def State.pollThread (old s : State) (t : Nat) : State :=
  match s.threads.get? t, s.gangs.get? (gangOf t) with
  | some x, some g =>
    if x.live && State.waitOver old s t x g then s.setT t { x with wait := if x.due then .coll else .none } else s
  | _, _ => s

/-! ## Members (14 R310) -/

/-- How a member counts in the tests of meetings, lane groups and collective instructions. -/
inductive Member where | held | blocked | running
  deriving DecidableEq, Repr

def Wait.member : Wait → Member
  | .meet | .lane _ | .coll => .held
  | .none | .drain | .reps | .ports | .regs | .walk _ | .tile _ | .fold | .turn _ | .safePoint => .running
  | .fault _ _ | .classes _ _ | .bar _ _ | .barArr _ | .span _ | .pop _ | .push _ | .claim | .grow | .talloc | .copyQueue
  | .bin _ | .sleep _ _ => .blocked

/-- How a thread counts: one whose group or collective instruction has fallen due performs it, and counts as running until it has
(R312); as blocked where it waits with its fellows for queue entries. -/
def State.standing (s : State) (t : Nat) (x : Thread) : Member :=
  if x.due && x.wait.held then
    match s.gangs.get? (gangOf t) with
    | some g => if (s.popShort g t).isSome then .blocked else .running
    | none => .running
  else x.wait.member

/-- The live threads of a crew with their values. -/
def State.members (s : State) (ck : Nat) : List (Nat × Thread) :=
  (s.liveThreads ck).filterMap fun t => (s.threads.get? t).map fun x => (t, x)

/-- Threads that are released from their meeting point (R309): held there, no other live member with the same mt running. -/
def State.metThreads (s : State) (l : List (Nat × Thread)) : List Nat :=
  (l.filter fun e => e.2.wait == .meet && !(l.any fun u => u.2.mt == e.2.mt && s.standing u.1 u.2 == .running)).map (·.1)

def State.meet (s : State) (ck : Nat) : State :=
  s.onThreads (s.metThreads (s.members ck)) fun x => { x with wait := .none }

/-! ## Lane groups (10 R239) -/

/-- What a test finds for one thread: nothing, due, or ILLEGAL_CONVERGENCE with its xval. -/
inductive Verdict where
  | stays | due | illegal (xval : Word)
  deriving DecidableEq, Repr

/-- The member mask of a thread that is held at a lane instruction: also of one whose group is due and waits for queue
entries. -/
def Thread.laneMask (x : Thread) : Option Nat :=
  match x.wait with | .lane m => some m | _ => none

/-- The test of the group of a held thread: masks count by the live threads that they name (R238). -/
def State.laneTest (s : State) (ck : Nat) (l : List (Nat × Thread)) (x : Thread) (m : Nat) : Verdict :=
  let bits := s.memberBits ck m
  let clash := l.any fun u => match u.2.laneMask with
    | some n => u.2.pc == x.pc && s.memberBits ck n != bits && (s.memberBits ck n &&& bits) != 0
    | none => false
  let absent := l.filter fun u => bitAt bits (s.visLane u.1) && !s.sameGroup ck x u.2
  if clash then .illegal (BitVec.ofNat 64 m)
  else if absent.isEmpty then .due
  else if absent.all fun u => s.standing u.1 u.2 == .held then .illegal (BitVec.ofNat 64 m)
  else .stays

/-! ## Crew-collective instructions (14 R311) -/

/-- The test of the crew-collective instruction where a thread is held. -/
def State.collTest (s : State) (l : List (Nat × Thread)) (x : Thread) : Verdict :=
  let here (u : Nat × Thread) : Bool := u.2.wait == .coll && u.2.pc == x.pc
  let absent := l.filter fun u => !here u
  if absent.isEmpty then .due
  else if absent.all fun u => s.standing u.1 u.2 == .held then
    .illegal (BitVec.ofNat 64 (((l.filter here).map fun u => 2 ^ laneOf u.1).foldl (· + ·) 0))
  else .stays

/-- A crew-collective instruction is due only while every live member stands at it. -/
def State.undue (s : State) (ck : Nat) : State :=
  let l := s.members ck
  if l.all fun u => u.2.due then s
  else s.onThreads (l.map (·.1)) fun x => match x.wait with
    | .lane _ => x
    | _ => { x with due := false }

/-- The verdicts of one crew, all on the same states (R312). -/
def State.verdicts (s : State) (ck : Nat) : List (Nat × Verdict) :=
  let l := s.members ck
  l.map fun u => (u.1, match u.2.laneMask with
    | some m => s.laneTest ck l u.2 m
    | none => if u.2.wait == .coll && !u.2.due then s.collTest l u.2 else .stays)

/-- The outcomes are applied together (R312). -/
def State.applyVerdicts (s : State) (l : List (Nat × Verdict)) : State :=
  (s.onThreads ((l.filter (·.2 == .due)).map (·.1)) fun x => { x with due := true }).stopAll
    (l.filterMap fun v => match v.2 with | .illegal xval => some (v.1, .trap cCONVERGENCE xval none) | _ => none)

/-- The tests of one crew: meetings first, then groups and collective instructions together (R312). -/
def State.testCrew (s : State) (ck : Nat) : State :=
  match s.crews.get? ck with
  | none => s
  | some c =>
    if c.departed || c.halted then s
    else
      let s := (s.undue ck).meet ck
      s.applyVerdicts (s.verdicts ck)

/-! ## Held causes (17 R369) -/

/-- A thread at depth 0 that stands at an instruction boundary with a held cause. -/
def Thread.pendDue (x : Thread) : Bool :=
  x.live && !x.restoring && !x.xdepth && !x.inAccess && (x.wait == .none || x.wait == .meet) && x.firstPend.isSome

def State.deliverDue (s : State) (t : Nat) : State :=
  match s.threads.get? t with
  | some x => if x.pendDue then s.deliverPend t else s
  | none => s

/-! ## Operand-cache rows (09 R210, R212) -/

/-- The crews of an issue slot of a core. -/
def State.slotCrews (s : State) (core q : Nat) : List (Nat × Crew) :=
  s.crews.filter fun c => c.2.slot % 4 == q && !c.2.departed && (match s.gangs.get? (c.1 / 32) with
    | some g => g.core == core && g.phase.onCore
    | none => false)

/-- The rows of a quadrant: crew and slot, with the time of the last use of any of its entries. -/
def State.rows (s : State) (core q : Nat) : List ((Nat × Nat) × Nat) :=
  (s.slotCrews core q).flatMap fun c =>
    let ts := (s.crewThreads c.1).filterMap fun t => s.threads.get? t
    let slots := ts.foldl (fun (l : List Nat) x => x.oc.foldl (fun l e => addNew l e.1) l) []
    slots.map fun i => ((c.1, i), maxOf (ts.map fun x => x.uses.getD i 0))

/-- A pin ends when its row is freed: when no thread of the crew has an entry there (09 R222). -/
def State.prunePins (s : State) (ck : Nat) : State :=
  s.modC ck fun c => { c with pins := c.pins.filter fun i => (s.crewThreads ck).any fun t => match s.threads.get? t with
    | some x => (x.oc.get? i).isSome
    | none => false }

/-- An entry whose write-back the engine holds in hand: it has left the cache, and its value goes to the backing stack as that of a slot
outside the resident range does (R207). -/
def Thread.handOver (x : Thread) (i : Nat) : Thread :=
  match x.oc.get? i with
  | some e => { x with oc := x.oc.erase i, perches := x.perches.set i ⟨e.v, true, e.bad⟩ }
  | none => x

/-- Writes back the entries of a row and frees it. A write-back that faults blocks its thread, and the engine keeps the value in hand
(R223). -/
def State.freeRow (s : State) (i : Nat) : List Nat → State
  | [] => s
  | t :: r => (match s.writeBack t i with
    | .ok s' => s'
    | .error e =>
      let s := s.modT t fun x => x.handOver i
      if s.frameBusy t then s else s.frameStop t e).freeRow i r

/-- Keeps a quadrant to 128 rows: the least recently used unpinned rows are written back. When 128 rows are pinned, that is the
row that an instruction has just filled: its read or write is then one without the cache (R212, log entry 39). -/
def State.trimRows (s : State) (w : Nat × Nat) : State :=
  let l := s.rows w.1 w.2
  if l.length ≤ 128 then s
  else
    let free := (l.filter fun r => match s.crews.get? r.1.1 with
      | some c => !c.pins.contains r.1.2
      | none => true).mergeSort fun a b => decide (a.2 ≤ b.2)
    ((free.map (·.1)).take (l.length - 128)).foldl (fun s r => s.freeRow r.2 (s.crewThreads r.1)) s

/-- The quadrants with crews: core and issue slot. -/
def State.quadrants (s : State) : List (Nat × Nat) :=
  s.crews.foldl (fun (l : List (Nat × Nat)) c => match s.gangs.get? (c.1 / 32) with
    | some g => if g.phase.onCore && !c.2.departed then addNew l (g.core, c.2.slot % 4) else l
    | none => l) []

/-! ## All of it -/

def Phase.binds : Phase → Bool | .resident | .stopping _ => true | _ => false

/-- The threads of gangs in some phases. -/
def State.threadsIn (s : State) (p : Phase → Bool) : List Nat :=
  s.threads.keysWhere fun t _ => match s.gangs.get? (gangOf t) with | some g => p g.phase | none => false

/-- The crews of the resident gangs. -/
def State.residentCrews (s : State) : List Nat :=
  s.crews.keysWhere fun c _ => match s.gangs.get? (c / 32) with | some g => g.phase == .resident | none => false

/-- What of the fill/spill engine goes on by itself: restores and range moves that were held up (09 R207, R223), pins that have
ended, and rows beyond the 128 of a quadrant. -/
def State.frameWork (s : State) : State :=
  let s := (s.threadsIn (· == .resident)).foldl State.goOnRestore s
  let s := (s.threadsIn Phase.binds).foldl (fun s t => if s.movesLeft t && !s.frameBusy t then s.moveRange t else s) s
  let s := (s.crews.filter fun c => !c.2.pins.isEmpty).foldl (fun s c => s.prunePins c.1) s
  s.quadrants.foldl State.trimRows s

/-- A slice whose targeted test is awaited serves its lines uncached: none stays (17 R390). -/
def State.uncache (s : State) : State :=
  (s.l2.keysWhere fun ln _ => s.porast.uncached.contains (sliceOf ln)).foldl (fun s ln => (s.recallLine ln).evictL2 ln) s

/-- The tile stores of running gangs keep to what is bound and TILES (06 R140). -/
def State.trimAll (s : State) : State :=
  (s.gangs.keysWhere fun _ g => g.phase == .resident).foldl State.trimTiles s

/-- What follows a step that led from `old` to `s`. -/
def State.settle (old s : State) : State :=
  let s := (s.threadsIn Phase.binds).foldl (fun s t => s.bindLocal t 64) s
  let s := (s.threadsIn (· == .resident)).foldl (fun s t => State.pollThread old s t) s
  let s := s.stopArmed
  let s := (s.threadsIn (· == .resident)).foldl (fun s t => s.deliverDue t) s
  let s := s.residentCrews.foldl State.testCrew s
  let s := (s.gangs.filter fun g => !g.2.tallocs.isEmpty).foldl (fun s g => s.serveTallocs g.1) s
  let s := s.trimAll.frameWork.uncache
  if old.rebaseDue && !s.rebaseDue then s.queues.foldl (fun s q => s.examine q.1) s else s

end Sys2Proof.Machine
end

