-- ==== Sys2Proof/Machine/Issue.lean ====
section
/-! DEFINITION. The issue slots: which crew and which threads a decision takes, how an instruction is fetched and decoded, and
how a program is placed for its first instruction (14 R305, R306, R313, 15 R344, 17 R368, R370, 03 R63). -/

namespace Sys2Proof.Machine

/-! ## Fetch (14 R313, 17 R370) -/

/-- What a fetch at a PC gives. -/
inductive Fetch where
  /-- A cause that the thread takes. -/
  | trap (c : Byte) (xval : Word)
  /-- A line is absent: its number. -/
  | miss (line : Nat)
  /-- The instruction, its length in bytes, its word. -/
  | instr (d : Decoded) (len : Nat) (word : Word)
  deriving DecidableEq, Repr

/-- Whether the halfword at an address lies in the code extent of a kernel. -/
def Kernel.covers (k : Kernel) (a : Nat) : Bool := decide (k.codeBase ≤ a ∧ a + 2 ≤ k.codeBase + k.codeLen)

/-- The halfword at an address in a cache line. -/
def ICacheLine.half (l : ICacheLine) (a : Nat) : Nat := leNat ((l.bytes.drop (a % 64)).take 2)

/-- A halfword of code: FETCH_BOUND, then the PROTECTION of a line that a peer has answered with an error (19 R404), then FETCH_FAULT,
with the PC in xval. -/
def State.fetchHalf (s : State) (g : Gang) (pc : Word) (a : Nat) : Except Fetch Nat :=
  if a % 2 ≠ 0 ∨ 2 ^ 57 ≤ a ∨ !g.kernel.covers a then .error (.trap cFETCH_BOUND pc)
  else match s.icLine g.core g.aspace (a / 64) with
    | none => .error (.miss (a / 64))
    | some l =>
      if l.refused then .error (.trap cPROTECTION pc)
      else if l.poison then .error (.trap cFETCH_FAULT pc) else .ok (l.half a)

/-- Fetches the instruction at a PC. -/
def State.fetch (s : State) (g : Gang) (pc : Word) : Fetch :=
  match s.fetchHalf g pc pc.toNat with
  | .error f => f
  | .ok h =>
    if instrLen h = 2 then .instr (decode16 h) 2 (BitVec.ofNat 64 h)
    else match s.fetchHalf g pc (pc.toNat + 2) with
      | .error f => f
      | .ok k => .instr (decode32 s.stepping (h + 2 ^ 16 * k)) 4 (BitVec.ofNat 64 (h + 2 ^ 16 * k))

/-- The causes of decode traps (03 R63). -/
def decodeCause : DecodeTrap → Byte
  | .illegalInstr => cILLEGAL
  | .lifetime => cLIFETIME
  | .reservedEncoding => cRESERVED
  | .specialOperand => cSPECIAL

/-- The cause that a gang's thread takes at a decode trap: the queue number of a qput stands before its source among the checks
(03 R63 item 5, 16 R357). -/
def Gang.decodeCause (g : Gang) (c : DecodeTrap) (w : Nat) : Byte :=
  if c = .specialOperand ∧ w % 256 = 0xF3 ∧ fld w 29 2 = 0 ∧ g.kernel.queues ≤ fld w 26 3 then cILLEGAL
  else Sys2Proof.Machine.decodeCause c

/-! ## Ready threads (14 R305) -/

/-- Whether the code line that a thread needs is on its way: absent here, its translation known. -/
def State.fetchWaits (s : State) (g : Gang) (pc : Word) : Bool :=
  match s.fetch g pc with
  | .miss l => (s.tlbLook g.core none g.aspace (64 * l) .fetch none).isSome
  | _ => false

/-- Whether a thread by itself could issue. -/
def State.couldIssue (s : State) (t : Nat) : Bool :=
  match s.threads.get? t, s.crews.get? (ckOf t), s.gangs.get? (gangOf t) with
  | some x, some c, some g =>
    x.live && !x.restoring && x.wait == .none && !x.inAccess && !s.frameBusy t && !c.halted && !c.departed && g.phase == .resident && !s.fetchWaits g x.pc
  | _, _, _ => false

/-- Whether a thread is ready; the threads of a pair issue together (17 R387). -/
def State.isReady (s : State) (t : Nat) : Bool :=
  s.couldIssue t && (match s.gangs.get? (gangOf t) with
    | some g => !g.kernel.protected_ || s.couldIssue (if t % 2 = 0 then t + 1 else t - 1)
    | none => false)

/-- The ready threads of a crew. -/
def State.ready (s : State) (ck : Nat) : List Nat := (s.liveThreads ck).filter s.isReady

/-! ## The choice of a crew (15 R344) -/

/-- The age of a crew: admission time of its gang, then crew slot; least is oldest. -/
def State.crewAge (s : State) (c : Nat × Crew) : Nat :=
  (match s.gangs.get? (c.1 / 32) with | some g => g.admitTime | none => 0) * 64 + c.2.slot

/-- The crew that a slot chooses among those with ready threads: aged crews first, then the oldest. -/
def State.chooseCrew (s : State) (core q : Nat) : Option Nat :=
  let l := (s.slotCrews core q).filter fun c => !(s.ready c.1).isEmpty
  let aged := l.filter fun c => decide (256 ≤ c.2.passed)
  (minBy s.crewAge (if aged.isEmpty then l else aged)).map (·.1)

/-- After a decision: the counts of crews passed over while they had ready threads. -/
def State.passCrews (s : State) (core q chosen : Nat) : State :=
  (s.slotCrews core q).foldl (fun t c => t.modC c.1 fun x => { x with
    passed := if c.1 = chosen ∨ (s.ready c.1).isEmpty then 0 else Nat.min 256 (x.passed + 1) }) s

/-! ## The bundle (R305, R306) -/

/-- The PC of a thread. -/
def State.pcOf (s : State) (t : Nat) : Nat := match s.threads.get? t with | some x => x.pc.toNat | none => 0
def State.ageOf (s : State) (t : Nat) : Nat := match s.threads.get? t with | some x => x.age | none => 0

/-- The threads of the bundle: those at the lowest PC among the aged, or among all. -/
def State.bundle (s : State) (l : List Nat) : List Nat :=
  let aged := l.filter fun t => decide (64 ≤ s.ageOf t)
  match minBy s.pcOf (if aged.isEmpty then l else aged) with
  | some t => l.filter fun u => s.pcOf u == s.pcOf t
  | none => []

/-- The ageing counts after a decision. -/
def State.ageThreads (s : State) (l b : List Nat) : State :=
  s.onThreads (l.filter fun t => !b.contains t) (fun x => { x with age := Nat.min 64 (x.age + 1) }) |>.onThreads b
    fun x => { x with age := 0 }

/-! ## A decision -/

/-- What a decision comes to. -/
inductive Decision where
  /-- No thread is ready. -/
  | none
  /-- The threads wait for a walk that their fetch needs: they are not ready. -/
  | waits (s : State)
  /-- The threads take a cause. -/
  | done (s : State)
  /-- An instruction to perform, the bundle standing in `cur`. -/
  | run (i : Instr) (s : State)
  deriving DecidableEq, Repr

/-- The VA of a fetch: the PC, or where the line that is missing lies on another page, that line's. -/
def fetchVa (pc : Word) (l : Nat) : Word := if 64 * l / 65536 = pc.toNat / 65536 then pc else BitVec.ofNat 64 (64 * l)

/-- Fetches for a bundle of a crew and says what it performs. -/
def State.fetchBundle (s : State) (ck : Nat) (ts : List Nat) : Decision :=
  match s.gangs.get? (ck / 32), s.threads.get? (ts.headD 0) with
  | some g, some x =>
    let trap (c : Byte) (v : Word) : Decision := .done (s.stopAll (ts.map fun t => (t, .trap c v none)))
    match s.fetch g x.pc with
    | .trap c v => trap c v
    | .miss l =>
      .waits (ts.foldl (fun s t =>
        let r := s.joinWalk g.core g.aspace (64 * l) (.thread t (fetchVa x.pc l) .fetch)
        r.2.modT t fun x => { x with wait := .walk r.1 }) s)
    | .instr (.trap c) _ w => trap (g.decodeCause c w.toNat) w
    | .instr (.ok i) len w => .run i { s with cur := ⟨ck / 32, ck % 32, ts.map laneOf, x.pc, len, w⟩ }
  | _, _ => .none

/-- The decision of an issue slot. -/
def State.decide (s : State) (core q : Nat) : Decision :=
  match s.chooseCrew core q with
  | none => .none
  | some ck =>
    let l := s.ready ck
    let b := s.bundle l
    ((s.passCrews core q ck).ageThreads l b).fetchBundle ck b

/-- A wait in which a thread stalls at issue for an operand, a port or a tile's ownership: it is not ready (R305). -/
def Wait.stalls : Wait → Bool
  | .ports | .regs | .tile _ => true
  | _ => false

/-- The threads of a list that an instruction has left stalled at issue; those of a pair stall together. -/
def State.stalled (s : State) (ts : List Nat) : List Nat :=
  let st (t : Nat) : Bool := match s.threads.get? t with | some x => x.wait.stalls && !x.inAccess | none => false
  ts.filter fun t => match s.gangs.get? (gangOf t) with
    | some g => if g.kernel.protected_ then st (t / 2 * 2) && st (t / 2 * 2 + 1) else st t
    | none => false

/-! ## Due groups (10 R240, 14 R311) -/

/-- The bundles of an issue slot that tests have found due: crew and threads. -/
def State.dueBundles (s : State) (core q : Nat) : List (Nat × List Nat) :=
  (s.slotCrews core q).flatMap fun c =>
    let l := if c.2.halted then [] else (s.members c.1).filter fun u => u.2.due
    let colls := if l.all (fun u => u.2.wait == .coll) && s.crewDue c.1 then [(c.1, l.map (·.1))] else []
    let keys := l.foldl (fun (k : List (Nat × Nat)) u => match u.2.wait with
      | .lane m => addNew k (u.2.pc.toNat, s.memberBits c.1 m)
      | _ => k) []
    colls ++ keys.map fun k => (c.1, (l.filter fun u => match u.2.wait with
      | .lane m => u.2.pc.toNat == k.1 && s.memberBits c.1 m == k.2
      | _ => false).map (·.1))

/-- Whether a due bundle has been performed or has changed its waiting: a member is no longer due or waits for something
else, or the waiters of its gang's queues are others. -/
def State.moved (old s : State) (ck : Nat) (ts : List Nat) : Bool :=
  (ts.any fun t => match old.threads.get? t, s.threads.get? t with
    | some x, some y => !y.due || x.wait != y.wait
    | _, _ => true) ||
  (match old.gangs.get? (ck / 32), s.gangs.get? (ck / 32) with
    | some g, some h => g.pops != h.pops
    | _, _ => true)

/-! ## Placing a program -/

/-- A launch in a slot of its own, for a program that is placed directly. -/
def Launch.placed (k : Kernel) : Launch :=
  { queue := 0, lid := 0, recVa := 0
    record := ⟨0, [], 0, 0, 1, 1, 0, 0, 0, 0, 0, 0, 0, 0⟩, kernel := k, nodes := [], args := [], plan := [], tsL := 0
    acceptT := 0, order := 0, counter := none, status := .ready, held := false, cancelled := false, replays := 0, nextIndex := 1
    nextAdmit := 1, done := [], nodeGangs := 0, nodeQueue := [], sets := [0], trigger := none, firstFail := none, fatal := false, ct := 0
    snaps := [], undoUsed := false }

/-- The kernel of a placed program: its code stands at 0x20_0000, one crew with a full frame, every barrier and queue. -/
def Kernel.placed : Kernel :=
  { codeBase := 0x20_0000, codeLen := 64, frame := 64, pot := 0, crews := 1, span := 1, barriers := 16, queues := 8
    copies := 8, protected_ := false, replayable := false, node := false, pad := 4096, tiles := 0, nodeCount := 0
    nodeTimer := 0, recVa := 0, inputsVa := 0, inputsN := 0, life := 0, step := 0, liveVa := none, safeVa := none
    woMask := 0 }

/-- The resident gang of a placed program on a core. -/
def Gang.placed (slot span core now : Nat) : Gang :=
  { slot, lid := 0, index := 0, node := none, records := [], recTime := 0, take := 0, span, spanPos := 0, core, set := 0
    kernel := .placed, phase := .resident, held := false, prio := 0, resume := none, admitTime := 0, admit125 := 0, residentSince := now, listedAt := now
    pages := [], stackVa := 0, stackN := 192, stackS := 1792, crewsMax := 1, aspace := 0, padClock := 0, handles := []
    bars := Vector.replicate 16 ⟨0, false, 1, 0, 0, 0⟩, queues := Vector.replicate 8 [], grows := 0, gcols := 0, fit := false
    plan := [], pot := [], slack := [], drawn := [], tallocs := [], frameAcres := 4, padAcres := 1, tileAcres := 0, gone := [], claims := [], pops := [], pushes := []
    prologueLeft := 0, prologueTs := 0, nodeSerial := 0 }

/-- The first core without a gang; core 0 if there is none. -/
def State.emptyCore (s : State) : Nat :=
  (leastFrom (fun c => s.gangs.all fun e => e.2.core != c) 0 160).getD 0

/-- The device with one more launch, of one gang with one crew, resident on an empty core, whose thread on home lane 0 stands
before `code`. Its code line is in the core's instruction cache, the translation of VAs 0 to 2 MiB - 1 to the same PAs in the
core's TLB, and the turn of its issue slot is next (log entry 3). -/
def State.placeProgram (s : State) (code : List Byte) : State :=
  let core := s.emptyCore
  let slot := s.launches.foldl (fun n e => Nat.max n (e.1 + 1)) 0
  let g := s.nextId
  let line : ICacheLine := ⟨0, 0x8000, code ++ List.replicate (64 - code.length) 0, false, false⟩
  let page : TlbEntry := ⟨0, 0, 21, 0xB⟩
  let s := s.setCore core fun c => { c with
    icache := line :: c.icache, tlb := tlbPut c.tlb 1024 page, loan := c.loan - 5 }
  { s with
    nextId := g + 2
    turns := .slot core 0 :: s.turns
    launches := s.launches.set slot (.placed .placed)
    spans := s.spans.set (g + 1) ⟨slot, 0, [g], Vector.replicate 4 ⟨0, 1, 0, 0⟩, none, s.time, [], false⟩
    gangs := s.gangs.set g (.placed slot (g + 1) core s.time)
    crews := s.crews.set (ckey g 0) (Crew.init .placed [] [] 0 0)
    threads := s.threads.set (tkey g 0 0) (Thread.init 0x20_0000 0) }

end Sys2Proof.Machine
end

