-- ==== Sys2Proof/Machine/Dispatch.lean ====
section
/-! DEFINITION. What each instruction does: one call for each. -/

namespace Sys2Proof.Machine

/-- The meaning of an instruction in a state: for an encoded instruction, of the bundle that stands in `cur`. -/
def exec (i : Instr) (s : State) : Host.Outcome State Fault Refusal :=
  match i with
  | .add w d a b => Sys2Proof.Machine.execAdd w d a b s
  | .sub w d a b => Sys2Proof.Machine.execSub w d a b s
  | .addc w d a b => Sys2Proof.Machine.execAddc w d a b s
  | .subb w d a b => Sys2Proof.Machine.execSubb w d a b s
  | .mul24 g d a b => Sys2Proof.Machine.execMul24 g d a b s
  | .mad24 g d a b => Sys2Proof.Machine.execMad24 g d a b s
  | .mul w d a b => Sys2Proof.Machine.execMul w d a b s
  | .mulh g d a b => Sys2Proof.Machine.execMulh g d a b s
  | .div g d a b => Sys2Proof.Machine.execDiv g d a b s
  | .rem g d a b => Sys2Proof.Machine.execRem g d a b s
  | .min g d a b => Sys2Proof.Machine.execMin g d a b s
  | .max g d a b => Sys2Proof.Machine.execMax g d a b s
  | .addmin g d a b => Sys2Proof.Machine.execAddmin g d a b s
  | .and w d a b => Sys2Proof.Machine.execAnd w d a b s
  | .or w d a b => Sys2Proof.Machine.execOr w d a b s
  | .xor w d a b => Sys2Proof.Machine.execXor w d a b s
  | .andn w d a b => Sys2Proof.Machine.execAndn w d a b s
  | .shl w d a b => Sys2Proof.Machine.execShl w d a b s
  | .shr w d a b => Sys2Proof.Machine.execShr w d a b s
  | .sar w d a b => Sys2Proof.Machine.execSar w d a b s
  | .rot w d a b => Sys2Proof.Machine.execRot w d a b s
  | .bfe g d a b => Sys2Proof.Machine.execBfe g d a b s
  | .bfi d a b => Sys2Proof.Machine.execBfi d a b s
  | .perm d a b => Sys2Proof.Machine.execPerm d a b s
  | .lea w d a b => Sys2Proof.Machine.execLea w d a b s
  | .addImm d a im => Sys2Proof.Machine.execAddImm d a im s
  | .andImm d a im => Sys2Proof.Machine.execAndImm d a im s
  | .orImm d a im => Sys2Proof.Machine.execOrImm d a im s
  | .shlImm w d a c => Sys2Proof.Machine.execShlImm w d a c s
  | .shrImm w d a c => Sys2Proof.Machine.execShrImm w d a c s
  | .sarImm w d a c => Sys2Proof.Machine.execSarImm w d a c s
  | .rotImm w d a c => Sys2Proof.Machine.execRotImm w d a c s
  | .movi g d im => Sys2Proof.Machine.execMovi g d im s
  | .movw r im n => Sys2Proof.Machine.execMovw r im n s
  | .fadd f d a b => Sys2Proof.Machine.execFadd f d a b s
  | .fsub f d a b => Sys2Proof.Machine.execFsub f d a b s
  | .fmul f d a b => Sys2Proof.Machine.execFmul f d a b s
  | .ffma f d a b => Sys2Proof.Machine.execFfma f d a b s
  | .fmin f d a b => Sys2Proof.Machine.execFmin f d a b s
  | .fmax f d a b => Sys2Proof.Machine.execFmax f d a b s
  | .fdiv f d a b => Sys2Proof.Machine.execFdiv f d a b s
  | .faddPacked p d a b => Sys2Proof.Machine.execFaddPacked p d a b s
  | .fmulPacked p d a b => Sys2Proof.Machine.execFmulPacked p d a b s
  | .ffmaPacked p d a b => Sys2Proof.Machine.execFfmaPacked p d a b s
  | .ivmk f d a b => Sys2Proof.Machine.execIvmk f d a b s
  | .ivmkE f d a b => Sys2Proof.Machine.execIvmkE f d a b s
  | .ivhull f d a b => Sys2Proof.Machine.execIvhull f d a b s
  | .ivhullE f d a b => Sys2Proof.Machine.execIvhullE f d a b s
  | .ivisect f d a b => Sys2Proof.Machine.execIvisect f d a b s
  | .ivisectE f d a b => Sys2Proof.Machine.execIvisectE f d a b s
  | .ibsp f d a b => Sys2Proof.Machine.execIbsp f d a b s
  | .cmpSigned w l p a b => Sys2Proof.Machine.execCmpSigned w l p a b s
  | .cmpUnsigned w l p a b => Sys2Proof.Machine.execCmpUnsigned w l p a b s
  | .fcmp f l p a b => Sys2Proof.Machine.execFcmp f l p a b s
  | .ivin f p a b => Sys2Proof.Machine.execIvin f p a b s
  | .cmov d a p se => Sys2Proof.Machine.execCmov d a p se s
  | .pand d a b => Sys2Proof.Machine.execPand d a b s
  | .por d a b => Sys2Proof.Machine.execPor d a b s
  | .pxor d a b => Sys2Proof.Machine.execPxor d a b s
  | .pnot d a => Sys2Proof.Machine.execPnot d a s
  | .pdec pv d a => Sys2Proof.Machine.execPdec pv d a s
  | .pset pv d => Sys2Proof.Machine.execPset pv d s
  | .pget d => Sys2Proof.Machine.execPget d s
  | .pput a => Sys2Proof.Machine.execPput a s
  | .vote m d p se b => Sys2Proof.Machine.execVote m d p se b s
  | .shfl m d a b => Sys2Proof.Machine.execShfl m d a b s
  | .lsh m d a b => Sys2Proof.Machine.execLsh m d a b s
  | .bcastFirst k a b => Sys2Proof.Machine.execBcastFirst k a b s
  | .matchLane d a b => Sys2Proof.Machine.execMatchLane d a b s
  | .reduxAdd w d a b => Sys2Proof.Machine.execReduxAdd w d a b s
  | .reduxMin g d a b => Sys2Proof.Machine.execReduxMin g d a b s
  | .reduxMax g d a b => Sys2Proof.Machine.execReduxMax g d a b s
  | .reduxAnd w d a b => Sys2Proof.Machine.execReduxAnd w d a b s
  | .reduxOr w d a b => Sys2Proof.Machine.execReduxOr w d a b s
  | .reduxXor w d a b => Sys2Proof.Machine.execReduxXor w d a b s
  | .freduxAdd f d a b => Sys2Proof.Machine.execFreduxAdd f d a b s
  | .freduxMin f d a b => Sys2Proof.Machine.execFreduxMin f d a b s
  | .freduxMax f d a b => Sys2Proof.Machine.execFreduxMax f d a b s
  | .scanAdd w d a b => Sys2Proof.Machine.execScanAdd w d a b s
  | .scanMax g d a b => Sys2Proof.Machine.execScanMax g d a b s
  | .ldN8 d a im => Sys2Proof.Machine.execLdN8 d a im s
  | .ldS8 d a im => Sys2Proof.Machine.execLdS8 d a im s
  | .ldN16 d a im => Sys2Proof.Machine.execLdN16 d a im s
  | .ldS16 d a im => Sys2Proof.Machine.execLdS16 d a im s
  | .ldN32 d a im => Sys2Proof.Machine.execLdN32 d a im s
  | .ldS32 d a im => Sys2Proof.Machine.execLdS32 d a im s
  | .ldB64 d a im => Sys2Proof.Machine.execLdB64 d a im s
  | .ldB64x2 d a im => Sys2Proof.Machine.execLdB64x2 d a im s
  | .ldB64x4 d a im => Sys2Proof.Machine.execLdB64x4 d a im s
  | .stB8 d a im => Sys2Proof.Machine.execStB8 d a im s
  | .stB16 d a im => Sys2Proof.Machine.execStB16 d a im s
  | .stB32 d a im => Sys2Proof.Machine.execStB32 d a im s
  | .stB64 d a im => Sys2Proof.Machine.execStB64 d a im s
  | .stB64x2 d a im => Sys2Proof.Machine.execStB64x2 d a im s
  | .stB64x4 d a im => Sys2Proof.Machine.execStB64x4 d a im s
  | .atom w o sc d a => Sys2Proof.Machine.execAtom w o sc d a s
  | .cpIn t n r o => Sys2Proof.Machine.execCpIn t n r o s
  | .cpOut t n r o => Sys2Proof.Machine.execCpOut t n r o s
  | .cpOutAdd t n r o => Sys2Proof.Machine.execCpOutAdd t n r o s
  | .cpMc t n r o m => Sys2Proof.Machine.execCpMc t n r o m s
  | .cpPad t p r o => Sys2Proof.Machine.execCpPad t p r o s
  | .cpPadOut t p r o => Sys2Proof.Machine.execCpPadOut t p r o s
  | .cpFill t n v => Sys2Proof.Machine.execCpFill t n v s
  | .recFence => Sys2Proof.Machine.execRecFence s
  | .recPf r => Sys2Proof.Machine.execRecPf r s
  | .own n => Sys2Proof.Machine.execOwn n s
  | .mma e d a b => Sys2Proof.Machine.execMma e d a b s
  | .mmaSat e d a b => Sys2Proof.Machine.execMmaSat e d a b s
  | .mcvt f p d a => Sys2Proof.Machine.execMcvt f p d a s
  | .mrmax d a => Sys2Proof.Machine.execMrmax d a s
  | .mrsum d a => Sys2Proof.Machine.execMrsum d a s
  | .mexp2 d a => Sys2Proof.Machine.execMexp2 d a s
  | .mrscale d a b => Sys2Proof.Machine.execMrscale d a b s
  | .mmask d k => Sys2Proof.Machine.execMmask d k s
  | .mhdrGet d m => Sys2Proof.Machine.execMhdrGet d m s
  | .mhdrSet d m => Sys2Proof.Machine.execMhdrSet d m s
  | .mget d m b => Sys2Proof.Machine.execMget d m b s
  | .mput d m b => Sys2Proof.Machine.execMput d m b s
  | .mdrain t n r o => Sys2Proof.Machine.execMdrain t n r o s
  | .mdrainAdd t n r o => Sys2Proof.Machine.execMdrainAdd t n r o s
  | .mzero d => Sys2Proof.Machine.execMzero d s
  | .tshape r => Sys2Proof.Machine.execTshape r s
  | .mplan t => Sys2Proof.Machine.execMplan t s
  | .bra o se p => Sys2Proof.Machine.execBra o se p s
  | .jmp o => Sys2Proof.Machine.execJmp o s
  | .jmpk p se t => Sys2Proof.Machine.execJmpk p se t s
  | .meet im g => Sys2Proof.Machine.execMeet im g s
  | .meetR a => Sys2Proof.Machine.execMeetR a s
  | .exit => Sys2Proof.Machine.execExit s
  | .loop n a im => Sys2Proof.Machine.execLoop n a im s
  | .call o n => Sys2Proof.Machine.execCall o n s
  | .barArr n => Sys2Proof.Machine.execBarArr n s
  | .barWait n => Sys2Proof.Machine.execBarWait n s
  | .barSync n => Sys2Proof.Machine.execBarSync n s
  | .barExp n c => Sys2Proof.Machine.execBarExp n c s
  | .sbar n => Sys2Proof.Machine.execSbar n s
  | .qput q a => Sys2Proof.Machine.execQput q a s
  | .qget d q => Sys2Proof.Machine.execQget d q s
  | .qlen d q => Sys2Proof.Machine.execQlen d q s
  | .nput a b => Sys2Proof.Machine.execNput a b s
  | .sleep a im => Sys2Proof.Machine.execSleep a im s
  | .grow a => Sys2Proof.Machine.execGrow a s
  | .shrink a => Sys2Proof.Machine.execShrink a s
  | .claim a => Sys2Proof.Machine.execClaim a s
  | .release a => Sys2Proof.Machine.execRelease a s
  | .pinfo d => Sys2Proof.Machine.execPinfo d s
  | .talloc m a => Sys2Proof.Machine.execTalloc m a s
  | .tfree m => Sys2Proof.Machine.execTfree m s
  | .callk t n => Sys2Proof.Machine.execCallk t n s
  | .ret => Sys2Proof.Machine.execRet s
  | .ocflush => Sys2Proof.Machine.execOcflush s
  | .ockeep r pin => Sys2Proof.Machine.execOckeep r pin s
  | .xbrev8 d a => Sys2Proof.Machine.execXbrev8 d a s
  | .xpopc8 d a => Sys2Proof.Machine.execXpopc8 d a s
  | .nop => Sys2Proof.Machine.execNop s
  | .brk => Sys2Proof.Machine.execBrk s
  | .trap a => Sys2Proof.Machine.execTrap a s
  | .tret => Sys2Proof.Machine.execTret s
  | .sget d r => Sys2Proof.Machine.execSget d r s
  | .sput r a => Sys2Proof.Machine.execSput r a s
  | .abs w d a => Sys2Proof.Machine.execAbs w d a s
  | .neg w d a => Sys2Proof.Machine.execNeg w d a s
  | .not w d a => Sys2Proof.Machine.execNot w d a s
  | .popc w d a => Sys2Proof.Machine.execPopc w d a s
  | .clz w d a => Sys2Proof.Machine.execClz w d a s
  | .ctz w d a => Sys2Proof.Machine.execCtz w d a s
  | .brev w d a => Sys2Proof.Machine.execBrev w d a s
  | .mov d a => Sys2Proof.Machine.execMov d a s
  | .ext e d a => Sys2Proof.Machine.execExt e d a s
  | .movk k a => Sys2Proof.Machine.execMovk k a s
  | .kmov k t => Sys2Proof.Machine.execKmov k t s
  | .fabs f d a => Sys2Proof.Machine.execFabs f d a s
  | .fneg f d a => Sys2Proof.Machine.execFneg f d a s
  | .fsqrt f d a => Sys2Proof.Machine.execFsqrt f d a s
  | .frcp f d a => Sys2Proof.Machine.execFrcp f d a s
  | .frsq f d a => Sys2Proof.Machine.execFrsq f d a s
  | .fexp2 f d a => Sys2Proof.Machine.execFexp2 f d a s
  | .flog2 f d a => Sys2Proof.Machine.execFlog2 f d a s
  | .fsin f d a => Sys2Proof.Machine.execFsin f d a s
  | .fcos f d a => Sys2Proof.Machine.execFcos f d a s
  | .ftanh f d a => Sys2Proof.Machine.execFtanh f d a s
  | .fcvtF16F32 r d a => Sys2Proof.Machine.execFcvtF16F32 r d a s
  | .fcvtBf16F32 r d a => Sys2Proof.Machine.execFcvtBf16F32 r d a s
  | .fcvtF32F64 r d a => Sys2Proof.Machine.execFcvtF32F64 r d a s
  | .fcvtF32F16 d a => Sys2Proof.Machine.execFcvtF32F16 d a s
  | .fcvtF32Bf16 d a => Sys2Proof.Machine.execFcvtF32Bf16 d a s
  | .fcvtF64F32 d a => Sys2Proof.Machine.execFcvtF64F32 d a s
  | .icvtToFloat f w g d a => Sys2Proof.Machine.execIcvtToFloat f w g d a s
  | .icvtToInt f w g d a => Sys2Proof.Machine.execIcvtToInt f w g d a s
  | .fround f r d a => Sys2Proof.Machine.execFround f r d a s
  | .fclass f d a => Sys2Proof.Machine.execFclass f d a s
  | .ivlo f d a => Sys2Proof.Machine.execIvlo f d a s
  | .ivhi f d a => Sys2Proof.Machine.execIvhi f d a s
  | .ivmid f d a => Sys2Proof.Machine.execIvmid f d a s
  | .ivwid f d a => Sys2Proof.Machine.execIvwid f d a s
  | .ldIv f d a => Sys2Proof.Machine.execLdIv f d a s
  | .stIv f d a => Sys2Proof.Machine.execStIv f d a s
  | .ldk k a => Sys2Proof.Machine.execLdk k a s
  | .scopeDrop a => Sys2Proof.Machine.execScopeDrop a s
  | .fenceRep => Sys2Proof.Machine.execFenceRep s
  | .pf a => Sys2Proof.Machine.execPf a s
  | .wait c m => Sys2Proof.Machine.execWait c m s
  | .add16 d b => Sys2Proof.Machine.execAdd16 d b s
  | .sub16 d b => Sys2Proof.Machine.execSub16 d b s
  | .mul2416 d b => Sys2Proof.Machine.execMul2416 d b s
  | .and16 d b => Sys2Proof.Machine.execAnd16 d b s
  | .or16 d b => Sys2Proof.Machine.execOr16 d b s
  | .xor16 d b => Sys2Proof.Machine.execXor16 d b s
  | .shl16 d b => Sys2Proof.Machine.execShl16 d b s
  | .shr16 d b => Sys2Proof.Machine.execShr16 d b s
  | .sar16 d b => Sys2Proof.Machine.execSar16 d b s
  | .min16 d b => Sys2Proof.Machine.execMin16 d b s
  | .max16 d b => Sys2Proof.Machine.execMax16 d b s
  | .mov16 d b => Sys2Proof.Machine.execMov16 d b s
  | .nopH b => Sys2Proof.Machine.execNopH b s
  | .fadd16 d b => Sys2Proof.Machine.execFadd16 d b s
  | .fsub16 d b => Sys2Proof.Machine.execFsub16 d b s
  | .fmul16 d b => Sys2Proof.Machine.execFmul16 d b s
  | .fmax16 d b => Sys2Proof.Machine.execFmax16 d b s
  | .coalescerTimeout core slot => Sys2Proof.Machine.execCoalescerTimeout core slot s
  | .laneMerge m => Sys2Proof.Machine.execLaneMerge m s
  | .loadRequest t => Sys2Proof.Machine.execLoadRequest t s
  | .loadDataReturn t => Sys2Proof.Machine.execLoadDataReturn t s
  | .sliceWrite m => Sys2Proof.Machine.execSliceWrite m s
  | .storeAck m => Sys2Proof.Machine.execStoreAck m s
  | .l2Atomic t => Sys2Proof.Machine.execL2Atomic t s
  | .recallReturn line => Sys2Proof.Machine.execRecallReturn line s
  | .writeQueueDrain ms => Sys2Proof.Machine.execWriteQueueDrain ms s
  | .hbmRead line key err => Sys2Proof.Machine.execHbmRead line key err s
  | .refresh ms => Sys2Proof.Machine.execRefresh ms s
  | .rfm ms bank => Sys2Proof.Machine.execRfm ms bank s
  | .patrolScrub line err => Sys2Proof.Machine.execPatrolScrub line err s
  | .replicaUpdate m => Sys2Proof.Machine.execReplicaUpdate m s
  | .replicaAck m => Sys2Proof.Machine.execReplicaAck m s
  | .rebase => Sys2Proof.Machine.execRebase s
  | .chainFlitCrcFail dir group => Sys2Proof.Machine.execChainFlitCrcFail dir group s
  | .chainLaneRepair dir group => Sys2Proof.Machine.execChainLaneRepair dir group s
  | .pageWalk w => Sys2Proof.Machine.execPageWalk w s
  | .faultEntryRetry w => Sys2Proof.Machine.execFaultEntryRetry w s
  | .instructionFetch core aspace line parity => Sys2Proof.Machine.execInstructionFetch core aspace line parity s
  | .copyAccept core => Sys2Proof.Machine.execCopyAccept core s
  | .copyComplete c => Sys2Proof.Machine.execCopyComplete c s
  | .allocatorServe core => Sys2Proof.Machine.execAllocatorServe core s
  | .acreDrained core => Sys2Proof.Machine.execAcreDrained core s
  | .acreFilled core => Sys2Proof.Machine.execAcreFilled core s
  | .acreWriteoutAck core => Sys2Proof.Machine.execAcreWriteoutAck core s
  | .bench core => Sys2Proof.Machine.execBench core s
  | .dispatch => Sys2Proof.Machine.execDispatch s
  | .admitGang core => Sys2Proof.Machine.execAdmitGang core s
  | .listAveraging cluster => Sys2Proof.Machine.execListAveraging cluster s
  | .spanAge cluster => Sys2Proof.Machine.execSpanAge cluster s
  | .preemptPriority core => Sys2Proof.Machine.execPreemptPriority core s
  | .preemptSlice core => Sys2Proof.Machine.execPreemptSlice core s
  | .launchComplete slot => Sys2Proof.Machine.execLaunchComplete slot s
  | .binTimer slot node => Sys2Proof.Machine.execBinTimer slot node s
  | .binDrain slot => Sys2Proof.Machine.execBinDrain slot s
  | .deadlockDetect g => Sys2Proof.Machine.execDeadlockDetect g s
  | .sleepEnd t => Sys2Proof.Machine.execSleepEnd t s
  | .launchReplay slot => Sys2Proof.Machine.execLaunchReplay slot s
  | .scrupleThreshold u => Sys2Proof.Machine.execScrupleThreshold u s
  | .scrupleHalving => Sys2Proof.Machine.execScrupleHalving s
  | .targetedTestDone u pass => Sys2Proof.Machine.execTargetedTestDone u pass s
  | .powerExcursion => Sys2Proof.Machine.execPowerExcursion s
  | .powerRecovery => Sys2Proof.Machine.execPowerRecovery s
  | .powerOn => Sys2Proof.Machine.execPowerOn s
  | .ualIdAssign id => Sys2Proof.Machine.execUalIdAssign id s
  | .ualinkIngressWrite w => Sys2Proof.Machine.execUalinkIngressWrite w s
  | .ualinkIngressRead line foreign => Sys2Proof.Machine.execUalinkIngressRead line foreign s
  | .ualinkIngressAtomic pa w o v c => Sys2Proof.Machine.execUalinkIngressAtomic pa w o v c s
  | .reduceOnArrival w => Sys2Proof.Machine.execReduceOnArrival w s
  | .ualinkResponse m r => Sys2Proof.Machine.execUalinkResponse m r s
  | .launch q => Sys2Proof.Machine.execLaunch q s
  | .waitBlock q => Sys2Proof.Machine.execWaitBlock q s
  | .signalAdd q => Sys2Proof.Machine.execSignalAdd q s
  | .signalSetCounter q => Sys2Proof.Machine.execSignalSetCounter q s
  | .branchOn q => Sys2Proof.Machine.execBranchOn q s
  | .skip q => Sys2Proof.Machine.execSkip q s
  | .fence q => Sys2Proof.Machine.execFence q s
  | .invalidate q => Sys2Proof.Machine.execInvalidate q s
  | .unmapX q => Sys2Proof.Machine.execUnmapX q s
  | .mapX q => Sys2Proof.Machine.execMapX q s
  | .writeCode q => Sys2Proof.Machine.execWriteCode q s
  | .writeBlock q => Sys2Proof.Machine.execWriteBlock q s
  | .timestamp q => Sys2Proof.Machine.execTimestamp q s
  | .blockTestRetry q => Sys2Proof.Machine.execBlockTestRetry q s
  | .qwptrWrite q v => Sys2Proof.Machine.execQwptrWrite q v s
  | .qcfgEnable q v => Sys2Proof.Machine.execQcfgEnable q v s
  | .qcfgDisable q v => Sys2Proof.Machine.execQcfgDisable q v s
  | .qcfgErrClear q v => Sys2Proof.Machine.execQcfgErrClear q v s
  | .registerWrite off eight v => Sys2Proof.Machine.execRegisterWrite off eight v s
  | .resolveRetry die entry vpn => Sys2Proof.Machine.execResolveRetry die entry vpn s
  | .resolveFail die entry vpn => Sys2Proof.Machine.execResolveFail die entry vpn s
  | .intstatClear v => Sys2Proof.Machine.execIntstatClear v s
  | .gstatClear v => Sys2Proof.Machine.execGstatClear v s
  | .bar0UndocumentedAccess x => Sys2Proof.Machine.execBar0UndocumentedAccess x s
  | .keyLoad slot half key => Sys2Proof.Machine.execKeyLoad slot half key s
  | .keyClear slot => Sys2Proof.Machine.execKeyClear slot s
  | .halt lid gang crew => Sys2Proof.Machine.execHalt lid gang crew s
  | .resume lid gang crew => Sys2Proof.Machine.execResume lid gang crew s
  | .kill lid gang crew => Sys2Proof.Machine.execKill lid gang crew s
  | .breakReq lid gang crew => Sys2Proof.Machine.execBreakReq lid gang crew s
  | .migrate lid gang => Sys2Proof.Machine.execMigrate lid gang s
  | .migrateReady lid gang => Sys2Proof.Machine.execMigrateReady lid gang s
  | .migrateTimeout lid gang => Sys2Proof.Machine.execMigrateTimeout lid gang s
  | .migrateIn lid gang same => Sys2Proof.Machine.execMigrateIn lid gang same s
  | .sensor => Sys2Proof.Machine.execSensor s
  | .logRead n => Sys2Proof.Machine.execLogRead n s
  | .attest nonce page => Sys2Proof.Machine.execAttest nonce page s
  | .fwStage p => Sys2Proof.Machine.execFwStage p s
  | .fwActivate u => Sys2Proof.Machine.execFwActivate u s
  | .enroll r => Sys2Proof.Machine.execEnroll r s
  | .journalClear => Sys2Proof.Machine.execJournalClear s
  | .tileInstructionComplete n => Sys2Proof.Machine.execTileInstructionComplete n s
  | .drainedCorePreemption core => Sys2Proof.Machine.execDrainedCorePreemption core s

end Sys2Proof.Machine
end

