-- ==== Sys2Proof/Machine/Errors.lean ====
section
/-! DEFINITION. Physical errors that the spec counts, corrects or turns into poison, and that no row of the opcode table names: in
HBM, the pool, the operand caches and latches, L2 and the Chain (04 R77, R81, R90, 06 R132, 09 R214, 13 R298; log entry 90). They
come only as turns. -/

namespace Sys2Proof.Machine

/-- What an error that a unit's code finds comes to: a correction adds a scruple to the unit, an uncorrectable error adds 16 and spoils
what it hit (17 R390). -/
def State.ecc (s : State) (u : HwUnit) (err : PhysErr) (spoil : State → State) : State :=
  match err with
  | .none => s
  | .corrected => s.addScruples u 1
  | .uncorrectable | .miscorrected => spoil (s.addScruples u 16)

/-- The core of a thread. -/
def State.coreOf (s : State) (t : Nat) : HwUnit := .core (match s.gangs.get? (gangOf t) with | some g => g.core | none => 0)

/-- Poisons granule `k` of a list. -/
def poisonAt (l : List Gran) (k : Nat) : List Gran := l.modify k fun g => { g with poison := true }

/-- Changes granule `k` of a list by differences of its data and its grain. -/
def flipAt (l : List Gran) (k : Nat) (d : Word) (g : Byte) : List Gran :=
  l.modify k fun x => { x with data := x.data ^^^ d, grain := x.grain ^^^ g }

/-- Who checks the code of a line that stands in L2: its slice, or a core that holds it in lent acres (06 R132, R135). -/
def State.lineUnit (s : State) (ln : Nat) : HwUnit :=
  match s.l2.get? ln with
  | some e => match e.holder with
    | .core n => .core n
    | .cluster n => .core (8 * n)
    | .none => .slice (sliceOf ln)
  | none => .slice (sliceOf ln)

/-- Changes the granules of a line's L1 copy in a core. -/
def State.onL1 (s : State) (core ln : Nat) (f : List Gran → List Gran) : State :=
  s.setCore core fun c => { c with l1 := c.l1.map fun x => if x.line = ln then { x with gr := f x.gr } else x }

/-- Replaces the data of granule `k` of a list: its grain stays. -/
def alterAt (l : List Gran) (k : Nat) (d : Word) : List Gran := l.modify k fun g => { g with data := d }

/-- The answer to a load's request alters on its way over the Chain. -/
def Acc.alter (a : Acc) (k : Nat) (d : Word) : Acc :=
  match a with
  | .load va (.dev pa gpa) size key form slot b toK held (some r) =>
    .load va (.dev pa gpa) size key form slot b toK held (some { r with line := alterAt r.line k d })
  | _ => a

/-- Whether the load at the head of a thread's accesses is served over the Chain. -/
def State.overChain (s : State) (t : Nat) : Bool :=
  match s.threads.get? t, s.gangs.get? (gangOf t) with
  | some x, some g => match x.accs.head? with
    | some (.load _ (.dev pa _) _ _ _ _ _ _ _ _) => dieOf pa != coreDie g.core
    | _ => false
  | _, _ => false

/-- One physical event. -/
def State.physical (s : State) : PhysTurn → State
  | .hbm ln err =>
    if isHbm (64 * ln) then
      { s with hbmErrs := if err = .none then s.hbmErrs.erase ln else s.hbmErrs.set ln err }
    else s
  | .onDie n =>
    if n < 12 then
      let x := s.hbmStacks.getD n Stack.init
      { s with hbmStacks := s.hbmStacks.set n { x with eccErrors := x.eccErrors + 1 } }
    else s
  | .pool gk off err =>
    match s.gangs.get? gk with
    | none => s
    | some g => s.ecc (.core g.core) err fun s =>
        { s with pool := s.pool.setGran (g.ctxPa off / 8) { s.poolGran (g.ctxPa off) with poison := true } }
  | .perch t i err => s.ecc (s.coreOf t) err fun s => s.modT t fun x =>
      { x with perches := x.perches.modify i fun p => { p with bad := true } }
  | .entry t i err => s.ecc (s.coreOf t) err fun s => s.modT t fun x =>
      { x with oc := x.oc.modify i fun e => { e with bad := true } }
  | .latch t n err => s.ecc (s.coreOf t) err fun s => s.modT t fun x =>
      if n = 0 then { x with l0bad := true } else { x with l1bad := true }
  | .l2 ln k err => s.ecc (s.lineUnit ln) err fun s =>
      { s with l2 := s.l2.modify ln fun e => { e with gr := poisonAt e.gr k } }
  | .l1 c ln k err => s.ecc (.core c) err fun s => s.onL1 c ln (poisonAt · k)
  | .alter ln k d g => { s with l2 := s.l2.modify ln fun e => { e with gr := flipAt e.gr k d g } }
  | .alterQueued ln k d g =>
    { s with wqs := s.wqs.modify (msliceOf ln) fun q => q.map fun e => if e.line = ln then { e with gr := flipAt e.gr k d g } else e }
  | .alterL1 c ln k d g => s.onL1 c ln (flipAt · k d g)
  | .flitPass dir group =>
    { s with chain := s.chain.modify (dir + 2 * group) fun g => { g with fails := 0 } }
  | .flitUpdate m k d =>
    { s with replicas := s.replicas.modify m fun r =>
        { r with gr := r.gr.map fun e => if e.1 = k then (k, { e.2 with data := d }) else e } }
  | .flitLoad t k d =>
    if s.overChain t then s.modT t fun x => { x with accs := (x.accs.take 1).map (·.alter k d) ++ x.accs.drop 1 } else s

/-- The command processor's answer to a fault entry of CAUSE 0b100, if it can give one: an entry that finds the log without room,
or unreadable, is left to the driver (04 R96, 17 R385, log entry 88). The opcode table names no event for it. -/
def runSnap (key : Nat) (s : State) : Result :=
  match s.resolveSnap key with
  | some s' => .next s'
  | none => .refused (.notEnabled "RETRY")

end Sys2Proof.Machine
end

