-- ==== Sys2Proof/Machine/Agents.lean ====
section
/-! DEFINITION. The agents of the device: the events that a state can perform by itself, the issue slots that may decide,
evictions, the clock, and one turn of each (log entry 1). Refresh, row management, physical errors, power, the host, the
peers and the results of targeted tests come only as turns. -/

namespace Sys2Proof.Machine

/-! ## Events of a state

An event stands in these lists as its meaning, which `exec` calls for its constructor. -/

/-- Events of threads: their accesses, their sleeps and the code lines they wait for. -/
def State.threadEvents (s : State) : List (State → Result) :=
  s.threads.flatMap fun e =>
    let t := e.1
    let x := e.2
    (match x.accs.head? with
      | some (.load _ (.dev pa _) _ key _ _ _ _ _ none) => [execLoadRequest t, execHbmRead (pa / 64) key .none]
      | some (.load _ _ _ _ _ _ _ _ _ (some _)) => [execLoadDataReturn t]
      | some (.atom _ (.dev pa _) _ _ _ key _ _ _ _ _) => [execL2Atomic t, execHbmRead (pa / 64) key .none]
      | _ => []) ++
    (match x.wait with
      | .sleep _ _ => [execSleepEnd t]
      | .none => match s.gangs.get? (gangOf t) with
        | some g => if !x.live || g.phase != .resident then [] else match s.fetch g x.pc with
          | .miss l => [execInstructionFetch g.core g.aspace l false]
          | _ => []
        | none => []
      | _ => [])

/-- Events of messages, atoms without a thread, replicas, walks, copies and tile instructions. -/
def State.unitEvents (s : State) : List (State → Result) :=
  (s.loose.flatMap fun a => [execL2Atomic a.1, execHbmRead (a.2.pa / 64) a.2.key .none]) ++
  (s.msgs.flatMap fun m => [execLaneMerge m.1, execSliceWrite m.1, execStoreAck m.1] ++
    (match m.2.e.place with | .dev pa _ => [execHbmRead (pa / 64) m.2.e.key .none] | _ => [])) ++
  (s.replicas.flatMap fun m => [execReplicaUpdate m.1, execReplicaAck m.1]) ++
  (s.walks.flatMap fun w => [execPageWalk w.1, execFaultEntryRetry w.1]) ++
  (s.copies.flatMap fun c => [execCopyComplete c.1, runTransfer c.1]) ++
  (s.faults.map fun f => runSnap f.1) ++
  (s.tileOps.map fun o => execTileInstructionComplete o.1) ++
  ((s.l2.filter fun e => e.2.recalled).map fun e => execRecallReturn e.1) ++
  (s.wqs.map fun w => execWriteQueueDrain w.1) ++
  (s.chain.map fun c => execChainLaneRepair (c.1 % 2) (c.1 / 2)) ++
  (if s.rebaseDue then [execRebase] else [])

/-- Events of cores and clusters. -/
def State.coreEvents (s : State) : List (State → Result) :=
  (s.cores.flatMap fun c =>
    (c.2.coal.map fun q => execCoalescerTimeout c.1 q.1) ++
    [execCopyAccept c.1, execAllocatorServe c.1, execAcreDrained c.1, execAcreFilled c.1, execAcreWriteoutAck c.1, execBench c.1,
      execAdmitGang c.1, execPreemptPriority c.1, execPreemptSlice c.1, execDrainedCorePreemption c.1]) ++
  ((List.range 20).flatMap fun c =>
    if s.cores.any fun e => clusterOf e.1 == c && !e.2.glist.isEmpty then [execListAveraging c] else []) ++
  (s.spans.flatMap fun p => match p.2.cluster with | some c => [execSpanAge c] | none => []) ++
  (s.gangs.map fun g => execDeadlockDetect g.1)

/-- Events of queues and launches. -/
def State.queueEvents (s : State) : List (State → Result) :=
  (s.queues.flatMap fun q => if q.2.block.isNone then [] else
    [execLaunch q.1, execWaitBlock q.1, execSignalAdd q.1, execSignalSetCounter q.1, execBranchOn q.1, execSkip q.1, execFence q.1, execInvalidate q.1,
      execUnmapX q.1, execMapX q.1, execWriteCode q.1, execWriteBlock q.1, execTimestamp q.1, execBlockTestRetry q.1]) ++
  (if s.launches.isEmpty then [] else [execDispatch]) ++
  (s.launches.flatMap fun l => [execLaunchComplete l.1, execLaunchReplay l.1, execBinDrain l.1] ++
    (List.range l.2.nodes.length).map fun n => execBinTimer l.1 n)

/-- Events of Porast; of the mailbox, the commands whose arguments the spec places in the command block. -/
def State.porastEvents (s : State) : List (State → Result) :=
  let p := s.porast
  (p.coreScr.map fun e => execScrupleThreshold (.core e.1)) ++ (p.sliceScr.map fun e => execScrupleThreshold (.slice e.1)) ++
  (p.stackScr.map fun e => execScrupleThreshold (.stack e.1)) ++
  (if s.count125 < p.halvedAt + 3600 * 1250000000 then [] else [execScrupleHalving]) ++
  (if p.busy then
    [execKeyLoad (s.cmdByte 8) (s.cmdByte 9) (BitVec.ofNat 256 (leNat ((p.run.drop 16).take 32))), execKeyClear (s.cmdByte 8),
      execSensor, execJournalClear]
    else []) ++
  (match p.migrating with
    | some m => match s.gangs.get? m.gang with
      | some g => [execMigrateReady g.lid g.index, execMigrateTimeout g.lid g.index]
      | none => [execMigrateTimeout 0 0]
    | none => [])

/-- Every event that the state may perform by itself. -/
def State.events (s : State) : List (State → Result) :=
  s.threadEvents ++ s.unitEvents ++ s.coreEvents ++ s.queueEvents ++ s.porastEvents

/-- The issue slots with crews. -/
def State.slots (s : State) : List (Nat × Nat) :=
  s.residentCrews.foldl (fun (l : List (Nat × Nat)) c =>
    let w := s.whereCrew c
    if l.contains w then l else l ++ [w]) []

/-! ## Evictions -/

/-- A unit drops something that it caches: a line of L2, once it has been recalled if it is checked out or tagged (05 R103), a
copy, a code line, the oldest translation of a TLB. -/
def State.evict (s : State) : EvictTarget → State
  | .l2 ln => match s.l2.get? ln with
    | some e =>
      if e.holder != .none && !e.recalled then { s with l2 := s.l2.set ln { e with recalled := true } }
      else (s.recallLine ln).evictL2 ln
    | none => s
  | .l1 c ln => s.setCore c fun x => { x with l1 := x.l1.filter (·.line != ln) }
  | .icache c a ln => s.dropCode c a ln
  | .utlb c i => s.setCore c fun x => { x with utlb := x.utlb.modify i List.dropLast }
  | .tlb c => s.setCore c fun x => { x with tlb := x.tlb.dropLast }
  | .dieTlb d => { s with dieTlb := s.dieTlb.modify d List.dropLast }
  | .walkCache d => { s with walkCache := s.walkCache.modify d List.dropLast }

/-- A translation that some TLB has held since the last invalidation of its page serves a core again, or one of its issue slots (04
R98). -/
def State.useOld (s : State) (core : Nat) (slot : Option Nat) (n : Nat) : State :=
  match s.oldTlb[n]? with
  | none => s
  | some e => s.setCore core fun c => match slot with
    | none => { c with tlb := tlbPut c.tlb 1024 e }
    | some q => { c with utlb := c.utlb.set q (tlbPut (c.utlb.getD q []) 32 e) }

/-! ## The clock -/

/-- Core cycles pass (00 R6, 19 R407: at half the rate during a power excursion). -/
def State.tick (s : State) (n : Nat) : State :=
  { s with time := s.time + n, t125 := s.t125 + n * (if s.halfClock then 250 else 125) }

/-- What follows an agent's step from `old`: the state settles, and a cycle has passed. -/
def after (old : State) : Result → Result
  | .next s => .next ((State.settle old s).tick 1)
  | r => r

/-! ## One decision of an issue slot -/

/-- The first due bundle that can be performed, performed. One whose code line has gone issues anew. -/
def State.runDue (s : State) : List (Nat × List Nat) → Option Result
  | [] => none
  | (ck, ts) :: r =>
    match s.fetchBundle ck ts with
    | .run i s1 => match exec i s1 with
      | .next s2 => if State.moved s s2 ck ts then some (.next s2) else s.runDue r
      | o => some o
    | .done _ | .waits _ => some (.next (s.onThreads ts fun x => { x with wait := .none, due := false }))
    | .none => s.runDue r

/-- Whether a ready thread stalls at issue shows when its instruction is tried, alone or with its shadow: then it keeps its stall, or
waits for its fetch, and was not ready (14 R305, log entry 89). Answers the state after, and whether the thread stalls. -/
def State.tryThread (s : State) (t : Nat) : State × Bool :=
  if !s.isReady t then (s, false)
  else
    let ts := s.pairOf (s.lead t)
    match s.fetchBundle (ckOf t) ts with
    | .waits s1 => (s1, true)
    | .run i s1 => match exec i s1 with
      | .next s2 => if (s2.stalled ts).isEmpty then (s, false) else (s2, true)
      | _ => (s, false)
    | _ => (s, false)

/-- The threads of an issue slot of a core. -/
def State.slotThreads (s : State) (core q : Nat) : List Nat := (s.slotCrews core q).flatMap fun c => s.liveThreads c.1

/-- The decision of a slot among the threads that are ready. None: nothing is ready. -/
def State.slotTry (s : State) (core q : Nat) : Option Result :=
  let (s, found) := (s.slotThreads core q).foldl (fun (r : State × Bool) t =>
    let u := r.1.tryThread t
    (u.1, r.2 || u.2)) (s, false)
  match s.decide core q with
  | .none => if found then some (.next s) else none
  | .waits s1 | .done s1 => some (.next s1)
  | .run i s1 => some (exec i s1)

/-- A decision: due bundles first, then the bundle of the chosen crew; none while a rebase waits (05 R111). None: nothing is
ready. -/
def State.slotTurn (s : State) (core q : Nat) : Option Result :=
  if s.rebaseDue then none
  else match s.runDue (s.dueBundles core q) with
    | some r => some r
    | none => s.slotTry core q

/-! ## Who acts -/

/-- One turn. An instruction with an encoding is no event. -/
def State.takeTurn (s : State) : Turn → Result
  | .event i => if (encode i).isSome then .refused .notAnEvent else after s (exec i s)
  | .slot c q => match s.slotTurn c q with
    | some r => after s r
    | none => after s (.next s)
  | .evict t => after s (.next (s.evict t))
  | .oldTlb c q n => after s (.next (s.useOld c q n))
  | .phys p => after s (.next (s.physical p))
  | .snap d e => after s (runSnap (fkey d e) s)
  | .transfer c => after s (runTransfer c s)
  | .idle n => .next ((State.settle s s).tick n)

/-- The first event of a list that the state performs. -/
def State.firstEvent (s : State) : List (State → Result) → Option State
  | [] => none
  | f :: r => match f s with
    | .next s' => some s'
    | _ => s.firstEvent r

/-- The first issue slot of a list that decides. -/
def State.firstSlot (s : State) : List (Nat × Nat) → Option Result
  | [] => none
  | (c, q) :: r => match s.slotTurn c q with
    | some o => some o
    | none => s.firstSlot r

/-- A list begun at a place that moves on with time, so that every entry comes first in its time. -/
def turnOf (n : Nat) (l : List α) : List α := l.drop (n % l.length) ++ l.take (n % l.length)

/-- What acts where no turn is named: events and issue slots by turns; nothing but the clock where neither can. -/
def State.self (s : State) : Result :=
  let n := s.time / 2
  let ev : Option Result := (s.firstEvent (turnOf n s.events)).map .next
  let sl : Option Result := s.firstSlot (turnOf n s.slots)
  let first := if s.time % 2 = 0 then ev else sl
  let second := if s.time % 2 = 0 then sl else ev
  after s (match first with
    | some r => r
    | none => match second with
      | some r => r
      | none => .next s)

end Sys2Proof.Machine
end

