-- ==== Sys2Proof/Machine/Step.lean ====
section
/-! DEFINITION. One step of the device, and the device with an instruction placed for its next step. -/

namespace Sys2Proof.Machine

/-- One step: the next of the named turns, or what the device does by itself (log entry 1). -/
def step (s : State) : Host.Outcome State Fault Refusal :=
  match s.turns with
  | t :: r => { s with turns := r }.takeTurn t
  | [] => s.self

/-- The device with one more program, whose first instruction is the word `w` of `nbits` bits (the rest of its code line is
zero), and whose issue slot takes the next turn (log entry 3). -/
def State.withFetchWord (s : State) (nbits w : Nat) : State := s.placeProgram (leBytes 4 (w % 2 ^ nbits))

end Sys2Proof.Machine
end

