-- ==== Sys2Proof/Safety.lean ====
section
/-! DEFINITION. What claims are stated with: runs, bundles and what each of their threads does, the registers of a thread, and
the rules' own formulas over register values. -/

namespace Sys2Proof.Machine

/-! ## Runs -/

/-- A step goes on to a next state. -/
def State.goesOn (s : State) : Bool := match step s with | .next _ => true | _ => false

/-- A run of `n` steps that meets neither a fault nor a refusal ends in a state. -/
def State.after (s : State) : Nat → Option State
  | 0 => some s
  | n + 1 => match step s with
    | .next s' => s'.after n
    | _ => none

/-! ## Bundles (14 R305) -/

/-- The threads of the current bundle, in ascending home-lane order. -/
def State.bundleThreads (s : State) : List Nat := s.cur.lanes.map (tkey s.cur.gang s.cur.crew)

/-- The bundle is one of a crew: its home lanes ascend below 32. -/
def State.bundled (s : State) : Prop :=
  s.cur.crew < 32 ∧ s.cur.lanes.Pairwise (· < ·) ∧ ∀ l ∈ s.cur.lanes, l < 32

/-- The bundle's gang exists, and its launch is not protected. -/
def State.unprotected (s : State) : Prop :=
  s.bundled ∧ ∃ g, s.gangs.get? s.cur.gang = some g ∧ g.kernel.protected_ = false

/-- The bundle's gang exists, and its launch is protected (17 R387). -/
def State.isProtected (s : State) : Prop :=
  s.bundled ∧ ∃ g, s.gangs.get? s.cur.gang = some g ∧ g.kernel.protected_ = true

/-- The number that `n` bytes of memory from an address up hold, least significant first. -/
def State.numAt (s : State) (a n : Nat) : Nat := leNat ((List.range n).map fun i => s.memByte (a + i))

/-- The bundle is one pair of a protected launch, `t` its even thread: both live, neither with an instruction's access under way. -/
def State.pairBundle (s : State) (t : Nat) (x y : Thread) : Prop :=
  s.isProtected ∧ (s.gangs.map (·.1)).Pairwise (· < ·) ∧ s.bundleThreads = [t, t + 1] ∧ t % 2 = 0 ∧
    s.threads.get? t = some x ∧ s.threads.get? (t + 1) = some y ∧ x.live = true ∧ y.live = true ∧ x.inAccess = false ∧
    y.inAccess = false

/-- A test of the bundle's gang. -/
def State.gangHas (s : State) (p : Gang → Prop) : Prop := ∃ g, s.gangs.get? s.cur.gang = some g ∧ p g

end Sys2Proof.Machine

namespace Sys2Proof.Claim

open Sys2Proof.Machine

/-- What one thread of a bundle does: from a state, to a state. -/
abbrev LaneStep := State → Nat → State → Prop

/-- Threads act one after another. -/
def Chain (R : LaneStep) : List Nat → State → State → Prop
  | [], s, s' => s' = s
  | t :: r, s, s' => ∃ s1, R s t s1 ∧ Chain R r s1 s'

/-- An instruction completes as its threads do, one after another, for a bundle of any threads of an unprotected launch. -/
def PerLane (i : Instr) (R : LaneStep) : Prop :=
  ∀ s s' : State, s.unprotected → Chain R s.bundleThreads s s' → exec i s = .next s'

/-- The same where the bundle's gang passes a test. -/
def PerLaneIf (p : Gang → Prop) (i : Instr) (R : LaneStep) : Prop :=
  ∀ s s' : State, s.unprotected → s.gangHas p → Chain R s.bundleThreads s s' → exec i s = .next s'

/-- A crew-collective instruction is performed once when the test of 14 R311 has found it due. -/
def CrewOnce (i : Instr) (R : LaneStep) : Prop :=
  ∀ s s' : State, s.unprotected → s.crewDue s.curCrew = true → R s s.curCrew s' → exec i s = .next s'
def CrewOnceIf (p : Gang → Prop) (i : Instr) (R : LaneStep) : Prop :=
  ∀ s s' : State, s.unprotected → s.gangHas p → s.crewDue s.curCrew = true → R s s.curCrew s' → exec i s = .next s'

/-- The values that the members of a lane group have read, by home lane. -/
def member (vals : List (Nat × List Val)) (l : Nat) : Option (List Val) :=
  (vals.find? fun e => laneOf e.1 == l).map (·.2)

/-- A lane instruction whose group has been found due (10 R240): every member reads `srcs`, then every member writes to d what
`f` gives for its home lane from the values of the group, with flags, and completes. -/
def Group (i : Instr) (srcs : List Src) (d : Dst) (f : State → (Nat → Option (List Val)) → Nat → Val × Byte) : Prop :=
  ∀ s s' s1 : State, ∀ vals, s.unprotected →
    (∀ t ∈ s.bundleThreads, ∃ x, s.threads.get? t = some x ∧ x.due = true) →
    laneReads srcs s.bundleThreads s = .ok (vals, s1) →
    Chain (fun s2 t s3 => ∃ s4,
      s2.writeRegs t d.reg.val d.k [(f s (member vals) (laneOf t)).1] = .ok s4 ∧
      s3 = s4.modT t fun y => ((y.raise (f s (member vals) (laneOf t)).2).latch (f s (member vals) (laneOf t)).1).finish
        (s2.codeBase t) s2.cur.len) s.bundleThreads s1 s' →
    exec i s = .next s'

/-- The data of source `n` that the member on lane `l` has read, or a default for a lane without a member. -/
def dataOf (m : Nat → Option (List Val)) (l n : Nat) (e : Word) : Word := match m l with | some vs => dataAt vs n | none => e

/-- An operation over the lanes from 0 up to `n` - 1 in ascending order. -/
def overLanes (op : Word → Word → Word) (ident : Word) (m : Nat → Option (List Val)) (n : Nat) : Word :=
  (List.range n).foldl (fun r l => op r (dataOf m l 0 ident)) ident

/-- A live thread whose sources can be read, with its values. -/
def Reads (s : State) (t : Nat) (srcs : List Src) (x : Thread) (vs : List Val) : Prop :=
  s.threads.get? t = some x ∧ x.live = true ∧ s.readAll t srcs = .ok vs

/-! ## Instructions that write registers -/

/-- The thread reads `srcs`, and writes the values `f` gives from register `r` up as `k` directs; `f` also gives what else
changes in the thread. Then it completes in sequence. `none`: the thread does not complete. -/
def WritesMany (r : Nat) (k : Bool) (srcs : State → Nat → List Src)
    (f : State → Nat → Thread → List Val → Option (List Val × (Thread → Thread))) : LaneStep := fun s t s1 =>
  ∃ x vs e s2, Reads s t (srcs s t) x vs ∧ f s t x vs = some e ∧
    (s.commit t (srcs s t) vs).writeRegs t r k e.1 = .ok s2 ∧
    s1 = s2.modT t fun y => (e.2 y).finish (s.codeBase t) s.cur.len

/-- Such an instruction completes, by what its state and operands give alone, for a bundle of any live threads whose sources can be
read, where `f` accepts what they hold, no load or atom will write the destinations, and each is kept in the cache or resident. -/
def Finishes (i : Instr) (r : Nat) (k : Bool) (srcs : State → Nat → List Src)
    (f : State → Nat → Thread → List Val → Option (List Val × (Thread → Thread))) : Prop :=
  ∀ s : State, s.unprotected →
    (∀ t ∈ s.bundleThreads, ∃ x vs e, Reads s t (srcs s t) x vs ∧
      (∀ q, Src.special (.pop q) ∉ srcs s t) ∧ f s t x vs = some e ∧
      ∀ j, j < e.1.length → slotPending (s.accsOf t) (x.wb + (r + j)) = false ∧
        (k = true ∨ s.resident t x (x.wb + (r + j)) = true)) →
    ∃ s', Chain (WritesMany r k srcs f) s.bundleThreads s s' ∧ exec i s = .next s'

/-- The same for a lane instruction whose group has been found due (10 R240): it completes, and no member is held any more. -/
def GroupFinishes (i : Instr) (srcs : List Src) (d : Dst) : Prop :=
  ∀ s : State, s.unprotected → (∀ q, Src.special (.pop q) ∉ srcs) →
    (∀ t ∈ s.bundleThreads, ∃ x, s.threads.get? t = some x ∧ x.live = true ∧ x.due = true ∧
      slotPending (s.accsOf t) (x.wb + d.reg.val) = false ∧ (d.k = true ∨ s.resident t x (x.wb + d.reg.val) = true) ∧
      ∃ vs, s.readAll t srcs = .ok vs) →
    ∃ s', exec i s = .next s' ∧ ∀ t ∈ s.bundleThreads, ∃ y, s'.threads.get? t = some y ∧ y.live = true ∧ y.due = false

/-- One result, written to d and latched (09 R215), with sticky flags (17 R372). -/
def Writes (d : Dst) (srcs : List Src) (f : State → Nat → Thread → List Val → Val × Byte) : LaneStep :=
  WritesMany d.reg.val d.k (fun _ _ => srcs) fun s t x vs =>
    some ([(f s t x vs).1], fun y => (y.raise (f s t x vs).2).latch (f s t x vs).1)

/-- A point result of the data of the sources, with flags. -/
def Data1F (i : Instr) (d : Dst) (a : Src) (f : Word → Word × Byte) : Prop :=
  PerLane i (Writes d [a] fun _ _ _ vs => (pt (f (dataAt vs 0)).1, (f (dataAt vs 0)).2))
def Data2F (i : Instr) (d : Dst) (a b : Src) (f : Word → Word → Word × Byte) : Prop :=
  PerLane i (Writes d [a, b] fun _ _ _ vs =>
    (pt (f (dataAt vs 0) (dataAt vs 1)).1, (f (dataAt vs 0) (dataAt vs 1)).2))
/-- A point result without flags; a three-input operation also reads d at level 0b00 (03 R54). -/
def Data0 (i : Instr) (d : Dst) (v : Word) : Prop := PerLane i (Writes d [] fun _ _ _ _ => (pt v, 0))
def Data1 (i : Instr) (d : Dst) (a : Src) (f : Word → Word) : Prop := Data1F i d a fun a => (f a, 0)
def Data2 (i : Instr) (d : Dst) (a b : Src) (f : Word → Word → Word) : Prop := Data2F i d a b fun a b => (f a b, 0)
def Data3 (i : Instr) (d : Dst) (a b : Src) (f : Word → Word → Word → Word) : Prop :=
  PerLane i (Writes d [a, b, .oc d.reg] fun _ _ _ vs => (pt (f (dataAt vs 0) (dataAt vs 1) (dataAt vs 2)), 0))

/-- The register g(b) of a 16-bit form, b among g0 to g31 (03 R60). -/
def src16 (b : Reg5) : Src := .oc ⟨b.val, by omega⟩

/-! ## The rules' formulas over words (10 R226 to R232) -/

/-- a[31:0], and a 32-bit result zero-extended. -/
def lo (a : Word) : U32 := a.setWidth 32
def up (r : U32) : Word := r.setWidth 64

/-- An operation of both widths: the 32-bit one on the low halves. -/
def both (w : Width) (f64 : Word → Word → Word) (f32 : U32 → U32 → U32) (a b : Word) : Word :=
  match w with | .w64 => f64 a b | .w32 => up (f32 (lo a) (lo b))
def one (w : Width) (f64 : Word → Word) (f32 : U32 → U32) (a : Word) : Word :=
  match w with | .w64 => f64 a | .w32 => up (f32 (lo a))

/-- The carry out of a + b + d[0], and the borrow out of a - b - d[0]. -/
def carryOut (w : Width) (a b d : Word) : Word :=
  match w with
  | .w64 => if 2 ^ 64 ≤ a.toNat + b.toNat + (d &&& 1).toNat then 1 else 0
  | .w32 => if 2 ^ 32 ≤ (lo a).toNat + (lo b).toNat + (d &&& 1).toNat then 1 else 0
def borrowOut (w : Width) (a b d : Word) : Word :=
  match w with
  | .w64 => if a.toNat < b.toNat + (d &&& 1).toNat then 1 else 0
  | .w32 => if (lo a).toNat < (lo b).toNat + (d &&& 1).toNat then 1 else 0

/-- E(a[23:0]) in 32 bits; the product and the sum wrap modulo 2^32 and are extended as the type says. -/
def e24 (g : Sgn) (a : Word) : U32 :=
  match g with | .n => (a.extractLsb' 0 24).setWidth 32 | .s => (a.extractLsb' 0 24).signExtend 32
def extend32 (g : Sgn) (r : U32) : Word := match g with | .n => r.setWidth 64 | .s => r.signExtend 64

/-- The upper half of the exact 128-bit product. -/
def mulHigh (g : Sgn) (a b : Word) : Word :=
  match g with
  | .n => (a.setWidth 128 * b.setWidth 128).extractLsb' 64 64
  | .s => (a.signExtend 128 * b.signExtend 128).extractLsb' 64 64

/-- a <= b under a signedness. -/
def leq (g : Sgn) (a b : Word) : Bool := match g with | .n => a.ule b | .s => a.sle b

/-- The exact sum saturated, and the lesser of it and d. -/
def addMin (g : Sgn) (a b d : Word) : Word :=
  match g with
  | .n => if d.toNat ≤ a.toNat + b.toNat then d else a + b
  | .s =>
    let t := min (max (a.toInt + b.toInt) (-2 ^ 63)) (2 ^ 63 - 1)
    if d.toInt ≤ t then d else BitVec.ofInt 64 t

/-- The most negative 64-bit value. -/
def least : Word := 0x8000000000000000#64

/-- Quotient and remainder with the flag of each corner (R228, R237). -/
def quotient (g : Sgn) (a b : Word) : Word × Byte :=
  if b = 0 then (BitVec.allOnes 64, 0x20)
  else match g with
    | .n => (a / b, 0)
    | .s => if a = least ∧ b = BitVec.allOnes 64 then (least, 0x40) else (a.sdiv b, 0)
def remainder (g : Sgn) (a b : Word) : Word × Byte :=
  if b = 0 then (a, 0x20)
  else match g with
    | .n => (a % b, 0)
    | .s => if a = least ∧ b = BitVec.allOnes 64 then (0, 0x40) else (a.srem b, 0)

/-- The field that bfe and bfi address: pos is b[5:0], the length stops at bit 63. -/
def fieldPos (b : Word) : Nat := (b.extractLsb' 0 6).toNat
def fieldLen (b : Word) : Nat := min (min (b.extractLsb' 8 7).toNat 64) (64 - fieldPos b)
/-- The low n bits set. -/
def ones (n : Nat) : Word := BitVec.allOnes 64 >>> (64 - n)
def fieldOf (g : Sgn) (a b : Word) : Word :=
  match g with
  | .n => (a >>> fieldPos b) &&& ones (fieldLen b)
  | .s => if fieldLen b = 0 then 0 else (a <<< (64 - fieldPos b - fieldLen b)).sshiftRight (64 - fieldLen b)
def withField (a b d : Word) : Word :=
  (d &&& ~~~(ones (fieldLen b) <<< fieldPos b)) ||| ((a &&& ones (fieldLen b)) <<< fieldPos b)

/-- Byte b[4i+3:4i] of the 16 bytes a, d. -/
def permByte (a b d : Word) (i : Nat) : Byte :=
  let y : BitVec 128 := d ++ a
  (y >>> (8 * (b.extractLsb' (4 * i) 4).toNat)).setWidth 8

/-- A word put together from bytes, byte 7 first. -/
def bytes8 (f : Nat → Byte) : Word := f 7 ++ f 6 ++ f 5 ++ f 4 ++ f 3 ++ f 2 ++ f 1 ++ f 0

/-- |A| sign-extended, IOV for the most negative value. -/
def absolute (w : Width) (a : Word) : Word × Byte :=
  match w with
  | .w64 => if a = least then (a, 0x40) else (if a.msb then -a else a, 0)
  | .w32 => if lo a = 0x80000000#32 then ((lo a).signExtend 64, 0x40)
    else ((if (lo a).msb then -(lo a) else lo a).signExtend 64, 0)

/-- zx or sx of the low bits. -/
def extended (e : ExtKind) (a : Word) : Word :=
  match e with
  | .n8 => (a.setWidth 8).setWidth 64
  | .s8 => (a.setWidth 8).signExtend 64
  | .n16 => (a.setWidth 16).setWidth 64
  | .s16 => (a.setWidth 16).signExtend 64
  | .n32 => (a.setWidth 32).setWidth 64
  | .s32 => (a.setWidth 32).signExtend 64

/-- The shifts by a count below the width. -/
def shiftLeft (w : Width) (a : Word) (c : Nat) : Word := match w with | .w64 => a <<< c | .w32 => up (lo a <<< c)
def shiftRight (w : Width) (a : Word) (c : Nat) : Word := match w with | .w64 => a >>> c | .w32 => up (lo a >>> c)
def shiftArith (w : Width) (a : Word) (c : Nat) : Word :=
  match w with | .w64 => a.sshiftRight c | .w32 => up ((lo a).sshiftRight c)
def rotate (w : Width) (a : Word) (c : Nat) : Word :=
  match w with | .w64 => a.rotateLeft c | .w32 => up ((lo a).rotateLeft c)
/-- A count modulo the width. -/
def count (w : Width) (b : Word) : Nat := match w with | .w64 => b.toNat % 64 | .w32 => b.toNat % 32
/-- An immediate count that the encoding admits (10 R237). -/
def countFits (w : Width) (c : Cnt6) : Prop := match w with | .w64 => True | .w32 => c.val < 32

/-- A relation between two words under a signedness, over w bits (10 R236). -/
def related (g : Sgn) (w : Width) (l : Rel) (a b : Word) : Bool :=
  let a := match w with | .w64 => a | .w32 => extend32 g (lo a)
  let b := match w with | .w64 => b | .w32 => extend32 g (lo b)
  match l with
  | .eq => a == b
  | .ne => a != b
  | .lt => !leq g b a
  | .le => leq g a b
  | .gt => !leq g a b
  | .ge => leq g b a
  | .un => false

/-- The order of predicate values, FALSE below UNDECIDED below TRUE (02 R25). -/
def level : Pred → Int | .f => -1 | .u => 0 | .t => 1

/-- A predicate instruction writes a value of the thread's predicates to p; p7 keeps reading TRUE (02 R24). -/
def WritesPred (p : PReg) (srcs : State → Nat → List Src) (f : State → Nat → Thread → List Val → Option (Pred × Byte)) :
    LaneStep :=
  WritesMany 0 true srcs fun s t x vs => (f s t x vs).map fun r => ([], fun y => (y.raise r.2).setPred p r.1)

/-! ## Floats and intervals (11 R251 to R268) -/

/-- A result with flags that is written to d and latched. -/
def flagged (r : FRes) : List Val × (Thread → Thread) :=
  ([pt (BitVec.ofNat 64 r.1)], fun y => (y.raise r.2).latch (pt (BitVec.ofNat 64 r.1)))

/-- An interval that is written to d, or to d and d + 1, and latched. -/
def bounds (f : FW) (b : Nat × Nat) (fl : Byte) : List Val × (Thread → Thread) :=
  (ivRegs f b, fun y => (y.raise fl).latch ((ivRegs f b).headD (pt 0)))

/-- The form of a float instruction whose operands are points (R251 to R254). -/
def pointOut (f : FW) (ops : List Src) (p : Thread → List Nat → FRes) :
    State → Nat → Thread → List Val → Option (List Val × (Thread → Thread)) := fun _ _ x vs =>
  let os := opdsOf f ops vs
  if os.any Opd.isIv then none else some (flagged (p x (os.map Opd.pnt)))
def Points (f : FW) (d : Dst) (ops : List Src) (p : Thread → List Nat → FRes) : LaneStep :=
  WritesMany d.reg.val d.k (ivSrcs f ops) (pointOut f ops p)

/-- Its form where an operand is an interval and none is empty (R255 to R257): NaI if an operand is NaI, else the bounds that
`g` gives, every zero bound +0. -/
def intervalOut (f : FW) (d : Dst) (ops : List Src) (g : List (Nat × Nat) → Option (Nat × Nat)) :
    State → Nat → Thread → List Val → Option (List Val × (Thread → Thread)) := fun _ _ _ vs =>
  let os := opdsOf f ops vs
  let bs := os.map (Opd.promote f.fmt)
  if os.any Opd.isIv && !(bs.any fun b => isEmptyIv f.fmt b.1 b.2) && !(f == .f64 && d.reg.val % 2 == 1) then
    if bs.any fun b => isNaI f.fmt b.1 b.2 then some (bounds f (naI f.fmt) 0)
    else (g bs).map fun b => bounds f (posZero f.fmt b.1, posZero f.fmt b.2) 0
  else none
def Intervals (f : FW) (d : Dst) (ops : List Src) (g : List (Nat × Nat) → Option (Nat × Nat)) : LaneStep :=
  WritesMany d.reg.val d.k (ivSrcs f ops) (intervalOut f d ops g)

/-- Both forms, with what the instruction does where its threads do so, and when they do. -/
def FloatForms (i : Instr) (f : FW) (d : Dst) (ops : List Src) (p : Thread → List Nat → FRes)
    (g : List (Nat × Nat) → Option (Nat × Nat)) : Prop :=
  PerLane i (Points f d ops p) ∧ PerLane i (Intervals f d ops g) ∧
  Finishes i d.reg.val d.k (ivSrcs f ops) (pointOut f ops p) ∧
  Finishes i d.reg.val d.k (ivSrcs f ops) (intervalOut f d ops g)

/-- A conversion from a 16-bit or integer source of kind 0 (R258). -/
def dataOut (p : Thread → Nat → Word × Byte) : State → Nat → Thread → List Val → Option (List Val × (Thread → Thread)) :=
  fun _ _ x vs =>
    if (valAt vs 0).kind then none
    else
      let r := p x (dataAt vs 0).toNat
      some ([pt r.1], fun y => (y.raise r.2).latch (pt r.1))
def FromData (i : Instr) (d : Dst) (a : Src) (p : Thread → Nat → Word × Byte) : Prop :=
  PerLane i (WritesMany d.reg.val d.k (fun _ _ => [a]) (dataOut p)) ∧ Finishes i d.reg.val d.k (fun _ _ => [a]) (dataOut p)

/-- An instruction on a point of a float type, a conversion among them. -/
def convOut (f : FW) (a : Src) (p : Thread → Nat → Word × Byte) :
    State → Nat → Thread → List Val → Option (List Val × (Thread → Thread)) := fun _ _ x vs =>
  match opdsOf f [a] vs with
  | .pt v :: _ =>
    let r := p x v
    some ([pt r.1], fun y => (y.raise r.2).latch (pt r.1))
  | _ => none
def FromPoint (i : Instr) (f : FW) (d : Dst) (a : Src) (p : Thread → Nat → Word × Byte) : Prop :=
  PerLane i (WritesMany d.reg.val d.k (ivSrcs f [a]) (convOut f a p)) ∧
  Finishes i d.reg.val d.k (ivSrcs f [a]) (convOut f a p)

/-- An instruction that takes its operands by kind and writes a point, or does not complete. -/
def opdOut (f : FW) (a : Src) (p : Opd → Option Nat) :
    State → Nat → Thread → List Val → Option (List Val × (Thread → Thread)) := fun _ _ _ vs =>
  (p ((opdsOf f [a] vs).headD (.pt 0))).map fun n => flagged (n, 0)
def FromOpd (i : Instr) (f : FW) (d : Dst) (a : Src) (p : Opd → Option Nat) : Prop :=
  PerLane i (WritesMany d.reg.val d.k (ivSrcs f [a]) (opdOut f a p)) ∧ Finishes i d.reg.val d.k (ivSrcs f [a]) (opdOut f a p)

/-- An instruction that builds an interval of two operands, with flags. -/
def Builds (f : FW) (d : Dst) (a b : Src) (p : List Opd → Option ((Nat × Nat) × Byte)) : LaneStep :=
  WritesMany d.reg.val d.k (ivSrcs f [a, b]) fun _ _ _ vs => (p (opdsOf f [a, b] vs)).map fun r => bounds f r.1 r.2

/-- A packed form: two 16-bit elements, each rounded once (R253). -/
def Packed (p : PW) (d : Dst) (ops : List Src) (g : Rm → List FP → FRes) : LaneStep :=
  WritesMany d.reg.val d.k (fun _ _ => ops) fun _ _ x vs =>
    if vs.any (·.kind) then none
    else
      let el (i : Nat) : FRes := g x.rm (vs.map fun v => p.fmt.decode (v.data.toNat / 2 ^ (16 * i) % 2 ^ 16))
      some (flagged ((el 0).1 + 2 ^ 16 * (el 1).1, (el 0).2 ||| (el 1).2))

/-- Point arithmetic: subnormal .f32 inputs and results become zeros under FTZ, the direction is fpmode.RM (R251). -/
def arith (f : FW) (g : Rm → List FP → FRes) (x : Thread) (l : List Nat) : FRes :=
  ftzOut f x (g x.rm (l.map fun v => f.fmt.decode (ftzIn f x v)))

/-! ## Instructions that change a thread's control state -/

/-- The thread reads `srcs` and then stands as `f` says; `none`: it does not complete. -/
def Sets (srcs : List Src) (f : State → Nat → Thread → List Val → Option Thread) : LaneStep := fun s t s1 =>
  ∃ x vs y z, Reads s t srcs x vs ∧ (f s t x vs).isSome ∧ (s.commit t srcs vs).threads.get? t = some y ∧
    f s t y vs = some z ∧ s1 = (s.commit t srcs vs).setT t z

/-- Completion in sequence (14 R319). -/
def seq (s : State) (t : Nat) (y : Thread) : Thread := y.finish (s.codeBase t) s.cur.len

/-- Threads that take a cause together, each with its xval: of several, every trap record has its thread's cause before the first is
delivered; then they trap one after another (17 R365, R382). -/
def takeAll (s : State) (c : Byte) (l : List (Nat × Word)) : State :=
  l.foldl (fun s e => s.trapT e.1 c e.2 none)
    (if l.length ≤ 1 then s
      else l.foldr (fun e s => match s.gangs.get? (gangOf e.1) with
        | some g => s.recordTrap g e.1 e.2 (c.setWidth 64)
        | none => s) s)

/-- For a bundle of any threads of an unprotected launch that can all read `srcs` and satisfy `p`, every thread takes a precise trap
at its instruction, with the xval that `v` gives. -/
def Traps (i : Instr) (srcs : List Src) (p : State → Nat → Thread → List Val → Prop) (c : Byte)
    (v : State → Nat → Thread → List Val → Word) : Prop :=
  ∀ (s : State) (x : Nat → Thread) (vs : Nat → List Val), s.unprotected →
    (∀ t ∈ s.bundleThreads, Reads s t srcs (x t) (vs t) ∧ p s t (x t) (vs t)) →
    exec i s = .next (takeAll s c (s.bundleThreads.map fun t => (t, v s t (x t) (vs t))))
def TrapsIf (q : Gang → Prop) (i : Instr) (c : Byte) (v : State → Word) : Prop :=
  ∀ s : State, s.unprotected → s.gangHas q → (∀ t ∈ s.bundleThreads, ∃ x, s.threads.get? t = some x ∧ x.live = true) →
    exec i s = .next (takeAll s c (s.bundleThreads.map fun t => (t, v s)))

/-- Both threads of a pair take SHADOW_MISMATCH (17 R389). -/
def mismatched (s : State) (t : Nat) (v : Word) : State := takeAll s 0x30 [(t, v), (t + 1, v)]

/-! ## Lines and entries (04 R77, 05 R109, 08 R190) -/

/-- A line of L2 that stands there whole, under a key, and that a core may reach without a recall. -/
def standsAt (s : State) (ln : Nat) (key core : Nat) (l : L2Line) : Prop :=
  s.l2.get? ln = some l ∧ l.key = key ∧ l.gr.length = 8 ∧ l.holder.open (some core) = true

/-- HBM and the pool in their canonical form, and every queued write a whole line of its slice. -/
def queuesOrdered (s : State) : Prop :=
  Memory.wf s = true ∧ ∀ m, ∀ e ∈ s.wqs.getD m [], e.gr.length = 8 ∧ msliceOf e.line = m

/-- A line stands in L2, or its set of 16 ways has room for it (05 R102). -/
def hasRoom (s : State) (ln : Nat) : Prop :=
  (s.l2.get? ln).isSome = true ∨ (s.l2.filter fun e => l2Set e.1 == l2Set ln).length < 16

/-- An entry whose bytes ascend in place below 64. -/
def entryOrdered (e : StoreEntry) : Prop :=
  (e.bytes.map (·.1)).Pairwise (· < ·) ∧ ∀ b ∈ e.bytes, b.1 < 64

/-! ## Queues and the mailbox (15 R326, 19 R407) -/

/-- A block that a running queue has in hand, whose test has passed, and whose AFTER, if set, is met, while no rebase is due. -/
def BlockInHand (s : State) (q : Nat) (b : Block) : Prop :=
  s.rebaseDue = false ∧ (s.queue q).block = some b ∧ (s.queue q).enable = true ∧ (s.queue q).state = 1 ∧ (s.queue q).passed = true ∧
    (b.after = true → s.earlier q = false)

/-! ## Code (14 R313, 17 R370) -/

/-- The halfword `h` of a gang's code stands at an address: even, within the code extent, in a line of its core's instruction
cache that is not poisoned. -/
def CodeHalf (s : State) (g : Gang) (a h : Nat) : Prop :=
  a % 2 = 0 ∧ a < 2 ^ 57 ∧ g.kernel.covers a = true ∧
    ∃ l, s.icLine g.core g.aspace (a / 64) = some l ∧ l.refused = false ∧ l.poison = false ∧ l.half a = h

/-- The state after a list of threads has been tried for a stall at issue (14 R305, log entry 89). -/
def tried (s : State) (l : List Nat) : State := l.foldl (fun u t => (u.tryThread t).1) s

/-! ## Lists of gangs (15 R342) -/

/-- Every gang in a core's list is one that the core lists, once. -/
def listsAgree (s : State) : Prop :=
  ∀ c, (s.core c).glist.Nodup ∧ ∀ gk ∈ (s.core c).glist, ∃ g, s.gangs.get? gk = some g ∧ g.core = c

/-! ## What each instruction does, where it is neither a register result nor an event -/

/-- An interval that is built: NaI stays; an empty one is written by the .e forms alone, with EMPTY; zero bounds are +0 (11 R264, R265). -/
def ivMade (F : Fmt) (e : Bool) (b : Nat × Nat) : Option ((Nat × Nat) × Byte) :=
  if isNaI F b.1 b.2 then some (naI F, 0)
  else if isEmptyIv F b.1 b.2 then (if e then some (emptyIv F, fEMPTY) else none)
  else some ((posZero F b.1, posZero F b.2), 0)

/-- ivmk: the lower bound of a and the upper of b, none of them empty; NaI if one of them is (R257). -/
def ivMake (F : Fmt) (e : Bool) (os : List Opd) : Option ((Nat × Nat) × Byte) :=
  if firstEmptyOpd F 1 os ≠ 0 then none
  else if os.any fun o => match o with | .iv lo hi => isNaI F lo hi | .pt _ => false then some (naI F, 0)
  else ivMade F e
    (match os.getD 0 (.pt 0) with | .pt v => v | .iv lo _ => lo, match os.getD 1 (.pt 0) with | .pt v => v | .iv _ hi => hi)

/-- Hull and intersection: NaI if an operand is NaI. -/
def ivSet (F : Fmt) (e : Bool) (g : List (Nat × Nat) → Nat × Nat) (os : List Opd) : Option ((Nat × Nat) × Byte) :=
  let bs := os.map (Opd.promote F)
  if bs.any fun b => isNaI F b.1 b.2 then some (naI F, 0) else ivMade F e (g bs)

/-- A point taken from an operand: of a point by `pv`, of an interval by `g`, of an empty one `e`. -/
def ivTake (F : Fmt) (pv : Nat → Nat) (g : Nat → Nat → Nat) (e : Option Nat) (o : Opd) : Option Nat := match o with
  | .pt v => some (pv v)
  | .iv lo hi => if isNaI F lo hi then some F.nan else if isEmptyIv F lo hi then e else some (g lo hi)

/-- fcmp of two operands: of points by the relation; of intervals three-valued, `none` for an empty one with an ordered relation (11 R263, R267). -/
def fcmpOf (f : FW) (l : Rel) (a b : Src) (vs : List Val) : Option (Pred × Byte) :=
  let F := f.fmt
  let os := opdsOf f [a, b] vs
  let bs := os.map (Opd.promote F)
  if os.any Opd.isIv then
    if bs.any fun b => isEmptyIv F b.1 b.2 then (if l = .un then some (.f, 0) else none)
    else if bs.any fun b => isNaI F b.1 b.2 then some (if l = .un then .t else .u, 0)
    else some (fcmpIv F l (bndAt bs 0) (bndAt bs 1), 0)
  else some (fcmpPt F l (natAt (os.map Opd.pnt) 0) (natAt (os.map Opd.pnt) 1))

/-- ivin: whether the interval a lies in b (11 R268). -/
def ivinOf (f : FW) (a b : Src) (vs : List Val) : Option (Pred × Byte) :=
  let F := f.fmt
  let bs := (opdsOf f [a, b] vs).map (Opd.promote F)
  let x := bndAt bs 0
  let y := bndAt bs 1
  if bs.any fun b => isEmptyIv F b.1 b.2 then some (.f, 0)
  else if bs.any fun b => isNaI F b.1 b.2 then some (.u, 0)
  else if F.key y.1 ≤ F.key x.1 ∧ F.key x.2 ≤ F.key y.2 then some (.t, 0)
  else if F.key x.2 < F.key y.1 ∨ F.key y.2 < F.key x.1 then some (.f, 0)
  else some (.u, 0)

/-- A taken branch: the levels whose body does not hold the thread end, and it goes to its target (14 R315, R320). -/
def goesTo (s : State) (t : Nat) (y : Thread) (pc : Word) : Thread :=
  { y with loops := leaveLoops (s.codeBase t) pc.toNat y.loops }.transfer pc

/-- The target of a relative branch, inside the address space. -/
def branchTo (o : Off19) (s : State) (t : Nat) (y : Thread) : Option Thread :=
  let target : Int := (y.pc.toNat : Int) + 2 * o.toInt
  if 0 ≤ target ∧ target < 2 ^ 57 then some (goesTo s t y (y.pc + 2 * o.signExtend 64)) else none

/-- The target of a relative branch lies outside the address space. -/
def leavesSpace (o : Off19) (y : Thread) : Prop :=
  (y.pc.toNat : Int) + 2 * o.toInt < 0 ∨ 2 ^ 57 ≤ (y.pc.toNat : Int) + 2 * o.toInt

/-- An active level whose end-of-body step comes after an instruction at a thread's PC that `n` follows (14 R319). -/
def bodyEnds (y : Thread) (cb n : Nat) (k : Fin 3) : Prop :=
  y.loops[k].active = true ∧ y.loops[k].last cb = n ∧ y.loops[k].first cb ≤ y.pc.toNat

/-- call with room for its window (09 R219). -/
def Calls (o : Off19) (n : N8) : LaneStep := fun s t s1 =>
  ∃ x s2 s3, s.threads.get? t = some x ∧ x.live = true ∧ x.wb + 8 * n.val + 64 ≤ s.stackN t ∧
    (s.setT t { x with wb := x.wb + 8 * n.val }).rangeMove t = (s2, none) ∧
    s2.writeRegs t 63 true [pt (BitVec.ofNat 64 (n.val * 2 ^ 60 + (x.pc + 4).toNat))] = .ok s3 ∧
    s1 = s3.modT t fun y => y.transfer (x.pc + 2 * o.signExtend 64)

/-- ret with a well-formed link (09 R220). -/
def Rets : LaneStep := fun s t s1 => ∃ x vs, Reads s t [.oc 63] x vs ∧
  let link := dataAt vs 0
  let n8 := (link.extractLsb' 60 3).toNat
  n8 ≠ 0 ∧ link.getLsbD 63 = false ∧ link.extractLsb' 57 3 = 0 ∧ link.getLsbD 0 = false ∧ 8 * n8 ≤ x.wb ∧
  ((s.commit t [.oc 63] vs).modT t fun y =>
    ({ y with wb := y.wb - 8 * n8 }.freeAbove).transfer ((link.extractLsb' 0 57).setWidth 64)).rangeMove t = (s1, none)

/-- ret with g63 holding no link (09 R220): STACK_LIMIT with reason 0x02. -/
def RetTraps : Prop :=
  let n8 (link : Word) : Nat := (link.extractLsb' 60 3).toNat
  Traps .ret [.oc 63] (fun _ _ x vs => let link := dataAt vs 0
    n8 link = 0 ∨ link.getLsbD 63 = true ∨ link.extractLsb' 57 3 ≠ 0 ∨ link.getLsbD 0 = true ∨ x.wb < 8 * n8 link) 0x22
    fun _ _ x vs => BitVec.ofNat 64 (((x.wb : Int) - 8 * n8 (dataAt vs 0)) % 2 ^ 32).toNat <<< 32 ||| 2

/-- ocflush (09 R221). -/
def Flushes : LaneStep := fun s t s1 => ∃ x s2, s.threads.get? t = some x ∧ x.live = true ∧
  flushFrom t (x.oc.map (·.1)) s = .ok s2 ∧
  s1 = (s2.modC (ckOf t) fun c => { c with pins := c.pins.filter fun i => !(x.oc.map (·.1)).contains i }).modT t
    fun y => seq s2 t y

/-- ockeep of level 0b00 (09 R222). -/
def Keeps (r : Reg) : LaneStep := fun s t s1 => ∃ x vs, Reads s t [.oc r] x vs ∧
  s1 = ((s.commit t [.oc r] vs).modC (ckOf t) fun c =>
    let p := c.pins.filter (· != x.wb + r.val) ++ [x.wb + r.val]
    { c with pins := if 8 < p.length then p.drop 1 else p }).modT t fun y => seq s t y

/-- ockeep of level 0b10. -/
def Unkeeps (r : Reg) : LaneStep := fun s t s1 => ∃ x, s.threads.get? t = some x ∧ x.live = true ∧
  s1 = (s.modC (ckOf t) fun c => { c with pins := c.pins.filter (· != x.wb + r.val) }).modT t fun y => seq s t y

/-- exit of a thread whose accesses have bound (14 R317). -/
def Exits : LaneStep := fun s t s1 => ∃ x, s.threads.get? t = some x ∧ x.live = true ∧ x.accs = [] ∧
  let s2 := s.setT t { x with live := false, wait := .none, due := false }
  s1 = if s2.liveThreads (ckOf t) = [] then (s2.departCrew (gangOf t) (crewOf t)).checkGangEnd (gangOf t) else s2

/-- Trap entry (17 R365). -/
def entersTrap (x : Thread) (cb : Nat) (cause v xpc : Word) : Thread := { x with
    xpc, xcause := cause, xval := v, xdepth := true
    save := { mt := x.mt, l0 := x.l0, l1 := x.l1, l0bad := x.l0bad, l1bad := x.l1bad, preds := x.preds, loops := x.loops }
    mt := 1, loops := x.loops.map fun l => { l with active := false }, wb := x.wb + 64
    pc := BitVec.ofNat 64 (cb + 2 * (x.xvec.setWidth 32).toNat), wait := .none, due := false }

/-- A thread with a handler and room for its window. -/
def Handled (s : State) (t : Nat) (x : Thread) (cause v xpc : Word) (s1 : State) : Prop := ∃ g, s.gangs.get? (gangOf t) = some g ∧ x.xdepth = false ∧ x.xvec.setWidth 32 ≠ 0#32 ∧ x.wb + 128 ≤ g.stackN ∧
    s1 = (((s.recordTrap g t v cause).leaveQueues t).setT t (entersTrap x g.kernel.codeBase cause v xpc)).moveRange t

/-- A thread without a handler, in its handler, or without room for its window (17 R365, R383). -/
def Unhandled (s : State) (t : Nat) (x : Thread) (cause : Nat) (v : Word) (s1 : State) : Prop := ∃ g, s.gangs.get? (gangOf t) = some g ∧ (x.xdepth = true ∨ x.xvec.setWidth 32 = 0#32 ∨ g.stackN < x.wb + 128) ∧
    s1 = (s.recordTrap g t v (BitVec.ofNat 64 cause)).contain g.slot cause g.detail true

/-- tret at depth 1 (17 R374). -/
def ReturnsFromTrap : LaneStep := fun s t s1 => ∃ x, s.threads.get? t = some x ∧ x.live = true ∧ x.xdepth = true ∧
  let y := { x with wb := x.wb - 64 }.freeAbove
  let z := { y with
    mt := x.save.mt, l0 := x.save.l0, l1 := x.save.l1, l0bad := x.save.l0bad, l1bad := x.save.l1bad, preds := x.save.preds
    loops := x.save.loops, xdepth := false
    sleepLeftX := none, sleepLeft := x.sleepLeft.filter fun e => e.1 == x.xpc, pc := x.xpc, wait := if x.xpc = x.save.mt then .meet else .none, due := false }
  s1 = ((s.setT t z).moveRange t).deliverPend t

/-- A load of device memory or of a pad is issued, and the thread goes on (08 R184, R186, R199). -/
def Issues (form : LoadForm) (size scale : Nat) (d : Dst) (a : Src) (i : Imm9) : LaneStep := fun s t s1 =>
  ∃ x vs g, Reads s t [a] x vs ∧
    let va := dataAt vs 0 + BitVec.ofInt 64 (i.toInt * scale)
    s.resolve t va size .load = .ok g ∧ g.place.isPeer = false ∧
    (∀ j, j < form.regs → slotPending (s.accsOf t) (x.wb + d.reg.val + j) = false) ∧ loadsOf x.accs < 32 ∧
    s1 = ((s.sendThread t).commit t [a] vs).modT t fun y =>
      seq (s.sendThread t) t
        { y with accs := y.accs ++ [.load va g.place size g.key form (x.wb + d.reg.val) d.k none none none] }

/-- ld.iv waits at its instruction (08 R187). -/
def IvIssues (f : FW) (d : Dst) (a : Src) : LaneStep := fun s t s1 =>
  ∃ x vs g, Reads s t [a] x vs ∧
    let form : LoadForm := match f with | .f32 => .iv32 | .f64 => .iv64
    let size := match f with | .f32 => 8 | .f64 => 16
    s.resolve t (dataAt vs 0) size .load = .ok g ∧ g.place.isPeer = false ∧
    (∀ j, j < form.regs → slotPending (s.accsOf t) (x.wb + d.reg.val + j) = false) ∧ loadsOf x.accs < 32 ∧
    s1 = ((s.sendThread t).holdPops t [a]).modT t fun y => { y with
      accs := y.accs ++ [.load (dataAt vs 0) g.place size g.key form (x.wb + d.reg.val) d.k none (some [a]) none]
      wait := .regs }

/-- A load from the peer window waits at its instruction (05 R106). -/
def FromPeer (form : LoadForm) (size scale : Nat) (d : Dst) (a : Src) (i : Imm9) : LaneStep := fun s t s1 =>
  ∃ x vs g pa, Reads s t [a] x vs ∧
    let va := dataAt vs 0 + BitVec.ofInt 64 (i.toInt * scale)
    s.resolve t va size .load = .ok g ∧ g.place = .peer pa ∧
    (∀ j, j < form.regs → slotPending (s.accsOf t) (x.wb + d.reg.val + j) = false) ∧ x.accs = [] ∧
    s1 = (((s.sendThread t).askPeer (.load t pa)).holdPops t [a]).modT t fun y => { y with
      accs := y.accs ++ [.load va g.place size g.key form (x.wb + d.reg.val) d.k none (some [a]) none], wait := .regs }

/-- A store of `n` registers enters the coalescer (08 R189, R190). -/
def Coalesces (size scale n : Nat) (d : Reg) (a : Src) (i : Imm9) : LaneStep := fun s t s1 =>
  let srcs := a :: (List.range n).map fun j => Src.oc (d + Fin.ofNat 64 j)
  ∃ x vs g, Reads s t srcs x vs ∧
    let va := dataAt vs 0 + BitVec.ofInt 64 (i.toInt * scale)
    s.resolve t va size .store = .ok g ∧ storesOf x.accs < 32 ∧
    s1 = ((s.commit t srcs vs).enterStore t va g
      (((vs.drop 1).flatMap fun v => leBytes (Nat.min size 8) v.data.toNat))).modT t fun y => seq s t y

/-- A store completes for its bundle; then the entries that are full are sent. -/
def Stored (j : Instr) (R : LaneStep) : Prop := ∀ s s' : State, s.unprotected → Chain R s.bundleThreads s s' →
  exec j s = .next (s'.sendFull (s'.whereCrew s.curCrew).1 (s'.whereCrew s.curCrew).2)

/-- st.iv of an interval or a point (08 R189). -/
def IvCoalesces (f : FW) (d : Reg) (a : Src) : LaneStep := fun s t s1 =>
  let srcs := a :: ivSrcs f [.oc d] s t
  let size := match f with | .f32 => 8 | .f64 => 16
  ∃ x vs g, Reads s t srcs x vs ∧ s.resolve t (dataAt vs 0) size .store = .ok g ∧ storesOf x.accs < 32 ∧
    s1 = ((s.commit t srcs vs).enterStore t (dataAt vs 0) g (ivImage f d (vs.drop 1))).modT t fun y => seq s t y

/-- atom by its place and scope (08 R193, R195, 05 R117). -/
def Atoms (w : Width) (op : AtomOp) (sc : Scope) (d : Dst) (a : Src) : LaneStep := fun s t s1 =>
  let srcs := [a, .oc d.reg] ++ (if op = .cas then [Src.oc (d.reg + 1)] else [])
  ∃ x vs r g, Reads s t srcs x vs ∧ s.gangs.get? (gangOf t) = some g ∧
    s.resolve t (dataAt vs 0) (wbits w / 8) .atomic = .ok r ∧ r.rep = false ∧ x.accs = [] ∧
    let f (old : Word) : Nat := atomNew op w old (dataAt vs 1) (dataAt vs 2)
    let b := Nat.max x.lt (s.srcTimes t srcs 0 srcs)
    let done (q : Word × Nat × State) : Prop := ∃ s2,
      (q.2.2.commit t srcs vs).writeRegs t d.reg.val d.k [atomResult op w q.1] = .ok s2 ∧
      s1 = s2.modT t fun y => { y with lt := q.2.1 }.finish (q.2.2.codeBase t) s.cur.len
    let waits (s0 : State) : Prop := s1 = (s0.holdPops t [a]).modT t fun y => { y with
      accs := [.atom (dataAt vs 0) r.place w op sc r.key (x.wb + d.reg.val) d.k (dataAt vs 1) (dataAt vs 2) srcs]
      wait := .regs }
    match r.place, sc with
    | .pad p off, _ => ∃ q, s.atomPad p off w f b = .ok q ∧ done q
    | .peer pa, _ => waits (s.askPeer (.atom t pa))
    | .dev pa gpa, .gang => ∃ q, s.atomLine pa gpa r.key w f .gang (gangOf t) (.core g.core) b = .ok q ∧ done q
    | .dev pa gpa, .span =>
      ∃ q, s.atomLine pa gpa r.key w f .span g.span (.cluster (g.core / 8)) b = .ok q ∧ done q
    | .dev _ _, .dev => waits s
    | .dev _ _, .sys => waits s

/-- scope.drop (08 R196). -/
def DropsScope (a : Src) : LaneStep := fun s t s1 => ∃ x vs, Reads s t [a] x vs ∧ x.accs = [] ∧ (dataAt vs 0).toNat < 2 ^ 57 ∧
  ((windowBase ≤ (dataAt vs 0).toNat ∧ s1 = (s.commit t [a] vs).modT t fun y => seq s t y) ∨
   ((dataAt vs 0).toNat < windowBase ∧ ∃ g, s.resolve t (dataAt vs 0) 1 .load = .ok g ∧
    let s2 := match g.place, g.rep with
      | .dev pa _, false =>
        let r := s.recallLine (pa / 64)
        { r with l2 := r.l2.modify (pa / 64) fun e => { e with tag := none } }
      | _, _ => s
    s1 = (s2.commit t [a] vs).modT t fun y => seq s2 t y))

/-- fence.rep with nothing unacknowledged (08 R197, 05 R123). -/
def FencesReplicas : LaneStep := fun s t s1 => ∃ x, s.threads.get? t = some x ∧ x.live = true ∧ s.accsOf t = [] ∧ x.reps = [] ∧
  s1 = (s.closeReps (RepMark.dropThread t)).setT t (seq s t { x with lt := Nat.max x.lt x.repTs, repTs := 0 })

/-- pf (08 R198). -/
def Prefetches (a : Src) : LaneStep := fun s t s1 => ∃ x vs g, Reads s t [a] x vs ∧ s.gangs.get? (gangOf t) = some g ∧
  let va := (dataAt vs 0).toNat
  let s2 := if va < windowBase then
      match s.xlateFill g.core g.aspace va .load (s.replSlot g) with
      | (.ok e, s3) => match e.place va g.core with
        | .dev pa _ =>
          let r := s3.lineLoad (pa / 64) (leafKey e.leaf) x.lt
          r.2.putL1 g.core ⟨pa / 64, r.1.line, r.1.wts, r.1.rts, r.1.time, leafKey e.leaf⟩
        | _ => s3
      | (_, s3) => s3
    else s
  s1 = (s2.commit t [a] vs).modT t fun y => seq s t y

/-- wait whose selected classes have at most `c` outstanding (08 R200). -/
def Waits (c : Byte) (m : Mask4) : LaneStep := fun s t s1 => ∃ x, s.threads.get? t = some x ∧ x.live = true ∧
  (m.getLsbD 0 = true → loadsOf (s.accsOf t) ≤ c.toNat) ∧ (m.getLsbD 1 = true → storesOf (s.accsOf t) ≤ c.toNat) ∧
  (m.getLsbD 2 = true → atomsOf (s.accsOf t) ≤ c.toNat) ∧ (m.getLsbD 3 = true → s.copiesOf (ckOf t) ≤ c.toNat) ∧
  s1 = s.modT t fun y => seq s t { y with
    lt := Nat.max y.lt (if m.getLsbD 3 then (match s.crews.get? (ckOf t) with | some k => k.copyTs | none => 0) else 0) }

/-- qput to a queue with room (16 R357). -/
def Pushes (q : QReg) (a : Src) : LaneStep := fun s t s1 => ∃ x vs y, q.val < s.queueCount t ∧ Reads s t [a] x vs ∧ x.accs = [] ∧
  let s2 := s.commit t [a] vs
  s2.threads.get? t = some y ∧ s.pushTurn t q.val = true ∧ ((s2.queuesOf (gangOf t))[q]).length < 16 ∧
  s1 = (s2.modG (gangOf t) fun g => { g with
    queues := g.queues.set q (g.queues[q] ++ [{ data := dataAt vs 0, time := y.lt }])
    pushes := g.pushes.filter (·.2 != t) }).modT t fun z => seq s t z

/-- The barriers of a gang exist up to BARRIERS; a crew that arrives; one that waits for its ticket's phase (16 R350 to R352). -/
def hasBar (n : BReg) (g : Gang) : Prop := n.val < g.kernel.barriers
def arrives (s : State) (ck n : Nat) : State := s.barArrive (ck / 32) (ck % 32) n
def Awaits (sync : Bool) (n : BReg) : LaneStep := fun s ck s1 => ∃ b tp, s.barOf ck n = some (b, tp) ∧
  s1 = if b.ph = tp then s.crewWait ck (.bar n.val sync) else s.barLeave (ck / 32) (ck % 32) n.val

/-- bar.arr, bar.sync, bar.exp and sbar of a crew whose accesses have bound (16 R349, R352, R354). -/
def BarArr (n : BReg) : LaneStep := fun s ck s1 => s.crewDrained ck = true ∧ ∃ b tp, s.barOf ck n = some (b, tp) ∧
  s1 = if b.arr.getLsbD (ck % 32) then s.crewWait ck (.barArr n.val)
    else ((arrives s ck n.val).finishCrew ck).barComplete (ck / 32) n.val 40
def BarSync (n : BReg) : LaneStep := fun s ck s1 => s.crewDrained ck = true ∧ ∃ b tp, s.barOf ck n = some (b, tp) ∧
  Awaits true n (if b.arr.getLsbD (ck % 32) then s else (arrives s ck n.val).barComplete (ck / 32) n.val 40) ck s1
def BarExp (n : BReg) (c : KReg16) : LaneStep := fun s ck s1 => s.kPending ck c.val = false ∧
  s1 = (((s.observeK ck (k16 c)).modG (ck / 32) fun g => { g with
    bars := g.bars.set n { g.bars[n] with
      exp := Nat.min (s.kreg ck (k16 c)).toNat 32, xset := true, seen := g.bars[n].arr } }).finishCrew ck).barComplete
    (ck / 32) n.val 40

def SpanBarrier (n : Fin4) : LaneStep := fun s ck s1 => s.crewDrained ck = true ∧ ∃ g sp s2 sq y,
  s.gangs.get? (ck / 32) = some g ∧ s.spans.get? g.span = some sp ∧
  let c := 32 * g.spanPos + ck % 32
  s2 = (if sp.bars[n].arr.getLsbD c then s
    else (((s.modS g.span fun sp' => { sp' with bars := sp'.bars.set n { sp.bars[n] with
        arr := sp.bars[n].arr ||| BitVec.ofNat 256 (2 ^ c), bt := Nat.max sp.bars[n].bt (s.maxLt (s.liveThreads ck)) } }).modC ck
      fun y => { y with ts := y.ts.set n sp.bars[n].ph }).spanComplete g.span n.val)) ∧
  s2.spans.get? g.span = some sq ∧ s2.crews.get? ck = some y ∧
  s1 = if sq.bars[n].ph = y.ts[n] then s2.crewWait ck (.span n.val)
    else ((s2.modC ck fun z => { z with ts := z.ts.set n sq.bars[n].ph }).onThreads
      ((s2.modC ck fun z => { z with ts := z.ts.set n sq.bars[n].ph }).liveThreads ck)
      fun x => { x with lt := Nat.max x.lt sq.bars[n].bt }).finishCrew ck

/-- A record goes to the slot behind those that its bin holds, under the rules of a store (16 R358, R359). -/
def SendsRecord (s : State) (t : Nat) (sel lo hi : Word) (s1 : State) : Prop := ∃ x g l nd e,
  s.threads.get? t = some x ∧ s.gangs.get? (gangOf t) = some g ∧ s.launches.get? g.slot = some l ∧
  let n := (sel.extractLsb' 0 8).toNat
  l.nodes[n]? = some nd ∧ x.accs = [] ∧ nd.count < nd.binCap ∧ s.pushTurn t (8 + n) = true ∧
  (∀ m ∈ s.msgs, ¬(m.2.e.launch = g.slot ∧ m.2.e.node = some n)) ∧
  let va := nd.binVa + 16 * ((nd.head + nd.count) % nd.binCap)
  let slot := match s.crews.get? (ckOf t) with | some c => c.slot % 4 | none => 0
  s.tlbLook g.core (some slot) g.aspace va .store (s.replSlot g) = some e ∧
  let m : StoreEntry :=
    { launch := g.slot, core := g.core, slot, place := e.place (va / 64 * 64) g.core, key := leafKey e.leaf
      rep := leafRep e.leaf, comp := leafComp e.leaf
      bytes := (leBytes 8 lo.toNat ++ leBytes 8 hi.toNat).zipIdx.map fun b => (va % 64 + b.2, b.1), b := x.lt
      feeders := [(t, BitVec.ofNat 64 va, s.time)], opened := s.time, node := some n }
  s1 = (({ s with msgs := s.msgs.set s.nextId ⟨m, .sent, s.nextId⟩, nextId := s.nextId + 1 } : State).modG (gangOf t) fun y =>
      { y with pushes := y.pushes.filter (·.2 != t) }).modT t fun y =>
    { y with accs := y.accs ++ [Acc.store s.nextId (BitVec.ofNat 64 va) 16] }

/-- nput. -/
def NodePuts (a b : Src) : LaneStep := fun s t s1 => ∃ x vs s2, Reads s t [a, b] x vs ∧
  SendsRecord (s.commit t [a, b] vs) t (dataAt vs 1) (dataAt vs 0) ((dataAt vs 1).extractLsb' 32 32 |>.setWidth 64) s2 ∧
  s1 = s2.modT t fun y => seq s t y

/-- ibsp (11 R266, 16 R359). -/
def Bisects (f : FW) (d : Dst) (a b : Src) : LaneStep := fun s t s1 =>
  let srcs := ivSrcs f [a] s t ++ [b]
  ∃ (x : Thread) (vs regs : List Val) (r : Option (Word × Option Word)) (s2 s3 : State), Reads s t srcs x vs ∧ ibspSplit f d s (opdsOf f [a] vs) vs = .ok (regs, r) ∧
    (match r with
      | none => s2 = s.commit t srcs vs
      | some (lo, hi) => SendsRecord (s.commit t srcs vs) t (dataAt vs (vs.length - 1)) lo
          (hi.getD (((dataAt vs (vs.length - 1)).extractLsb' 32 32).setWidth 64)) s2) ∧
    s2.writeRegs t d.reg.val d.k regs = .ok s3 ∧
    s1 = s3.modT t fun y => (y.latch (regs.headD (pt 0))).finish (s.codeBase t) s.cur.len

/-- sleep, anew and resumed (16 R360). -/
def Sleeps (a : Src) (i : Imm9) : LaneStep := fun s t s1 => ∃ x vs, Reads s t [a] x vs ∧ x.sleepRest = none ∧
  let n := min ((dataAt vs 0).toNat + i.toNat) (2 ^ 32 - 1)
  s1 = if n = 0 then (s.commit t [a] vs).modT t fun y => seq s t y
    else (s.holdPops t [a]).modT t fun y => { y with wait := .sleep (s.time + n) a }
def SleepsOn (a : Src) : LaneStep := fun s t s1 => ∃ x n, s.threads.get? t = some x ∧ x.live = true ∧ x.sleepRest = some n ∧
  s1 = s.setT t { x.setSleep none with wait := .sleep (s.time + n) a }

/-- movk (10 R233). -/
def MovesToK (k : KReg) (a : Src) : LaneStep := fun s ck s1 => ∃ vs ws s2,
  s.readAll (s.lowest ck) [a] = .ok vs ∧ s.crewRead ck [a] = .ok (ws, s2) ∧ s2.kPending ck k.val = false ∧
  s1 = (s2.modC ck fun c => { c with k := c.k.set k (dataAt vs 0), ktok := c.ktok.erase k.val }).finishCrew ck

/-- kmov (10 R234). -/
def CopiesK (k k' : KReg) : LaneStep := fun s ck s1 => ∃ c, s.crews.get? ck = some c ∧
  s.kPending ck k.val = false ∧ s.kPending ck k'.val = false ∧
  s1 = ((s.observeK ck k').modC ck fun y => { y with k := y.k.set k c.k[k'], ktok := y.ktok.erase k.val }).finishCrew ck

/-- callk with room for every window (09 R219). -/
def CallsK (k : KReg) (n : N8) : LaneStep := fun s ck s1 => ∃ c, s.crews.get? ck = some c ∧ s.kPending ck k.val = false ∧
  c.k[k].toNat < 2 ^ 57 ∧
  (∀ t ∈ s.liveThreads ck, ∃ x, s.threads.get? t = some x ∧ x.wb + 8 * n.val + 64 ≤ s.stackN t) ∧
  Chain (fun s2 t s3 => s2.slideUp t (8 * n.val) n.val (c.k[k] &&& ~~~1) = .ok s3) (s.liveThreads ck) (s.observeK ck k) s1

/-- ldk (08 R188): to device memory or a pad it is issued and the crew goes on; to the peer window the crew waits at it. -/
def LoadsK (k : KReg) (a : Src) : LaneStep := fun s ck s1 => ∃ vs ws s2 g,
  s.readAll (s.lowest ck) [a] = .ok vs ∧ s.crewRead ck [a] = .ok (ws, s2) ∧
  s.resolve (s.lowest ck) (dataAt vs 0) 8 .load = .ok g ∧ s.kPending ck k.val = false ∧
  (∀ t ∈ s.liveThreads ck, loadsOf (s.accsOf t) < 32) ∧
  let low := s.lowest ck
  let acc (held : Option (List Src)) : Acc := .load (dataAt vs 0) g.place 8 g.key .zx 0 false (some k.val) held none
  match g.place with
  | .peer pa => s.crewDrained ck = true ∧
    s1 = ((s2.crewWait ck .regs).askPeer (.load low pa)).modT low fun y => { y with accs := y.accs ++ [acc (some [])] }
  | _ =>
    s1 = ((((s.liveThreads ck).foldl (fun s t => s.sendThread t) s2).onThreads
        ((s.liveThreads ck).filter fun t => t != low && !s.isShadow t) fun y => { y with accs := y.accs ++ [.joined low] }).modT low
        fun y => { y with accs := y.accs ++ [acc none] }).finishCrew ck

/-- Every live member takes POOL_LIMIT with the reason and the count (06 R154). -/
def poolLimit (s : State) (ck reason n : Nat) : State :=
  takeAll s 0x21 ((s.liveThreads ck).map fun t => (t, BitVec.ofNat 64 (reason + n % 2 ^ 32 * 2 ^ 32)))

/-- The crew reads a count of perches. -/
def ReadsCount (a : Src) (s : State) (ck : Nat) (vs : List Val) (s2 : State) (c : Crew) (g : Gang) (n : Nat) : Prop := s.crewRead ck [a] = .ok (vs, s2) ∧ s.crews.get? ck = some c ∧ s.gangs.get? (ck / 32) = some g ∧ n = (dataAt vs 0).toNat

/-- grow (06 R149). -/
def Grows (a : Src) : LaneStep := fun s ck s1 => ∃ vs s2 c g n, ReadsCount a s ck vs s2 c g n ∧
  let acres := (n - g.slack.length + 15) / 16
  ((n = 0 ∧ s1 = s2.finishCrew ck) ∨
   (0 < n ∧ 256 < c.quota + n ∧ s1 = poolLimit s ck 1 n) ∨
   (0 < n ∧ c.quota + n ≤ 256 ∧ 760 < g.acres + acres ∧ s1 = poolLimit s ck 2 n) ∨
   (0 < n ∧ c.quota + n ≤ 256 ∧ g.acres + acres ≤ 760 ∧ n ≤ g.slack.length ∧
    s1 = (s2.takeSlack ck n 0).finishCrew ck) ∨
   (c.quota + n ≤ 256 ∧ g.acres + acres ≤ 760 ∧ g.slack.length < n ∧
    s1 = ((s.crewBlock ck a .grow).modG (ck / 32) fun g => { g with
      slack := [], drawn := g.drawn.set (ck % 32) g.slack }).addReq g.core (.grow (ck / 32) (ck % 32) n a) acres acres))

/-- shrink (06 R149). -/
def Shrinks (a : Src) : LaneStep := fun s ck s1 => ∃ vs s2 c g n, ReadsCount a s ck vs s2 c g n ∧
  ((n = 0 ∧ s1 = s2.finishCrew ck) ∨ (0 < n ∧ c.quota < n + 8 ∧ s1 = poolLimit s ck 3 n) ∨
   (0 < n ∧ n + 8 ≤ c.quota ∧ ∃ ps s3, s2.dropPerches ck n = .ok (ps, s3) ∧
    s1 = ((s3.modG (ck / 32) fun g => { g with slack := g.slack ++ ps }).compact (ck / 32)).finishCrew ck))

/-- claim (06 R150). -/
def ClaimsPerches (a : Src) : LaneStep := fun s ck s1 => ∃ vs s2 c g n, ReadsCount a s ck vs s2 c g n ∧
  ((n = 0 ∧ s1 = s2.finishCrew ck) ∨ (0 < n ∧ 256 < c.quota + n ∧ s1 = poolLimit s ck 1 n) ∨
   (0 < n ∧ c.quota + n ≤ 256 ∧
    s1 = ((s.crewBlock ck a .claim).modG (ck / 32) fun g => { g with claims := g.claims ++ [(ck % 32, n, a)] }).serveClaims
      (ck / 32) 40))

/-- release (06 R150). -/
def Releases (a : Src) : LaneStep := fun s ck s1 => ∃ vs s2 c g n, ReadsCount a s ck vs s2 c g n ∧
  ((n = 0 ∧ s1 = s2.finishCrew ck) ∨ (0 < n ∧ c.quota < n + 8 ∧ s1 = poolLimit s ck 3 n) ∨
   (0 < n ∧ n + 8 ≤ c.quota ∧ ∃ ps s3, s2.dropPerches ck n = .ok (ps, s3) ∧
    s1 = (((s3.modG (ck / 32) fun g => { g with pot := g.pot ++ ps }).finishCrew ck).serveClaims (ck / 32) 40)))

/-- talloc (06 R152); behind another of its gang that waits, it waits too (R155). -/
def Allocates (m : MReg) (a : Src) : LaneStep := fun s ck s1 => ∃ vs s2 g n,
  s.crewRead ck [a] = .ok (vs, s2) ∧ s.gangs.get? (ck / 32) = some g ∧
  n = (dataAt vs 0).toNat ∧ (∀ h, g.handles.get? m.val = some h → h.owner = none) ∧
  let kib := (n + 1023) / 1024
  let free := lowestFree g.handles (1024 * kib) (4096 * g.tileAcres)
  let need := g.tileNeed (1024 * kib)
  let waits := (s.crewBlock ck a .talloc).modG (ck / 32) fun g => { g with tallocs := g.tallocs ++ [(ck % 32, m.val, n, a)] }
  (((n = 0 ∨ 262144 < n) ∧ s1 = poolLimit s ck 4 n) ∨
   (0 < n ∧ n ≤ 262144 ∧ g.tallocs ≠ [] ∧ s1 = waits) ∨
   (0 < n ∧ n ≤ 262144 ∧ g.tallocs = [] ∧ (g.handles.get? m.val).isSome ∧ s1 = poolLimit s ck 5 n) ∨
   (0 < n ∧ n ≤ 262144 ∧ g.tallocs = [] ∧ g.handles.get? m.val = none ∧
    ((free.isSome ∧ s1 = (s2.bindHandle (ck / 32) m.val kib).finishCrew ck) ∨
     (free = none ∧ 760 < g.acres + need ∧ s1 = poolLimit s ck 2 n) ∨
     (free = none ∧ g.acres + need ≤ 760 ∧ s1 = waits.addReq g.core (.talloc (ck / 32) (ck % 32) m.val kib a) need 0))))

/-- tfree (06 R152, R140). -/
def FreesTile (m : MReg) : LaneStep := fun s ck s1 => s.owned (ck / 32) [m.val] = [] ∧ s.tileBusy (ck / 32) m.val = false ∧
  s1 = ((s.modG (ck / 32) fun y => { y with handles := y.handles.erase m.val }).trimTiles (ck / 32)).finishCrew ck

/-- A copy whose conditions hold enters a slot of its gang (07 R162, R178). -/
def EntersSlot (f : CopyForm) : LaneStep := fun s ck s1 => ∃ x, s.gangs.get? (ck / 32) = some x ∧
  (∀ k ∈ f.ks, s.kPending ck k.val = false) ∧ s.kPending ck f.tok.val = false ∧ s.crewDrained ck = true ∧
  s.copyReady ck f x = .ok () ∧ s.slotsUsed (ck / 32) < Nat.max x.kernel.copies 1 ∧
  s1 = (s.placeCopy ck f x).finishCrew ck

/-- rec.fence (07 R176). -/
def FencesRecords : LaneStep := fun s ck s1 => s.crewDrained ck = true ∧ ∃ x, s.gangs.get? (ck / 32) = some x ∧
  s1 = ((s.levelLt ck).setCore x.core fun c => { c with recs := [] }).finishCrew ck

/-- rec.pf (07 R177). -/
def PrefetchesRecord (r : KReg16) : LaneStep := fun s ck s1 => s.kPending ck r.val = false ∧ s.crewDrained ck = true ∧
  ∃ x, s.gangs.get? (ck / 32) = some x ∧
  let va := (s.kreg ck (k16 r)).toNat
  let s2 := (s.observeK ck (k16 r)).levelLt ck
  s1 = (if va % 64 ≠ 0 ∨ windowBase ≤ va then s2
    else match s2.xlateFill x.core x.aspace va .load (s.replSlot x) with
      | (.ok _, s3) => (s3.readRec x.core x.aspace va (s3.maxLt (s3.liveThreads ck)) (s.replSlot x)).2
      | (_, s3) => s3).finishCrew ck

/-- own of a bound tile, and of an unbound handle (07 R170). -/
def Owns (n : MReg) : LaneStep := fun s ck s1 => s.crewDrained ck = true ∧ ∃ h, s.handle (ck / 32) n.val = some h ∧ h.owner = none ∧
  s1 = (s.onThreads (s.liveThreads ck) fun t =>
    { t with lt := Nat.max (s.maxLt (s.liveThreads ck)) (h.tsc.getD 0) }).finishCrew ck
def OwnsNothing (n : MReg) : LaneStep := fun s ck s1 => s.handle (ck / 32) n.val = none ∧
  s1 = takeAll s 0x14 ((s.liveThreads ck).map fun t => (t, BitVec.ofNat 64 n.val))

/-- mma: its checks in the order of 12 R274; without a plan key NO_PLAN; else it starts (12 R283). -/
def Multiplies (e : Epoch) (d a b : MReg) (sat : Bool) : LaneStep := fun s ck s1 => ∃ l x,
  s.tileOpds (ck / 32) [b.val, a.val] [d.val] = .ok l ∧ s.gangs.get? (ck / 32) = some x ∧
  let ob := opdAt l 0
  let oa := opdAt l 1
  let od := opdAt l 2
  let key := mmaKey oa.hdr ob.hdr (accCode oa.hdr.fmt.isFloat) sat
  ((∃ h c, firstFail (mmaChecks x sat od oa ob) = some (h, c) ∧
    s1 = takeAll s c ((s.liveThreads ck).map fun t => (t, BitVec.ofNat 64 h))) ∨
   (firstFail (mmaChecks x sat od oa ob) = none ∧ (∀ p ∈ x.plan, planKey p ≠ key) ∧
    s1 = takeAll s 0x1D ((s.liveThreads ck).map fun t => (t, BitVec.ofNat 64 key))) ∨
   (firstFail (mmaChecks x sat od oa ob) = none ∧ (∃ p ∈ x.plan, planKey p = key) ∧
    s.tileGrains x [(ob, ob.hdr.asB.ranges), (oa, oa.hdr.asA.ranges), (od, { od.hdr with sparse := 0, scale := 0 }.ranges)] =
      .ok () ∧
    s1 = s.startTile ck (.mma sat e.val) od oa ob))

/-- mcvt (12 R287). -/
def Converts (f : EFmt) (p : Planes) (d a : MReg) : LaneStep := fun s ck s1 => ∃ l x,
  s.tileOpds (ck / 32) [a.val] [d.val] = .ok l ∧ s.gangs.get? (ck / 32) = some x ∧
  let oa := opdAt l 0
  let od := opdAt l 1
  hdrOk oa.b = true ∧ (mcvtHdr oa.hdr f p.val).size ≤ 1024 * od.h.kib ∧ mcvtOk oa.hdr f p.val = true ∧
  s.tileGrains x [(oa, oa.hdr.ranges)] = .ok () ∧ s1 = s.startTile ck (.mcvt f p.val) od oa od

/-- .f32 tiles with a valid header whose granules pass their check (12 R274, R288). -/
def tilesReady (s : State) (x : Gang) (l : List TOpd) : Prop := (∀ o ∈ l, hdrOk o.b = true ∧ f32Tile o.hdr = true) ∧ s.tileGrains x (l.map fun o => (o, o.hdr.ranges)) = .ok ()

/-- An operation of the vector units on one source (12 R288, R289). -/
def StartsRowOp (d a : MReg) (kind : TileOpKind) (one : Bool) : LaneStep := fun s ck s1 => ∃ oa od x,
  s.tileOpds (ck / 32) [a.val] [d.val] = .ok [oa, od] ∧ s.gangs.get? (ck / 32) = some x ∧ tilesReady s x [oa, od] ∧
  od.hdr.rows = oa.hdr.rows ∧ (one = true → od.hdr.cols = 1) ∧ s1 = s.startTile ck kind od oa od

/-- mrscale. -/
def Scales (d a b : MReg) : LaneStep := fun s ck s1 => ∃ ob oa od x,
  s.tileOpds (ck / 32) [b.val, a.val] [d.val] = .ok [ob, oa, od] ∧ s.gangs.get? (ck / 32) = some x ∧
  tilesReady s x [ob, oa, od] ∧ od.hdr.rows = ob.hdr.rows ∧ od.hdr.rows = oa.hdr.rows ∧ od.hdr.cols = oa.hdr.cols ∧
  s1 = s.startTile ck .mrscale od oa ob

/-- mmask. -/
def Masks (d : MReg) (k : KReg16) : LaneStep := fun s ck s1 => ∃ od x, s.kPending ck k.val = false ∧
  let s2 := s.observeK ck (k16 k)
  s2.tileOpds (ck / 32) [] [d.val] = .ok [od] ∧ s2.gangs.get? (ck / 32) = some x ∧ tilesReady s2 x [od] ∧
  s1 = s2.startTile ck (.mmask (s.kreg ck (k16 k))) od od od

/-- mhdr.get (12 R290). -/
def GetsHeader (d : Dst) (m : MReg) : LaneStep := fun s ck s1 => ∃ o, s.tileOpds (ck / 32) [m.val] [] = .ok [o] ∧
  s.giveCrew d.reg.val d.k [pt (o.b.extractLsb' 0 64), pt (o.b.extractLsb' 64 64)] (s.liveThreads ck) = .ok s1

/-- mhdr.set (12 R290). -/
def SetsHeader (d : Reg) (m : MReg) : LaneStep := fun s ck s1 => ∃ o x vs s2,
  s.tileOpds (ck / 32) [] [m.val] = .ok [o] ∧ s.gangs.get? (ck / 32) = some x ∧
  s.crewRead ck [.oc d, .oc (d + 1)] = .ok (vs, s2) ∧
  let b := hdrSeal ((dataAt vs 0).toNat + (dataAt vs 1).toNat * 2 ^ 64)
  hdrOk b = true ∧ (Hdr.ofBits b).size ≤ 1024 * o.h.kib ∧ s1 = (s2.putHdr x o.h b).finishCrew ck

/-- mget (12 R291). -/
def GetsElements (d : Dst) (m : MReg) (b : Src) : LaneStep := fun s ck s1 => ∃ o x,
  s.tileOpds (ck / 32) [m.val] [] = .ok [o] ∧ s.gangs.get? (ck / 32) = some x ∧ hdrOk o.b = true ∧
  Chain (fun s2 t s3 => ∃ y vs s4, Reads s2 t [b] y vs ∧
    let i := ((dataAt vs 0).extractLsb' 16 16).toNat
    let j := ((dataAt vs 0).extractLsb' 0 16).toNat
    i ≤ o.hdr.rows ∧ j ≤ o.hdr.cols ∧ s2.tileGrains x [(o, (0, 16) :: s2.elemRanges x o.h o.hdr i j)] = .ok () ∧
    (s2.commit t [b] vs).writeRegs t d.reg.val d.k [pt (s2.elemVal x o.h o.hdr i j)] = .ok s4 ∧ s3 = s4.finishT t)
    (s.liveThreads ck) s s1

/-- mput of members that name different elements (12 R291). -/
def PutsElements (d : Reg) (m : MReg) (b : Src) : LaneStep := fun s ck s1 => ∃ (o : TOpd) (x : Gang) (el : Nat → Nat × Nat),
  s.tileOpds (ck / 32) [] [m.val] = .ok [o] ∧ s.gangs.get? (ck / 32) = some x ∧ hdrOk o.b = true ∧ o.hdr.sparse = 0 ∧
  ¬(o.hdr.layout = 2 ∧ o.hdr.fmt.isFloat = true) ∧ ((s.liveThreads ck).map el).Nodup ∧
  Chain (fun s2 t s3 => ∃ y vs, Reads s2 t [.oc d, b] y vs ∧
    el t = (((dataAt vs 1).extractLsb' 16 16).toNat, ((dataAt vs 1).extractLsb' 0 16).toNat) ∧
    (el t).1 ≤ o.hdr.rows ∧ (el t).2 ≤ o.hdr.cols ∧
    s2.tileGrains x [(o, (0, 16) :: s2.elemRanges x o.h o.hdr (el t).1 (el t).2)] = .ok () ∧
    s3 = ((s2.putElem x o.h o.hdr (el t).1 (el t).2 (dataAt vs 0)).commit t [.oc d, b] vs).finishT t)
    (s.liveThreads ck) s s1

/-- mzero (12 R292). -/
def Zeroes (d : MReg) : LaneStep := fun s ck s1 => ∃ o x,
  s.tileOpds (ck / 32) [] [d.val] = .ok [o] ∧ s.gangs.get? (ck / 32) = some x ∧ hdrOk o.b = true ∧
  s.tileGrains x [(o, [(0, 16)])] = .ok () ∧
  s1 = (s.tileWrite x o.h 32 (List.replicate (o.hdr.dataEnd - 32) 0)).finishCrew ck

/-- tshape (12 R276). -/
def Shapes (r : KReg16) : LaneStep := fun s ck s1 => s.kPending ck r.val = false ∧
  (∀ o ∈ s.tileOps, o.2.gang = ck / 32 → ∀ sat e, o.2.kind ≠ .mma sat e) ∧
  let v := s.kreg ck (k16 r)
  let rows := max (v.extractLsb' 0 16).toNat 1
  let cols := max (v.extractLsb' 16 16).toNat 1
  s1 = ((s.observeK ck (k16 r)).modG (ck / 32) fun g =>
    if rows ≤ 16 ∧ cols ≤ 256 then { g with grows := 16, gcols := 256, fit := true }
    else if rows ≤ 32 ∧ cols ≤ 128 then { g with grows := 32, gcols := 128, fit := true }
    else if rows ≤ 64 ∧ cols ≤ 64 then { g with grows := 64, gcols := 64, fit := true }
    else if rows ≤ 128 ∧ cols ≤ 32 then { g with grows := 128, gcols := 32, fit := true }
    else if rows ≤ 256 ∧ cols ≤ 16 then { g with grows := 256, gcols := 16, fit := true }
    else { g with fit := false }).finishCrew ck

/-- mplan of a table that 12 R278 accepts. -/
def LoadsPlan (r : KReg16) : LaneStep := fun s ck s1 => ∃ h ts s2 l ts' s3, s.kPending ck r.val = false ∧ s.crewDrained ck = true ∧
  let va := s.kreg ck (k16 r)
  let s0 := s.observeK ck (k16 r)
  va.toNat % 32 = 0 ∧ s0.read32 (s0.lowest ck) va (s0.maxLt (s0.liveThreads ck)) = .ok (h, ts, s2) ∧ planHeadOk h = true ∧
  State.read32s (s0.lowest ck) (leNat (h.take 2)) (va + 32) ts s2 = .ok (l, ts', s3) ∧
  planBad 0 none (chunks32 (leNat (h.take 2)) l) = none ∧
  let s5 := s3.modG (ck / 32) fun g => { g with plan := chunks32 (leNat (h.take 2)) l }
  let s4 := match s5.gangs.get? (ck / 32) with | some g => s5.writePlan g | none => s5
  s1 = (s4.onThreads (s4.liveThreads ck) fun x => { x with lt := ts' }).finishCrew ck

/-! ## What a tile instruction writes (12 R285 to R289) -/

/-- A tile instruction in progress, its gang and the handles of md, ma and mb. -/
def TileInProgress (s : State) (n : Nat) (o : TileOp) (x : Gang) (d a b : Handle) : Prop :=
  s.tileOps.get? n = some o ∧ s.gangs.get? o.gang = some x ∧ x.handles.get? o.d = some d ∧ x.handles.get? o.a = some a ∧
    x.handles.get? o.b = some b

/-- The granules of a tile's first `n` bytes lie apart in the pool. -/
def tileApart (x : Gang) (h : Handle) (n : Nat) : Prop :=
  ∀ i j, 8 * i < n → 8 * j < n → x.tilePa (h.off + 8 * i) % 8 = 0 ∧
    (x.tilePa (h.off + 8 * i) = x.tilePa (h.off + 8 * j) → i = j)

/-- From `s` to `u`, a tile gets a header with bytes 16 to 31 zero, and beside the granules of its first `n` bytes the pool stays. -/
def tileWritten (s u : State) (x : Gang) (h : Handle) (n : Nat) (b : BitVec 128) : Prop :=
  u.hdrBits x h = b ∧ (∀ i, 16 ≤ i → i < 32 → u.tileByte x h i = 0) ∧
    ∀ c, (∀ i, 8 * i < n → c / 8 ≠ x.tilePa (h.off + 8 * i) / 8) → u.pool.byte c = s.pool.byte c

/-- The value at logical position `k` of a K-vector of an mma operand: 0 where 2:4 sparsity or the bitmap leaves none (R281, R282). -/
def posVal (s : State) (x : Gang) (o : Handle) (h : Hdr) (v k : Nat) : Int :=
  match s.storedPos x o h v k with
  | none => 0
  | some p => if s.zeroBlock x o h v (p / 32) then 0 else s.planeVal x o h v p

/-- The sum of the products of positions `lo` up to `lo + n` - 1 that lie below the K extent. -/
def products (s : State) (x : Gang) (oa ob : Handle) (ha hb : Hdr) (i j lo n : Nat) : Int :=
  ((List.range n).map fun q => if lo + q < ha.kLen then posVal s x oa ha i (lo + q) * posVal s x ob hb j (lo + q) else 0).sum

/-- The K extent of a chunk, and the number of chunks. -/
def chunkK (ha : Hdr) : Nat := if ha.sparse = 1 then 1024 else 512
def chunks (ha : Hdr) : List Nat := List.range ((ha.kLen + chunkK ha - 1) / chunkK ha)

/-- An integer element of mma from its old value: .sat stops at the ends of 32 bits after each chunk; else it wraps. -/
def mmaInt (s : State) (x : Gang) (oa ob : Handle) (ha hb : Hdr) (sat : Bool) (i j old : Nat) : Nat :=
  let stop (v : Int) : Int := if sat then min (max v (-2 ^ 31)) (2 ^ 31 - 1) else v
  (((chunks ha).foldl (fun c m => stop (c + products s x oa ob ha hb i j (chunkK ha * m) (chunkK ha)))
    (BitVec.ofNat 32 old).toInt) % 2 ^ 32).toNat

/-- The f64 value of a block: +0 for a block marked zero, NaN for one of code 0xFF, else exact. -/
def mmaBlock (s : State) (x : Gang) (oa ob : Handle) (ha hb : Hdr) (i j b : Nat) : Nat :=
  let sb := if ha.sparse = 1 then b / 2 else b
  let da := s.dCode x oa ha i sb
  let db := s.dCode x ob hb j b
  if s.zeroBlock x oa ha i sb = true ∨ s.zeroBlock x ob hb j b = true then 0
  else if da = 0xFF ∨ db = 0xFF then fmt64.nan
  else (fmt64.roundInt .rne (products s x oa ob ha hb i j (32 * b) 32)
    (((da : Int) - 125 - ha.planes) + ((db : Int) - 125 - hb.planes)) false).1

/-- A float element of mma from its old value: the blocks of a chunk are added in ascending order in f64, each chunk to the element
with one rounding to f32. -/
def mmaFloat (s : State) (x : Gang) (oa ob : Handle) (ha hb : Hdr) (i j old : Nat) : Nat :=
  let add (t v : Nat) : Nat := (fmt64.addP .rne (fmt64.decode t) (fmt64.decode v)).1
  (chunks ha).foldl (fun c m =>
    let n := chunkK ha / 32
    let vs := (((List.range n).map (n * m + ·)).filter (· < (ha.kLen + 31) / 32)).map (mmaBlock s x oa ob ha hb i j)
    (fmt32.addP .rne (fmt32.decode c) (fmt64.decode ((vs.drop 1).foldl add (vs.headD 0)))).1) old

/-- The sum of 2^n columns in pairs, then pairs of pairs, padded with -0.0 (R243, R288). -/
def pairSum : Nat → List Nat → Nat
  | 0, l => l.headD fmt32.sign
  | n + 1, l => (fmt32.addP .rne (fmt32.decode (pairSum n (l.take (2 ^ n)))) (fmt32.decode (pairSum n (l.drop (2 ^ n))))).1

/-- The least such sum that holds a row of at most 4,096 columns. -/
def rowSum (l : List Nat) : Nat := pairSum (((List.range 13).find? fun k => decide (l.length ≤ 2 ^ k)).getD 0) l

/-- A tile instruction that completes writes its tile of 32-bit elements: `el` gives each from the state before. -/
def WritesElements (s : State) (n : Nat) (x : Gang) (d : Handle) (hd : Hdr) (b : BitVec 128) (el : Nat → Nat → Nat) : Prop :=
  ∃ u, exec (.tileInstructionComplete n) s = .next u ∧ u.tileOps.get? n = none ∧
    tileWritten s u x d (32 + 32 * hd.pitch * (hd.rows + 1)) b ∧
    ∀ i j, i ≤ hd.rows → j ≤ hd.cols → u.el32 x d hd i j = el i j % 2 ^ 32

end Sys2Proof.Claim

namespace Sys2Proof.Machine

/-- Porast runs the command with an opcode. -/
def State.commanded (s : State) (op : Nat) : Prop := s.porast.busy = true ∧ (s.porast.run.headD 0).toNat = op

/-- The state `u` after `s` has Porast's answer with a status: the doorbell is free, and vector 3 fires. -/
def State.answers (u s : State) (st : Byte) : Prop :=
  u.porast.busy = false ∧ u.porast.resp.head? = some st ∧ u.host.intstat = s.host.intstat ||| 8

end Sys2Proof.Machine
end

