-- ==== Sys2Proof/Certificates/Slice0/Obligations.lean ====
section
/-! DEFINITION. The statements for the provers. Each says which rules of spec/ it formalises; the instructions of a statement
complete as it says for every bundle, operand form and value that meets its hypotheses. -/

open Sys2Proof Sys2Proof.Machine Sys2Proof.Claim

/-! ## Integer and address instructions (10 R226 to R233) -/

/-- The arithmetic instructions write the values of R228 as points, div and rem with the flags of their corners (R237); so do
their 16-bit forms. -/
def Obligations.IntegerArithmetic : Prop :=
  (∀ (w : Width) (g : Sgn) (d : Dst) (a b : Src) (r : Reg) (q : Reg5),
    Data2 (.add w d a b) d a b (both w (· + ·) (· + ·)) ∧
    Data2 (.sub w d a b) d a b (both w (· - ·) (· - ·)) ∧
    Data3 (.addc w d a b) d a b (carryOut w) ∧
    Data3 (.subb w d a b) d a b (borrowOut w) ∧
    Data2 (.mul24 g d a b) d a b (fun a b => extend32 g (e24 g a * e24 g b)) ∧
    Data3 (.mad24 g d a b) d a b (fun a b d => extend32 g (e24 g a * e24 g b + lo d)) ∧
    Data2 (.mul w d a b) d a b (both w (· * ·) (· * ·)) ∧
    Data2 (.mulh g d a b) d a b (mulHigh g) ∧
    Data2 (.min g d a b) d a b (fun a b => if leq g a b then a else b) ∧
    Data2 (.max g d a b) d a b (fun a b => if leq g b a then a else b) ∧
    Data3 (.addmin g d a b) d a b (addMin g) ∧
    Data2 (.add16 r q) (dst16 r) (.oc r) (src16 q) (· + ·) ∧
    Data2 (.sub16 r q) (dst16 r) (.oc r) (src16 q) (· - ·) ∧
    Data2 (.mul2416 r q) (dst16 r) (.oc r) (src16 q) (fun a b => extend32 .s (e24 .s a * e24 .s b)) ∧
    Data2 (.min16 r q) (dst16 r) (.oc r) (src16 q) (fun a b => if leq .s a b then a else b) ∧
    Data2 (.max16 r q) (dst16 r) (.oc r) (src16 q) (fun a b => if leq .s b a then a else b)) ∧
  (∀ (g : Sgn) (d : Dst) (a b : Src),
    Data2F (.div g d a b) d a b (quotient g) ∧ Data2F (.rem g d a b) d a b (remainder g))

/-- The logic forms, the shifts and lea write the values of R229 as points, a count taken modulo the width; so do the shifts by an
immediate (R231) and the 16-bit forms. -/
def Obligations.LogicShiftsAndLea : Prop :=
  (∀ (w : Width) (d : Dst) (a b : Src) (r : Reg) (q : Reg5),
    Data2 (.and w d a b) d a b (both w (· &&& ·) (· &&& ·)) ∧
    Data2 (.or w d a b) d a b (both w (· ||| ·) (· ||| ·)) ∧
    Data2 (.xor w d a b) d a b (both w (· ^^^ ·) (· ^^^ ·)) ∧
    Data2 (.andn w d a b) d a b (both w (fun a b => a &&& ~~~b) (fun a b => a &&& ~~~b)) ∧
    Data2 (.and16 r q) (dst16 r) (.oc r) (src16 q) (· &&& ·) ∧
    Data2 (.or16 r q) (dst16 r) (.oc r) (src16 q) (· ||| ·) ∧
    Data2 (.xor16 r q) (dst16 r) (.oc r) (src16 q) (· ^^^ ·)) ∧
  (∀ (w : Width) (d : Dst) (a b : Src) (c : Cnt6) (r : Reg) (q : Reg5),
    Data2 (.lea .w32 d a b) d a b (fun a b => a + b <<< 2) ∧
    Data2 (.lea .w64 d a b) d a b (fun a b => a + b <<< 3) ∧
    Data2 (.shl w d a b) d a b (fun a b => shiftLeft w a (count w b)) ∧
    Data2 (.shr w d a b) d a b (fun a b => shiftRight w a (count w b)) ∧
    Data2 (.sar w d a b) d a b (fun a b => shiftArith w a (count w b)) ∧
    Data2 (.rot w d a b) d a b (fun a b => rotate w a (count w b)) ∧
    (countFits w c →
      Data1 (.shlImm w d a c) d a (fun a => shiftLeft w a c.val) ∧
      Data1 (.shrImm w d a c) d a (fun a => shiftRight w a c.val) ∧
      Data1 (.sarImm w d a c) d a (fun a => shiftArith w a c.val) ∧
      Data1 (.rotImm w d a c) d a (fun a => rotate w a c.val)) ∧
    Data2 (.shl16 r q) (dst16 r) (.oc r) (src16 q) (fun a b => shiftLeft .w64 a (count .w64 b)) ∧
    Data2 (.shr16 r q) (dst16 r) (.oc r) (src16 q) (fun a b => shiftRight .w64 a (count .w64 b)) ∧
    Data2 (.sar16 r q) (dst16 r) (.oc r) (src16 q) (fun a b => shiftArith .w64 a (count .w64 b)))

/-- bfe, bfi and perm write the values of R230, the experimental byte functions those of 03 R68, the immediate forms those of R231,
and the unary forms those of R232; mov copies the kind bit with the data. -/
def Obligations.FieldsImmediatesAndUnaryForms : Prop :=
  (∀ (g : Sgn) (d : Dst) (a b : Src),
    Data2 (.bfe g d a b) d a b (fieldOf g) ∧
    Data3 (.bfi d a b) d a b withField ∧
    Data3 (.perm d a b) d a b (fun a b d => bytes8 (permByte a b d)) ∧
    Data1 (.xbrev8 d a) d a (fun a => bytes8 fun i => (a.extractLsb' (8 * i) 8).reverse) ∧
    Data1 (.xpopc8 d a) d a (fun a => bytes8 fun i => (a.extractLsb' (8 * i) 8).cpop)) ∧
  (∀ (w : Width) (d : Dst) (a : Src) (i : Imm9) (j : Imm16) (n : Fin4) (e : ExtKind) (r : Reg) (q : Reg5),
    Data1 (.addImm d a i) d a (· + i.signExtend 64) ∧
    Data1 (.andImm d a i) d a (· &&& i.signExtend 64) ∧
    Data1 (.orImm d a i) d a (· ||| i.signExtend 64) ∧
    Data0 (.movi .s d j) d (j.signExtend 64) ∧
    Data0 (.movi .n d j) d (j.setWidth 64) ∧
    Data1 (.movw r j n) ⟨r, true⟩ (.oc r)
      (fun v => (v &&& ~~~(0xFFFF#64 <<< (16 * n.val))) ||| (j.setWidth 64 <<< (16 * n.val))) ∧
    Data1F (.abs w d a) d a (absolute w) ∧
    Data1 (.neg w d a) d a (one w (-·) (-·)) ∧
    Data1 (.not w d a) d a (one w (~~~·) (~~~·)) ∧
    Data1 (.popc w d a) d a (one w BitVec.cpop BitVec.cpop) ∧
    Data1 (.clz w d a) d a (one w BitVec.clz BitVec.clz) ∧
    Data1 (.ctz w d a) d a (one w BitVec.ctz BitVec.ctz) ∧
    Data1 (.brev w d a) d a (one w BitVec.reverse BitVec.reverse) ∧
    Data1 (.ext e d a) d a (extended e) ∧
    PerLane (.mov d a) (Writes d [a] fun _ _ _ vs => (valAt vs 0, 0)) ∧
    PerLane (.mov16 r q) (Writes (dst16 r) [src16 q] fun _ _ _ vs => (valAt vs 0, 0)))

/-- cmp writes TRUE or FALSE by the relation under its signedness and width and leaves the latches (R236); cmov copies data
and kind of a if the predicate matches the sense, else those of d (R235). -/
def Obligations.CompareAndSelect : Prop :=
  ∀ (w : Width) (l : Rel) (p : PReg) (d : Dst) (a b : Src),
    PerLane (.cmpSigned w l p a b) (WritesPred p (fun _ _ => [a, b]) fun _ _ _ vs =>
      some (if related .s w l (dataAt vs 0) (dataAt vs 1) then .t else .f, 0)) ∧
    PerLane (.cmpUnsigned w l p a b) (WritesPred p (fun _ _ => [a, b]) fun _ _ _ vs =>
      some (if related .n w l (dataAt vs 0) (dataAt vs 1) then .t else .f, 0)) ∧
    PerLane (.cmov d a p .t) (Writes d [a, .oc d.reg] fun _ _ x vs => (if x.pred p = .t then valAt vs 0 else valAt vs 1, 0)) ∧
    PerLane (.cmov d a p .f) (Writes d [a, .oc d.reg] fun _ _ x vs => (if x.pred p = .f then valAt vs 0 else valAt vs 1, 0)) ∧
    PerLane (.cmov d a p .u) (Writes d [a, .oc d.reg] fun _ _ x vs => (if x.pred p = .u then valAt vs 0 else valAt vs 1, 0)) ∧
    PerLane (.cmov d a p .nt) (Writes d [a, .oc d.reg] fun _ _ x vs =>
      (if x.pred p = .t then valAt vs 1 else valAt vs 0, 0))

/-- The predicate instructions follow Kleene's logic in the order FALSE, UNDECIDED, TRUE (R269, 02 R25): pand takes the lesser,
por the greater, pnot the opposite, pxor what differs; a write to p7 is discarded. pget and pput move the predicate word of
02 R26. -/
def Obligations.PredicateInstructions : Prop :=
  (∀ (d a b : PReg), ∃ f g h : Pred → Pred → Pred, ∃ k : Pred → Pred,
    (∀ x y, level (f x y) = min (level x) (level y)) ∧ (∀ x y, level (g x y) = max (level x) (level y)) ∧
    (∀ x y, level (h x y) = -(level x * level y)) ∧ (∀ x, level (k x) = -level x) ∧
    PerLane (.pand d a b) (WritesPred d (fun _ _ => []) fun _ _ x _ => some (f (x.pred a) (x.pred b), 0)) ∧
    PerLane (.por d a b) (WritesPred d (fun _ _ => []) fun _ _ x _ => some (g (x.pred a) (x.pred b), 0)) ∧
    PerLane (.pxor d a b) (WritesPred d (fun _ _ => []) fun _ _ x _ => some (h (x.pred a) (x.pred b), 0)) ∧
    PerLane (.pnot d a) (WritesPred d (fun _ _ => []) fun _ _ x _ => some (k (x.pred a), 0))) ∧
  (∀ (v : Pred) (d a : PReg),
    PerLane (.pdec v d a) (WritesPred d (fun _ _ => []) fun _ _ x _ => some (if x.pred a = .u then v else x.pred a, 0)) ∧
    PerLane (.pset v d) (WritesPred d (fun _ _ => []) fun _ _ _ _ => some (v, 0))) ∧
  (∀ (d : Dst) (a : Src),
    PerLane (.pget d) (Writes d [] fun _ _ x _ => (pt (BitVec.ofNat 64 x.predWord), 0)) ∧
    PerLane (.pput a) (WritesMany 0 true (fun _ _ => [a]) fun _ _ _ vs =>
      some ([], fun y => { y with preds := Vector.ofFn fun i =>
        match ((dataAt vs 0).extractLsb' (2 * i.val) 2).toNat with | 0 => .f | 1 => .t | _ => .u })))

/-! ## Floats and intervals (11 R246 to R268) -/

/-- The arithmetic on points: one rounding by fpmode.RM with FTZ on .f32 (R251), and fmin, fmax, fabs and fneg, which never
round (R252); the .f32 forms of 16 bits; the packed forms on two elements (R253). -/
def Obligations.PointArithmetic : Prop :=
  ∀ (f : FW) (p : PW) (d : Dst) (a b : Src) (r : Reg) (q : Reg5),
    PerLane (.fadd f d a b) (Points f d [a, b] (arith f fun m l => f.fmt.addP m (fpAt l 0) (fpAt l 1))) ∧
    PerLane (.fsub f d a b) (Points f d [a, b] (arith f fun m l => f.fmt.addP m (fpAt l 0) (fpAt l 1).negate)) ∧
    PerLane (.fmul f d a b) (Points f d [a, b] (arith f fun m l => f.fmt.mulP m (fpAt l 0) (fpAt l 1))) ∧
    PerLane (.ffma f d a b) (Points f d [a, b, .oc d.reg]
      (arith f fun m l => f.fmt.fmaP m (fpAt l 0) (fpAt l 1) (fpAt l 2))) ∧
    PerLane (.fdiv f d a b) (Points f d [a, b] (arith f fun m l => f.fmt.divP m (fpAt l 0) (fpAt l 1))) ∧
    PerLane (.fsqrt f d a) (Points f d [a] (arith f fun m l => f.fmt.sqrtP m (fpAt l 0))) ∧
    PerLane (.fmin f d a b) (Points f d [a, b] fun _ l => f.fmt.minmax false (natAt l 0) (natAt l 1)) ∧
    PerLane (.fmax f d a b) (Points f d [a, b] fun _ l => f.fmt.minmax true (natAt l 0) (natAt l 1)) ∧
    PerLane (.fabs f d a) (Points f d [a] fun _ l => signOp f.fmt (· % f.fmt.sign) (natAt l 0)) ∧
    PerLane (.fneg f d a) (Points f d [a] fun _ l => signOp f.fmt (negBits f.fmt) (natAt l 0)) ∧
    PerLane (.fadd16 r q) (Points .f32 (dst16 r) [.oc r, src16 q]
      (arith .f32 fun m l => fmt32.addP m (fpAt l 0) (fpAt l 1))) ∧
    PerLane (.fsub16 r q) (Points .f32 (dst16 r) [.oc r, src16 q]
      (arith .f32 fun m l => fmt32.addP m (fpAt l 0) (fpAt l 1).negate)) ∧
    PerLane (.fmul16 r q) (Points .f32 (dst16 r) [.oc r, src16 q]
      (arith .f32 fun m l => fmt32.mulP m (fpAt l 0) (fpAt l 1))) ∧
    PerLane (.fmax16 r q) (Points .f32 (dst16 r) [.oc r, src16 q]
      fun _ l => fmt32.minmax true (natAt l 0) (natAt l 1)) ∧
    PerLane (.faddPacked p d a b) (Packed p d [a, b] fun m l => p.fmt.addP m (fpAt l 0) (fpAt l 1)) ∧
    PerLane (.fmulPacked p d a b) (Packed p d [a, b] fun m l => p.fmt.mulP m (fpAt l 0) (fpAt l 1)) ∧
    PerLane (.ffmaPacked p d a b) (Packed p d [a, b, .oc d.reg]
      fun m l => p.fmt.fmaP m (fpAt l 0) (fpAt l 1) (fpAt l 2))

/-- The special functions on points and on intervals (R254, R256): they complete, ignore fpmode, and give the special values and
exact cases of R254. Which of the results within the bounds of R254 an inexact one is, is free (log entry 7). fcvt, icvt and
fround convert points (R259 to R261), and fclass sets the bit of its operand's class (R262). Each completes, and writes those
values, for a bundle of any live threads whose sources can be read and are of its kind, with no access due to its destinations. -/
def Obligations.SpecialFunctionsAndConversions : Prop :=
  (∀ (f : FW) (d : Dst) (a : Src),
    FloatForms (.frcp f d a) f d [a] (fun _ l => rcpPt f (natAt l 0))
      (fun l => ivDiv f.fmt (oneBits f.fmt, oneBits f.fmt) (bndAt l 0)) ∧
    FloatForms (.frsq f d a) f d [a] (fun _ l => rsqPt f (natAt l 0)) (fun l =>
      if f.fmt.key (bndAt l 0).2 ≤ 0 then none
      else some (bndLo .rsq f (fun _ => 0) (fun _ => rsqEncl) (bndAt l 0).2,
        if f.fmt.key (bndAt l 0).1 ≤ 0 then f.fmt.inf else bndHi .rsq f (fun _ => 0) (fun _ => rsqEncl) (bndAt l 0).1)) ∧
    FloatForms (.fexp2 f d a) f d [a] (fun _ l => exp2Pt f (natAt l 0)) (fun l =>
      some (bndLo .exp2 f (fun n => if n then 0 else f.fmt.inf) (exp2Encl f.fmt) (bndAt l 0).1,
        bndHi .exp2 f (fun n => if n then 0 else f.fmt.inf) (exp2Encl f.fmt) (bndAt l 0).2)) ∧
    FloatForms (.flog2 f d a) f d [a] (fun _ l => log2Pt f (natAt l 0)) (fun l =>
      if f.fmt.key (bndAt l 0).2 ≤ 0 then none
      else some (if f.fmt.key (bndAt l 0).1 ≤ 0 then f.fmt.sign + f.fmt.inf
          else bndLo .log2 f (fun _ => f.fmt.inf) (fun _ => log2Encl) (bndAt l 0).1,
        bndHi .log2 f (fun _ => f.fmt.inf) (fun _ => log2Encl) (bndAt l 0).2)) ∧
    FloatForms (.ftanh f d a) f d [a] (fun _ l => tanhPt f (natAt l 0)) (fun l =>
      some (bndLo .tanh f (fun n => (if n then f.fmt.sign else 0) + oneBits f.fmt) tanhAt (bndAt l 0).1,
        bndHi .tanh f (fun n => (if n then f.fmt.sign else 0) + oneBits f.fmt) tanhAt (bndAt l 0).2)) ∧
    FromPoint (.fsin f d a) f d a (fun _ v => fresW (sinPt f v)) ∧
    FromPoint (.fcos f d a) f d a (fun _ v => fresW (cosPt f v)) ∧
    rcpPt f 0 = (f.fmt.inf, fDZ) ∧ rcpPt f f.fmt.inf = (0, 0) ∧ rsqPt f f.fmt.sign = (f.fmt.sign + f.fmt.inf, fDZ) ∧
    exp2Pt f (f.fmt.sign + f.fmt.inf) = (0, 0) ∧ log2Pt f 0 = (f.fmt.sign + f.fmt.inf, fDZ) ∧
    log2Pt f (oneBits f.fmt) = (0, 0) ∧ sinPt f f.fmt.sign = (f.fmt.sign, 0) ∧ cosPt f 0 = (oneBits f.fmt, 0) ∧
    cosPt f f.fmt.inf = (f.fmt.nan, fNV) ∧ tanhPt f f.fmt.inf = (oneBits f.fmt, 0)) ∧
  (∀ (f : FW) (w : Width) (g : Sgn) (r : RDir) (d : Dst) (a : Src),
    FromPoint (.fcvtF16F32 r d a) .f32 d a (fun x v => fresW (convFmt fmt32 fmt16 (r.rm x) v)) ∧
    FromPoint (.fcvtBf16F32 r d a) .f32 d a (fun x v => fresW (convFmt fmt32 fmtBf (r.rm x) v)) ∧
    FromPoint (.fcvtF32F64 r d a) .f64 d a (fun x v => fresW (convFmt fmt64 fmt32 (r.rm x) v)) ∧
    FromData (.fcvtF32F16 d a) d a (fun _ v => fresW (convFmt fmt16 fmt32 .rne (v % 2 ^ 16))) ∧
    FromData (.fcvtF32Bf16 d a) d a (fun _ v => fresW (convFmt fmtBf fmt32 .rne (v % 2 ^ 16))) ∧
    FromPoint (.fcvtF64F32 d a) .f32 d a (fun _ v => fresW (convFmt fmt32 fmt64 .rne v)) ∧
    FromData (.icvtToFloat f w g d a) d a (fun x v =>
      fresW (f.fmt.roundInt x.rm (match g, w with
        | .n, .w64 => (v : Int) | .s, .w64 => (BitVec.ofNat 64 v).toInt
        | .n, .w32 => (v % 2 ^ 32 : Nat) | .s, .w32 => (BitVec.ofNat 32 v).toInt) 0 false)) ∧
    FromPoint (.icvtToInt f w g d a) f d a (fun _ v =>
      (BitVec.ofInt 64 (f.fmt.toInt v (intMin g w) (intMax g w)).1, (f.fmt.toInt v (intMin g w) (intMax g w)).2)) ∧
    FromPoint (.fround f r d a) f d a (fun x v => fresW (f.fmt.integral (r.rm x) v)) ∧
    FromOpd (.fclass f d a) f d a (fun o => some (2 ^ classBit f.fmt o)))

/-- The arithmetic on intervals (R255 to R257): the lower bound rounded down, the upper up. Building, joining, meeting and taking apart
intervals, and the comparisons of floats and intervals (R263 to R268). The .e forms write the empty interval and set EMPTY where
the others trap. -/
def Obligations.IntervalForms : Prop :=
  (∀ (f : FW) (d : Dst) (a b : Src) (r : Reg) (q : Reg5),
    PerLane (.fadd f d a b) (Intervals f d [a, b] fun l =>
      some (addR f.fmt .rd (bndAt l 0).1 (bndAt l 1).1, addR f.fmt .ru (bndAt l 0).2 (bndAt l 1).2)) ∧
    PerLane (.fsub f d a b) (Intervals f d [a, b] fun l =>
      some (addR f.fmt .rd (bndAt l 0).1 (negBits f.fmt (bndAt l 1).2),
        addR f.fmt .ru (bndAt l 0).2 (negBits f.fmt (bndAt l 1).1))) ∧
    PerLane (.fmul f d a b) (Intervals f d [a, b] fun l => some (ivMul f.fmt (bndAt l 0) (bndAt l 1))) ∧
    PerLane (.ffma f d a b) (Intervals f d [a, b, .oc d.reg] fun l =>
      some (ivFma f.fmt (bndAt l 0) (bndAt l 1) (bndAt l 2))) ∧
    PerLane (.fdiv f d a b) (Intervals f d [a, b] fun l => ivDiv f.fmt (bndAt l 0) (bndAt l 1)) ∧
    PerLane (.fmin f d a b) (Intervals f d [a, b] fun l =>
      some (minKey f.fmt [(bndAt l 0).1, (bndAt l 1).1], minKey f.fmt [(bndAt l 0).2, (bndAt l 1).2])) ∧
    PerLane (.fmax f d a b) (Intervals f d [a, b] fun l =>
      some (maxKey f.fmt [(bndAt l 0).1, (bndAt l 1).1], maxKey f.fmt [(bndAt l 0).2, (bndAt l 1).2])) ∧
    PerLane (.fneg f d a) (Intervals f d [a] fun l =>
      some (negBits f.fmt (bndAt l 0).2, negBits f.fmt (bndAt l 0).1)) ∧
    PerLane (.fabs f d a) (Intervals f d [a] fun l =>
      some (if 0 ≤ f.fmt.key (bndAt l 0).1 then bndAt l 0
        else if f.fmt.key (bndAt l 0).2 ≤ 0 then (negBits f.fmt (bndAt l 0).2, negBits f.fmt (bndAt l 0).1)
        else (0, maxKey f.fmt [negBits f.fmt (bndAt l 0).1, (bndAt l 0).2]))) ∧
    PerLane (.fsqrt f d a) (Intervals f d [a] fun l =>
      if f.fmt.key (bndAt l 0).2 < 0 then none
      else some ((f.fmt.sqrtP .rd (f.fmt.decode (if f.fmt.key (bndAt l 0).1 ≤ 0 then 0 else (bndAt l 0).1))).1,
        (f.fmt.sqrtP .ru (f.fmt.decode (posZero f.fmt (bndAt l 0).2))).1)) ∧
    PerLane (.fadd16 r q) (Intervals .f32 (dst16 r) [.oc r, src16 q] fun l =>
      some (addR fmt32 .rd (bndAt l 0).1 (bndAt l 1).1, addR fmt32 .ru (bndAt l 0).2 (bndAt l 1).2)) ∧
    PerLane (.fsub16 r q) (Intervals .f32 (dst16 r) [.oc r, src16 q] fun l =>
      some (addR fmt32 .rd (bndAt l 0).1 (negBits fmt32 (bndAt l 1).2),
        addR fmt32 .ru (bndAt l 0).2 (negBits fmt32 (bndAt l 1).1))) ∧
    PerLane (.fmul16 r q) (Intervals .f32 (dst16 r) [.oc r, src16 q] fun l => some (ivMul fmt32 (bndAt l 0) (bndAt l 1))) ∧
    PerLane (.fmax16 r q) (Intervals .f32 (dst16 r) [.oc r, src16 q] fun l =>
      some (maxKey fmt32 [(bndAt l 0).1, (bndAt l 1).1], maxKey fmt32 [(bndAt l 0).2, (bndAt l 1).2]))) ∧
  (∀ (f : FW) (l : Rel) (p : PReg) (d : Dst) (a b : Src),
    let F := f.fmt
    PerLane (.ivmk f d a b) (Builds f d a b (ivMake F false)) ∧ PerLane (.ivmkE f d a b) (Builds f d a b (ivMake F true)) ∧
    PerLane (.ivhull f d a b) (Builds f d a b (ivSet F false (hullOf F))) ∧
    PerLane (.ivhullE f d a b) (Builds f d a b (ivSet F true (hullOf F))) ∧
    PerLane (.ivisect f d a b) (Builds f d a b (ivSet F false (isectOf F))) ∧
    PerLane (.ivisectE f d a b) (Builds f d a b (ivSet F true (isectOf F))) ∧
    FromOpd (.ivlo f d a) f d a (ivTake F id (fun lo _ => lo) (some F.inf)) ∧
    FromOpd (.ivhi f d a) f d a (ivTake F id (fun _ hi => hi) (some (F.sign + F.inf))) ∧
    FromOpd (.ivmid f d a) f d a (ivTake F id (midOf F) none) ∧
    FromOpd (.ivwid f d a) f d a (ivTake F (fun v => if (F.decode v).isNan then F.nan else 0)
      (fun lo hi => posZero F (addR F .ru hi (negBits F lo))) none) ∧
    PerLane (.fcmp f l p a b) (WritesPred p (ivSrcs f [a, b]) fun _ _ _ vs => fcmpOf f l a b vs) ∧
    PerLane (.ivin f p a b) (WritesPred p (ivSrcs f [a, b]) fun _ _ _ vs => ivinOf f a b vs))

/-! ## Control flow (14 R309 to R321, 09 R218 to R222, 17 R365 to R374) -/

/-- bra, jmp and jmpk (R315): a thread whose predicate matches goes to the target, and the loop levels whose body does not hold it
end (R320); another completes in sequence. A target outside the address space traps FETCH_BOUND (0x08) with the target in xval. -/
def Obligations.BranchesAndJumps : Prop :=
  ∀ (o : Off19) (se : Sense) (p : PReg) (k : KReg),
    PerLane (.bra o se p) (Sets [] fun s t y _ => if senseHit se (y.pred p) then branchTo o s t y else some (seq s t y)) ∧
    PerLane (.jmp o) (Sets [] fun s t y _ => branchTo o s t y) ∧
    PerLane (.jmpk p se k) (Sets [.special (.k k)] fun s t y vs =>
      if senseHit se (y.pred p) = true ∧ (dataAt vs 0).toNat < 2 ^ 57 then some (goesTo s t y (dataAt vs 0 &&& ~~~1)) else none) ∧
    PerLane (.jmpk p se k) (Sets [] fun s t y _ => if senseHit se (y.pred p) then none else some (seq s t y)) ∧
    Traps (.bra o se p) [] (fun _ _ y _ => senseHit se (y.pred p) = true ∧ leavesSpace o y) 0x08
      (fun _ _ y _ => y.pc + 2 * o.signExtend 64) ∧
    Traps (.jmp o) [] (fun _ _ y _ => leavesSpace o y) 0x08 (fun _ _ y _ => y.pc + 2 * o.signExtend 64) ∧
    Traps (.jmpk p se k) [.special (.k k)] (fun _ _ y vs => senseHit se (y.pred p) = true ∧ 2 ^ 57 ≤ (dataAt vs 0).toNat) 0x08
      (fun _ _ _ vs => dataAt vs 0)

/-- meet saves mt in g[S] as with K = 0, latches it and sets mt to the target; meet.r sets mt (R316). -/
def Obligations.MeetingPoints : Prop :=
  ∀ (i : Imm16) (g : Reg) (a : Src),
    PerLane (.meet i g) (WritesMany g.val false (fun _ _ => []) fun _ _ x _ =>
      some ([pt x.mt], fun y => { y.latch (pt x.mt) with mt := y.pc + 2 * i.signExtend 64 })) ∧
    PerLane (.meetR a) (Sets [a] fun s t y vs => some (seq s t { y with mt := dataAt vs 0 }))

/-- loop opens its level with the count a[31:0] and the body behind it; a count of 0 ends the level and goes on at the end of the
body as the end-of-body step says (R318). nop and nop.h complete in sequence and change nothing else (R321). -/
def Obligations.LoopsAndNops : Prop :=
  ∀ (n : Fin3) (a : Src) (i : Imm9) (b : Reg5),
    PerLane (.loop n a i) (Sets [a] fun s t y vs =>
      let c : U32 := (dataAt vs 0).setWidth 32
      let body := y.pc.toNat + 4
      let done := body + 2 * (i.toNat + 1)
      some (if c = 0 then
          let r := endOfBody (s.codeBase t) y.pc.toNat done (y.loops.set n { y.loops[n] with active := false, count := 0 })
          { y with loops := r.2 }.transfer (BitVec.ofNat 64 r.1)
        else { y with loops := y.loops.set n ⟨true, c, BitVec.ofNat 32 ((body - s.codeBase t) / 2), i⟩ }.transfer
          (BitVec.ofNat 64 body))) ∧
    PerLane .nop (Sets [] fun s t y _ => some (seq s t y)) ∧
    PerLane (.nopH b) (Sets [] fun s t y _ => some (seq s t y))

/-- The end-of-body step (R319): with no active level that ends behind the instruction and began before it the next address
follows. Of such levels the one with the greatest start, on a tie the greatest number, is taken: its count falls by one, and the
body begins again unless the count has become 0; then the level ends, and the step goes on with the levels that are left. The other
registers of the thread stay. A thread whose PC becomes mt stands at its meeting point (R309). -/
def Obligations.EndOfBodyStep : Prop :=
  ∀ (y : Thread) (cb len n : Nat), n = y.pc.toNat + len →
    ((∀ k : Fin 3, ¬bodyEnds y cb n k) → (y.finish cb len).pc = BitVec.ofNat 64 n ∧ (y.finish cb len).loops = y.loops) ∧
    (∀ k : Fin 3, bodyEnds y cb n k →
      (∀ j : Fin 3, bodyEnds y cb n j → y.loops[j].first cb < y.loops[k].first cb ∨
        y.loops[j].first cb = y.loops[k].first cb ∧ j ≤ k) →
      (y.loops[k].count ≠ 1 → (y.finish cb len).pc = BitVec.ofNat 64 (y.loops[k].first cb) ∧
        (y.finish cb len).loops = y.loops.set k { y.loops[k] with count := y.loops[k].count - 1 }) ∧
      (y.loops[k].count = 1 → y.finish cb len =
        { y with loops := y.loops.set k { y.loops[k] with count := 0, active := false } }.finish cb len)) ∧
    (∀ z : Thread, z = y.finish cb len →
      z.wait = (if z.pc = y.mt then .meet else .none) ∧ z.mt = y.mt ∧ z.preds = y.preds ∧ z.l0 = y.l0 ∧ z.l1 = y.l1 ∧
      z.wb = y.wb ∧ z.oc = y.oc ∧ z.perches = y.perches ∧ z.fpmode = y.fpmode ∧ z.tstat = y.tstat ∧ z.xpc = y.xpc ∧
      z.xcause = y.xcause ∧ z.xval = y.xval ∧ z.xvec = y.xvec ∧ z.xdepth = y.xdepth ∧ z.save = y.save ∧ z.lt = y.lt ∧
      z.accs = y.accs ∧ z.live = y.live)

/-- call and ret: call slides the window up by 8 n8, writes the link as with K = 1 to the new g63 and goes to its target; ret
reads g63, slides down by the n8 of the link, frees the entries above the window and goes to the link's address (R219, R220). A call
without room, and a ret whose link is none, trap STACK_LIMIT (0x22) with the reason and the window base that would have come. -/
def Obligations.CallAndReturn : Prop :=
  (∀ (o : Off19) (n : N8), 0 < n.val → PerLane (.call o n) (Calls o n) ∧
    Traps (.call o n) [] (fun s t x _ => s.stackN t < x.wb + 8 * n.val + 64) 0x22 (fun _ _ x _ =>
      BitVec.ofNat 64 ((x.wb + 8 * n.val) % 2 ^ 32 * 2 ^ 32 + 1))) ∧
  PerLane .ret Rets ∧ RetTraps

/-- ocflush writes every dirty entry back, leaves no entry and releases the pins of the thread's slots; ockeep at level 0b00 fills
the entry and pins its row, the oldest of more than eight pins being released, and at level 0b10 releases the pin (R221,
R222). -/
def Obligations.OperandCacheControl : Prop :=
  PerLane .ocflush Flushes ∧
  (∀ r : Reg,
    PerLane (.ockeep r true) (Keeps r) ∧
    (PerLane (.ockeep r false) (Unkeeps r)))

/-- exit ends a thread whose accesses have bound (R317): it is live no more, and nothing else changes while its crew has another
live thread; with its last thread the crew departs, and with its last crew and copy the gang ends. -/
def Obligations.ThreadExit : Prop :=
  PerLane .exit Exits

/-- brk and trap take BREAKPOINT and SOFTWARE, the one with xval 0 and xpc at the brk, the other with the value of a and xpc behind
the trap (R321, 17 R374; the latter xpc is log entry 16). A thread with a handler and room for its window enters it for a precise cause
that is no data trigger as R365 says: xpc, xcause, xval, xdepth and the trap save are written, mt becomes 1, the loop levels end, the
window moves up by 64 and the PC is at the handler. Without a handler, in the handler, or without room for its window the trap is
fatal and contains the launch with that cause (R365, R383). A data trigger contains it in any case (R382). tret at depth 1 moves the
window down by 64, frees the entries above it, restores the trap save, goes to xpc at depth 0 and then takes a held cause, if there is
one (R374); at depth 0 it traps ILLEGAL_INSTR with the instruction word. -/
def Obligations.TrapsAndReturns : Prop :=
  Traps .brk [] (fun _ _ _ _ => True) 0x28 (fun _ _ _ _ => 0) ∧
  (∀ a : Src, Traps (.trap a) [a] (fun _ _ _ _ => True) 0x29 (fun _ _ _ vs => dataAt vs 0)) ∧
  (∀ (s : State) (t : Nat) (x : Thread) (c : Byte) (v : Word), s.threads.get? t = some x →
    let xpc := if c = 0x29 then x.pc + 4 else x.pc
    (c ∉ [0x09#8, 0x18#8, 0x30#8, 0x31#8] →
      (∀ s1, Handled s t x (c.setWidth 64) v xpc s1 → s.trapT t c v none = s1) ∧
      (∀ s1, Unhandled s t x c.toNat v s1 → s.trapT t c v none = s1)) ∧
    (c ∈ [0x09#8, 0x18#8, 0x31#8] → ∀ g, s.gangs.get? (gangOf t) = some g →
      s.trapT t c v none = (s.recordTrap g t v (c.setWidth 64)).contain g.slot c.toNat g.detail false)) ∧
  PerLane .tret ReturnsFromTrap ∧
  Traps .tret [] (fun _ _ x _ => x.xdepth = false) 0x01 (fun s _ _ _ => s.cur.word)

/-- sget writes the value of a system register as a point and leaves the latches (R374, R371); sput writes the writable ones and
ignores the others (R371). What each of them holds is stated here one by one: of xpend the slots as R373 lays them out, of tcfg the
fields of 12 R275. -/
def Obligations.SystemRegisters : Prop :=
  (∀ (d : Dst) (r : SysReg), PerLane (.sget d r) (WritesMany d.reg.val d.k (fun _ _ => []) fun s t x _ =>
    some ([pt (s.sysReg t x r.val)], id))) ∧
  (∀ (s : State) (t : Nat) (x : Thread) (g : Gang), s.gangs.get? (gangOf t) = some g →
    s.sysReg t x 1 = BitVec.ofNat 64 (t / 32 % 32) ∧ s.sysReg t x 5 = BitVec.ofNat 64 g.core ∧
    s.sysReg t x 6 = BitVec.ofNat 64 g.kernel.codeBase ∧ s.sysReg t x 8 = BitVec.ofNat 64 s.time ∧
    s.sysReg t x 9 = x.fpmode.setWidth 64 ∧ s.sysReg t x 11 = x.tstat.setWidth 64 ∧ s.sysReg t x 16 = x.xpc ∧
    s.sysReg t x 17 = x.xcause ∧ s.sysReg t x 18 = x.xval ∧ s.sysReg t x 19 = (if x.xdepth then 1 else 0) ∧
    s.sysReg t x 22 = (if x.step then 1 else 0) ∧
    (g.node = none → s.sysReg t x 2 = BitVec.ofNat 64 g.index) ∧
    (g.node ≠ none → s.sysReg t x 2 = 1#1 ++ 0#31 ++ BitVec.ofNat 32 g.nodeSerial) ∧
    (g.kernel.span ≤ 1 → s.sysReg t x 3 = s.sysReg t x 2) ∧
    (∀ p, 1 < g.kernel.span → s.spans.get? g.span = some p → s.sysReg t x 3 = BitVec.ofNat 64 p.index) ∧
    s.sysReg t x 4 = 0#40 ++ (match g.node with | some n => BitVec.ofNat 8 n | none => 0) ++ BitVec.ofNat 16 g.lid ∧
    (g.grows < 2 ^ 16 → g.gcols < 2 ^ 16 →
      s.sysReg t x 10 = 0#31 ++ BitVec.ofBool g.fit ++ BitVec.ofNat 16 g.gcols ++ BitVec.ofNat 16 g.grows) ∧
    (let held (n : Fin 3) : BitVec 16 := BitVec.ofBool x.pend[n].valid ++ BitVec.ofBool x.pend[n].lost ++ 0#6 ++ x.pend[n].cause
     s.sysReg t x 20 = 0#16 ++ held 2 ++ held 1 ++ held 0) ∧
    (g.kernel.protected_ = true → s.sysReg t x 0 = BitVec.ofNat 64 (16 * (t / 32 % 32) + t % 32 / 2)) ∧
    (g.kernel.protected_ = false → s.sysReg t x 0 = BitVec.ofNat 64 (t % 1024)) ∧
    (x.xvec.toNat < 2 ^ 32 → s.sysReg t x 21 = x.xvec)) ∧
  (∀ (r : SysReg) (a : Src), PerLane (.sput r a) (Sets [a] fun s t y vs =>
    let v := dataAt vs 0
    some (seq s t (match r.val with
      | 9 => { y with fpmode := v.setWidth 8 &&& 7 }
      | 11 => { y with tstat := v.setWidth 8 }
      | 16 => { y with xpc := v }
      | 20 => { y with pend := y.pend.mapIdx fun i p => { p with lost := p.lost && !v.getLsbD (16 * i + 14) } }
      | 21 => { y with xvec := (v.setWidth 32).setWidth 64 }
      | 22 => { y with step := v.getLsbD 0 }
      | _ => y))))

/-! ## Loads, stores, atomics and waits (08 R181 to R203) -/

/-- Every load form, in the order of R202: a load whose address is aligned, permitted and translated is issued behind the thread's
earlier accesses, and the thread goes on; its registers are written when it binds. The signed forms sign-extend (R185), imm9 is
scaled by the size up to 8 bytes (R184). ld.iv and loads from the peer window wait at their instruction, and complete when the
access binds (R187, 05 R106). -/
def Obligations.LoadsIssue : Prop :=
  (∀ (d : Dst) (a : Src) (i : Imm9),
    PerLane (.ldN8 d a i) (Issues .zx 1 1 d a i) ∧ PerLane (.ldS8 d a i) (Issues .sx 1 1 d a i) ∧
    PerLane (.ldN16 d a i) (Issues .zx 2 2 d a i) ∧ PerLane (.ldS16 d a i) (Issues .sx 2 2 d a i) ∧
    PerLane (.ldN32 d a i) (Issues .zx 4 4 d a i) ∧ PerLane (.ldS32 d a i) (Issues .sx 4 4 d a i) ∧
    PerLane (.ldB64 d a i) (Issues .zx 8 8 d a i) ∧ PerLane (.ldB64x2 d a i) (Issues .pair 16 8 d a i) ∧
    PerLane (.ldB64x4 d a i) (Issues .quad 32 8 d a i)) ∧
  (∀ (d : Dst) (a : Src) (i : Imm9),
    (∀ f : FW, PerLane (.ldIv f d a) (IvIssues f d a)) ∧
    PerLane (.ldN8 d a i) (FromPeer .zx 1 1 d a i) ∧ PerLane (.ldS8 d a i) (FromPeer .sx 1 1 d a i) ∧
    PerLane (.ldN16 d a i) (FromPeer .zx 2 2 d a i) ∧ PerLane (.ldS16 d a i) (FromPeer .sx 2 2 d a i) ∧
    PerLane (.ldN32 d a i) (FromPeer .zx 4 4 d a i) ∧ PerLane (.ldS32 d a i) (FromPeer .sx 4 4 d a i) ∧
    PerLane (.ldB64 d a i) (FromPeer .zx 8 8 d a i) ∧ PerLane (.ldB64x2 d a i) (FromPeer .pair 16 8 d a i) ∧
    PerLane (.ldB64x4 d a i) (FromPeer .quad 32 8 d a i))

/-- Every store form: the data registers' low bytes enter the coalescer of the thread's issue slot at the address, and the thread
goes on; entries that are full are sent (R189, R190). -/
def Obligations.StoresEnterTheCoalescer : Prop :=
  ∀ (d : Reg) (a : Src) (i : Imm9),
    Stored (.stB8 d a i) (Coalesces 1 1 1 d a i) ∧ Stored (.stB16 d a i) (Coalesces 2 2 1 d a i) ∧ Stored (.stB32 d a i) (Coalesces 4 4 1 d a i) ∧
    Stored (.stB64 d a i) (Coalesces 8 8 1 d a i) ∧ Stored (.stB64x2 d a i) (Coalesces 16 8 2 d a i) ∧ Stored (.stB64x4 d a i) (Coalesces 32 8 4 d a i) ∧
    ∀ f : FW, Stored (.stIv f d a) (IvCoalesces f d a)

/-- What every store form leaves unchanged, where its threads store (R189 to R191): every byte of device memory and of the pools, since
the stores stand in the coalescer or on their way; every thread outside the bundle; in a thread of it all but the PC and what
completion moves, lt, its accesses, and the caches of the registers that it reads. No operand-cache row is spilled by the instruction
itself, so that no address that framePa gives for a slot or a kind word changes either. -/
def Obligations.StoresLeaveMemoryAndRegisters : Prop :=
  ∀ (d : Reg) (a : Src) (i : Imm9) (j : Instr) (R : LaneStep),
    (j, R) ∈ ([(.stB8 d a i, Coalesces 1 1 1 d a i), (.stB16 d a i, Coalesces 2 2 1 d a i), (.stB32 d a i, Coalesces 4 4 1 d a i),
      (.stB64 d a i, Coalesces 8 8 1 d a i), (.stB64x2 d a i, Coalesces 16 8 2 d a i), (.stB64x4 d a i, Coalesces 32 8 4 d a i),
      (.stIv .f32 d a, IvCoalesces .f32 d a), (.stIv .f64 d a, IvCoalesces .f64 d a)] : List (Instr × LaneStep)) →
    ∀ s s1 s' : State, s.unprotected → Chain R s.bundleThreads s s1 → exec j s = .next s' →
    (∀ b, s'.memByte b = s.memByte b) ∧ s'.pool = s.pool ∧ s'.hbm = s.hbm ∧ s'.l2 = s.l2 ∧ s'.crews = s.crews ∧
    ((∀ q, a ≠ .special (.pop q)) → s'.gangs = s.gangs) ∧
    (∀ u, u ∉ s.bundleThreads → s'.threads.get? u = s.threads.get? u) ∧
    (∀ t p va k, s'.framePa t va k = .ok p ↔ s.framePa t va k = .ok p) ∧
    ∀ t ∈ s.bundleThreads, ∀ x, s.threads.get? t = some x → ∃ y, s'.threads.get? t = some y ∧
      y = { x with
        pc := y.pc, loops := y.loops, wait := y.wait, due := y.due, lt := y.lt, accs := y.accs, pend := y.pend
        deadReads := y.deadReads, oc := y.oc, uses := y.uses, perches := y.perches, dead := y.dead } ∧
      ∀ m, (∀ r, a = Src.oc r ∨ a = Src.last r ∨ a = Src.direct r → m ≠ x.wb + r.val) →
        (∀ n, n < 4 → m ≠ x.wb + (d + Fin.ofNat 64 n).val) →
        y.oc.get? m = x.oc.get? m ∧ y.perches.get? m = x.perches.get? m ∧ (m ∈ y.dead ↔ m ∈ x.dead)

/-- An atom of scope .gang or .span on device memory, or on a pad, is performed at once and writes the old value to d; one of scope
.dev or .sys, or to the peer window, waits at its instruction for the place that performs it (R193 to R195). What it leaves
(R194): add wraps, min and max go by the type's signedness, cas stores on equality, incw counts up to the operand and then from 0. -/
def Obligations.AtomsPerformOrWait : Prop :=
  (∀ (w : Width) (op : AtomOp) (sc : Scope) (d : Dst) (a : Src),
    PerLane (.atom w op sc d a) (Atoms w op sc d a)) ∧
  (∀ (old v c : Word),
    atomNew .add .w64 old v c = (old + v).toNat ∧ atomNew .add .w32 old v c = (lo old + lo v).toNat ∧
    atomNew .minN .w64 old v c = (if old.ule v then old else v).toNat ∧
    atomNew .maxN .w32 old v c = (if (lo old).ule (lo v) then lo v else lo old).toNat ∧
    atomNew .minS .w64 old v c = (if old.sle v then old else v).toNat ∧
    atomNew .maxS .w32 old v c = (if (lo v).sle (lo old) then lo old else lo v).toNat ∧
    atomNew .and .w32 old v c = (lo old &&& lo v).toNat ∧ atomNew .or .w64 old v c = (old ||| v).toNat ∧
    atomNew .xor .w32 old v c = (lo old ^^^ lo v).toNat ∧ atomNew .xchg .w32 old v c = (lo v).toNat ∧
    atomNew .cas .w64 old v c = (if old = v then c else old).toNat ∧
    atomNew .cas .w32 old v c = (if lo old = lo v then lo c else lo old).toNat ∧
    atomNew .incw .w64 old v c = (if v.ule old then 0 else old + 1).toNat)

/-- scope.drop recalls the line and clears its scope tag (R196); fence.rep completes when the replicated stores are acknowledged
and observes their greatest ts2 (R197, 05 R123); pf changes no register and no memory byte (R198); wait returns when each
selected class has at most its count outstanding (R200). -/
def Obligations.FencesPrefetchAndWait : Prop :=
  ∀ (a : Src) (c : Byte) (m : Mask4),
    PerLane (.scopeDrop a) (DropsScope a) ∧
    PerLane .fenceRep FencesReplicas ∧
    PerLane (.pf a) (Prefetches a) ∧
    PerLane (.wait c m) (Waits c m)

/-! ## Barriers, queue registers, node records and sleep (16 R349 to R360) -/

/-- qput appends its value with the thread's lt to a queue with room when no access of the thread is outstanding, qget pops the
head, qlen writes the number of entries (R357). A queue number beyond the gang's traps ILLEGAL_INSTR. sleep starts for
min(a + imm, 2^32 - 1) core cycles, none of which completes at once; a sleep that a stop interrupted resumes its remainder (R360). -/
def Obligations.QueueRegistersAndSleep : Prop :=
  ∀ (q : QReg) (d : Dst) (a : Src) (i : Imm9),
    PerLane (.sleep a i) (Sleeps a i) ∧ PerLane (.sleep a i) (SleepsOn a) ∧
    PerLane (.qput q a) (Pushes q a) ∧
    PerLaneIf (fun g => q.val < g.kernel.queues) (.qget d q) (Writes d [.special (.pop q)] fun _ _ _ vs => (pt (dataAt vs 0), 0)) ∧
    PerLaneIf (fun g => q.val < g.kernel.queues) (.qlen d q) (Writes d [] fun s t _ _ =>
      (pt (BitVec.ofNat 64 ((s.queuesOf (gangOf t))[q]).length), 0)) ∧
    TrapsIf (fun g => g.kernel.queues ≤ q.val) (.qput q a) 0x01 (fun s => s.cur.word) ∧
    TrapsIf (fun g => g.kernel.queues ≤ q.val) (.qget d q) 0x01 (fun s => s.cur.word) ∧
    TrapsIf (fun g => g.kernel.queues ≤ q.val) (.qlen d q) 0x01 (fun s => s.cur.word)

/-- bar.arr, bar.wait, bar.sync, bar.exp and sbar, performed once for a crew whose accesses have bound (R349, R352, R354). sbar is a
bar.sync on a barrier of the span: the crew's bit is set once, and the crew leaves with the phase that its arrival or another
completes, or waits. -/
def Obligations.Barriers : Prop :=
  (∀ (n : BReg) (c : KReg16),
    CrewOnceIf (hasBar n) (.barArr n) (BarArr n) ∧ CrewOnceIf (hasBar n) (.barWait n) (Awaits false n) ∧
    CrewOnceIf (hasBar n) (.barSync n) (BarSync n) ∧ CrewOnceIf (hasBar n) (.barExp n c) (BarExp n c)) ∧
  (∀ n : Fin4, CrewOnce (.sbar n) (SpanBarrier n))

/-- nput and ibsp send a record to the bin slot behind the records it holds, under the store's rules, and complete (R358, R359, 11
R266); ibsp keeps the lower half of a proper interval in d, and of a point or of one that does not split keeps the value and
sends nothing. -/
def Obligations.NodeRecords : Prop :=
  (∀ a b : Src, PerLane (.nput a b) (NodePuts a b)) ∧
  (∀ (f : FW) (d : Dst) (a b : Src), PerLane (.ibsp f d a b) (Bisects f d a b))

/-! ## Crew-collective and lane instructions (14 R311, 10 R233, R238 to R244) -/

/-- A crew-collective instruction that not every live member has reached is held there, and changes nothing but the waiting of the
bundle's threads (R311), if no operand-cache entry or latch that it reads carries an uncorrectable error (17 R368). -/
def Obligations.CollectivesHoldTheirMembers : Prop :=
  ∀ (k k' : KReg) (a b : Src) (n : BReg) (m : Fin4) (c c' c'' : KReg16) (n8 : N8) (h h' h'' : MReg) (d : Dst) (r : Reg) (e : Epoch)
    (f : EFmt) (p : Planes) (s : State),
    s.unprotected → s.gangHas (fun g => n.val < g.kernel.barriers) → s.crewDue s.curCrew = false →
    ∀ i ∈ ([.kmov k k', .callk k n8, .barArr n, .barWait n, .barSync n, .barExp n c, .sbar m, .tfree h, .cpIn k h c c',
          .cpOut k h c c', .cpOutAdd k h c c', .cpMc k h c c' c'', .cpPad k c c' c'', .cpPadOut k c c' c'', .cpFill k h c,
          .recFence, .recPf c, .own h, .mma e h h' h'', .mmaSat e h h' h'', .mcvt f p h h', .mrmax h h', .mrsum h h',
          .mexp2 h h', .mrscale h h' h'', .mmask h c, .mhdrGet d h, .mdrain k h c c', .mdrainAdd k h c c', .mzero h,
          .tshape c, .mplan c] : List Instr).map (fun i => (i, ([] : List Src))) ++
        [(.movk k a, [a]), (.ldk k a, [a]), (.grow a, [a]), (.shrink a, [a]), (.claim a, [a]), (.release a, [a]),
          (.talloc h a, [a]), (.mhdrSet r h, [.oc r, .oc (r + 1)]), (.mget d h a, [a]), (.mput r h b, [.oc r, b])],
      (∀ t ∈ s.bundleThreads, s.badSource t i.2 = none) →
      exec i.1 s = .next (s.onThreads s.bundleThreads fun x => { x with wait := .coll })

/-- movk and kmov write a k register once: the value of the lowest live member, or of the other k register with the time of its
completion observed (R233, R234, 06 R147). callk moves every live member to its target with a link of its own (09 R219). -/
def Obligations.CrewRegisters : Prop :=
  (∀ (k : KReg) (a : Src), CrewOnce (.movk k a) (MovesToK k a)) ∧
  (∀ k k' : KReg, CrewOnce (.kmov k k') (CopiesK k k')) ∧
  (∀ (k : KReg) (n : N8), CrewOnce (.callk k n) (CallsK k n)) ∧
  (∀ (k : KReg) (a : Src), CrewOnce (.ldk k a) (LoadsK k a))

/-- The exchanges of a due group (R242): shfl gives a member the value of the member that its selector names, or its own; lsh that
of its neighbour, or its own d; match the mask of the members with an equal value; vote the predicates that match the sense. A
lane is named by its number among the 32 of an unprotected crew. bcast.first writes the k register once and no g register. Each
completes for a due group whose sources can be read, with no access due to its destination. -/
def Obligations.LaneExchanges : Prop :=
  ∀ (d : Dst) (a b : Src) (p : PReg) (se : Sense) (k : KReg) (sm : ShflMode) (sd : LshDir) (vm : VoteMode),
    let hit (s : State) (m : Nat → Option (List Val)) (l : Nat) : Bool :=
      (m l).isSome && (match s.threads.get? (tkey s.cur.gang s.cur.crew l) with | some x => senseHit se (x.pred p) | none => false)
    let mask (q : Nat → Bool) : Word := BitVec.ofNat 64 ((List.range 32).foldl (fun n l => if q l then n + 2 ^ l else n) 0)
    Group (.shfl .idx d a b) [a, .oc d.reg, b] d (fun _ m l =>
      (pt (dataOf m ((dataOf m l 1 0).toNat % 32) 0 (dataOf m l 0 0)), 0)) ∧
    Group (.shfl .xor d a b) [a, .oc d.reg, b] d (fun _ m l =>
      (pt (dataOf m (l ^^^ ((dataOf m l 1 0).toNat % 32)) 0 (dataOf m l 0 0)), 0)) ∧
    Group (.lsh .up d a b) [a, .oc d.reg, b] d (fun _ m l =>
      (pt (if l = 0 then dataOf m l 1 0 else dataOf m (l - 1) 0 (dataOf m l 1 0)), 0)) ∧
    Group (.lsh .dn d a b) [a, .oc d.reg, b] d (fun _ m l => (pt (dataOf m (l + 1) 0 (dataOf m l 1 0)), 0)) ∧
    Group (.matchLane d a b) [a, b] d (fun _ m l =>
      (pt (mask fun j => (m j).isSome && dataOf m j 0 0 == dataOf m l 0 0), 0)) ∧
    Group (.vote .ballot d p se b) [b] d (fun s m _ => (pt (mask (hit s m)), 0)) ∧
    Group (.vote .any d p se b) [b] d (fun s m _ => (pt (if (List.range 32).any (hit s m) then 1 else 0), 0)) ∧
    Group (.vote .all d p se b) [b] d (fun s m _ =>
      (pt (if (List.range 32).all fun j => (m j).isNone || hit s m j then 1 else 0), 0)) ∧
    (∀ s s' s1 : State, ∀ vals t r, s.unprotected → s.bundleThreads = t :: r →
      (∀ u ∈ s.bundleThreads, ∃ x, s.threads.get? u = some x ∧ x.due = true) →
      laneReads [a, b] s.bundleThreads s = .ok (vals, s1) → s.kPending s.curCrew k.val = false →
      Chain (fun s2 u s3 => s3 = s2.modT u fun y => y.finish (s2.codeBase u) s2.cur.len) s.bundleThreads
        (s1.modC s.curCrew fun c => { c with k := c.k.set k (dataOf (member vals) (laneOf t) 0 0), ktok := c.ktok.erase k.val }) s' →
      exec (.bcastFirst k a b) s = .next s') ∧
    GroupFinishes (.shfl sm d a b) [a, .oc d.reg, b] d ∧ GroupFinishes (.lsh sd d a b) [a, .oc d.reg, b] d ∧
    GroupFinishes (.matchLane d a b) [a, b] d ∧ GroupFinishes (.vote vm d p se b) [b] d ∧
    (∀ s : State, s.unprotected → s.bundleThreads ≠ [] → (∀ u, Src.special (.pop u) ∉ [a, b]) →
      s.kPending s.curCrew k.val = false →
      (∀ t ∈ s.bundleThreads, ∃ x, s.threads.get? t = some x ∧ x.live = true ∧ x.due = true ∧
        ∃ vs, s.readAll t [a, b] = .ok vs) →
      ∃ s', exec (.bcastFirst k a b) s = .next s' ∧ ∀ t ∈ s.bundleThreads, ∃ y, s'.threads.get? t = some y ∧
        y.live = true ∧ y.due = false)

/-- The integer reductions and scans of a due group (R243): the operation over all members, or over the members up to the own lane;
lanes without a member count as the identity. The float reductions combine the 32 leaves in the fixed tree of R243, and every
member receives the flags of every node (R244). Each completes for a due group whose sources can be read, with no access due to
its destination. -/
def Obligations.Reductions : Prop :=
  (∀ (w : Width) (g : Sgn) (d : Dst) (a b : Src),
    let wide (f : Word → Word) : Word → Word := fun v => match w with | .w64 => f v | .w32 => up (lo (f v))
    let least (g : Sgn) : Word := match g with | .n => 0 | .s => 0x8000000000000000#64
    let most (g : Sgn) : Word := match g with | .n => BitVec.allOnes 64 | .s => 0x7FFFFFFFFFFFFFFF#64
    Group (.reduxAdd w d a b) [a, b] d (fun _ m _ => (pt (wide id (overLanes (· + ·) 0 m 32)), 0)) ∧
    Group (.reduxAnd w d a b) [a, b] d (fun _ m _ => (pt (wide id (overLanes (· &&& ·) (BitVec.allOnes 64) m 32)), 0)) ∧
    Group (.reduxOr w d a b) [a, b] d (fun _ m _ => (pt (wide id (overLanes (· ||| ·) 0 m 32)), 0)) ∧
    Group (.reduxXor w d a b) [a, b] d (fun _ m _ => (pt (wide id (overLanes (· ^^^ ·) 0 m 32)), 0)) ∧
    Group (.reduxMin g d a b) [a, b] d (fun _ m _ =>
      (pt (overLanes (fun x y => if leq g x y then x else y) (most g) m 32), 0)) ∧
    Group (.reduxMax g d a b) [a, b] d (fun _ m _ =>
      (pt (overLanes (fun x y => if leq g y x then x else y) (least g) m 32), 0)) ∧
    Group (.scanAdd w d a b) [a, b] d (fun _ m l => (pt (wide id (overLanes (· + ·) 0 m (l + 1))), 0)) ∧
    Group (.scanMax g d a b) [a, b] d (fun _ m l =>
      (pt (overLanes (fun x y => if leq g y x then x else y) (least g) m (l + 1)), 0)) ∧
    ∀ i ∈ ([.reduxAdd w d a b, .reduxAnd w d a b, .reduxOr w d a b, .reduxXor w d a b, .reduxMin g d a b, .reduxMax g d a b,
      .scanAdd w d a b, .scanMax g d a b] : List Instr), GroupFinishes i [a, b] d) ∧
  (∀ (f : FW) (d : Dst) (a b : Src),
    let reduces (op : Nat → Nat → FRes) (ident : Nat) : State → (Nat → Option (List Val)) → Nat → Val × Byte := fun _ m _ =>
      let node (x y : FRes) : FRes := ((op x.1 y.1).1, x.2 ||| y.2 ||| (op x.1 y.1).2)
      let level (l : List FRes) : List FRes :=
        (List.range (l.length / 2)).map fun i => node (l.getD (2 * i) (ident, 0)) (l.getD (2 * i + 1) (ident, 0))
      let leaves : List FRes := (List.range 32).map fun l => match m l with
        | some vs => ((dataAt vs 0).toNat % 2 ^ f.fmt.bits, 0)
        | none => (ident, 0)
      let r := (level (level (level (level (level leaves))))).getD 0 (ident, 0)
      (pt (BitVec.ofNat 64 r.1), r.2)
    Group (.freduxAdd f d a b) [a, b] d (reduces (fun x y => f.fmt.addP .rne (f.fmt.decode x) (f.fmt.decode y)) f.fmt.sign) ∧
    Group (.freduxMin f d a b) [a, b] d (reduces (f.fmt.minmax false) f.fmt.inf) ∧
    Group (.freduxMax f d a b) [a, b] d (reduces (f.fmt.minmax true) (f.fmt.sign + f.fmt.inf)) ∧
    ∀ i ∈ ([.freduxAdd f d a b, .freduxMin f d a b, .freduxMax f d a b] : List Instr), GroupFinishes i [a, b] d)

/-! ## The pool, copies and tile instructions (06 R132 to R154, 07 R160 to R178, 12 R273 to R293) -/

/-- grow, shrink, claim and release by n = a[63:0] of the lowest live member (R149, R150): 0 changes nothing; within the limits the
crew's quota and perches change and the crew completes, or waits at the allocator or at the pot; beyond them every live member
takes POOL_LIMIT with the reason and n (R154). pinfo writes the pool word (R151). -/
def Obligations.QuotasAndPerches : Prop :=
  ∀ (a : Src) (d : Dst),
    CrewOnce (.grow a) (Grows a) ∧
    CrewOnce (.shrink a) (Shrinks a) ∧
    CrewOnce (.claim a) (ClaimsPerches a) ∧
    CrewOnce (.release a) (Releases a) ∧
    PerLane (.pinfo d) (WritesMany d.reg.val d.k (fun _ _ => []) fun s t _ _ => some ([pt (s.poolWord t)], id))

/-- talloc binds its handle to the lowest free region that fits, waits at the allocator where none does, or takes POOL_LIMIT; tfree
unbinds a handle that no copy owns and no tile instruction names, and returns the acres above the highest region (R152,
R140). -/
def Obligations.TileHandles : Prop :=
  ∀ (m : MReg) (a : Src),
    CrewOnce (.talloc m a) (Allocates m a) ∧
    CrewOnce (.tfree m) (FreesTile m)

/-- Every copy instruction whose conditions of R178 hold enters a slot of its gang and completes (R162): the copy stands in the
queue with its record, origin and third operand from the k registers, its token reads 0xFF until the copy completes, and the
named tile is ENGINE-owned (R164, R168). -/
def Obligations.CopiesEnterTheQueue : Prop :=
  (∀ (t : KReg) (n : MReg) (r o m : KReg16),
    CrewOnce (.cpIn t n r o) (EntersSlot ⟨.cpIn, t, some n, some r, some o, none⟩) ∧
    CrewOnce (.cpOut t n r o) (EntersSlot ⟨.cpOut, t, some n, some r, some o, none⟩) ∧
    CrewOnce (.cpOutAdd t n r o) (EntersSlot ⟨.cpOutAdd, t, some n, some r, some o, none⟩) ∧
    CrewOnce (.cpMc t n r o m) (EntersSlot ⟨.cpMc, t, some n, some r, some o, some m⟩) ∧
    CrewOnce (.cpPad t m r o) (EntersSlot ⟨.cpPad, t, none, some r, some o, some m⟩) ∧
    CrewOnce (.cpPadOut t m r o) (EntersSlot ⟨.cpPadOut, t, none, some r, some o, some m⟩) ∧
    CrewOnce (.cpFill t n m) (EntersSlot ⟨.cpFill, t, some n, none, none, some m⟩) ∧
    CrewOnce (.mdrain t n r o) (EntersSlot ⟨.mdrain, t, some n, some r, some o, none⟩) ∧
    CrewOnce (.mdrainAdd t n r o) (EntersSlot ⟨.mdrainAdd, t, some n, some r, some o, none⟩)) ∧
  (∀ (s : State) (ck : Nat) (f : CopyForm) (x : Gang) (c : Crew), s.crews.get? ck = some c → s.gangs.get? (ck / 32) = some x →
    let u := s.placeCopy ck f x
    u.kreg ck f.tok = 0xFF ∧
    (∃ y, u.copies.get? s.nextId = some y ∧ y.op = f.op ∧ y.gang = ck / 32 ∧ y.crew = ck % 32 ∧ y.core = x.core ∧
      y.tok = f.tok.val ∧ y.phase = .queued ∧ y.orphan = false ∧ (∀ m, f.h = some m → y.handle = m.val) ∧
      (∀ k, f.r = some k → y.recVa = c.k[k16 k]) ∧ (∀ k, f.o = some k → y.origin = c.k[k16 k]) ∧
      (∀ k, f.aux = some k → y.aux = c.k[k16 k]) ∧
      ∀ t ∈ s.liveThreads ck, ∃ z, u.threads.get? t = some z ∧ z.lt = y.tsi) ∧
    (∀ m h, f.h = some m → x.handles.get? m.val = some h →
      (f.op = .cpMc → ∃ k, f.aux = some k ∧ (c.k[k16 k]).getLsbD (x.core % 8) = true) →
      u.gangs.get? (ck / 32) = some { x with handles := x.handles.set m.val { h with owner := some s.nextId } }) ∧
    ((f.h = none ∨ (f.op = .cpMc ∧ ∀ k, f.aux = some k → (c.k[k16 k]).getLsbD (x.core % 8) = false)) → u.gangs = s.gangs) ∧
    ∀ gk, gk ≠ ck / 32 → u.gangs.get? gk = s.gangs.get? gk)

/-- rec.fence empties the core's record cache, rec.pf fills it or changes no more than the members' lt, own waits for the tile and
observes its last copy (R170, R176, R177). -/
def Obligations.RecordCacheAndOwnership : Prop :=
  CrewOnce .recFence FencesRecords ∧
  (∀ r : KReg16, CrewOnce (.recPf r) (PrefetchesRecord r)) ∧
  (∀ n : MReg, CrewOnce (.own n) (Owns n) ∧ CrewOnce (.own n) (OwnsNothing n))

/-- The tile instructions whose operands are owned, free and pass the header and granule checks in the order of R274 enter their unit
with the headers read at issue, and the crew completes (R283, R287 to R289); a failing check is charged to its handle and taken
by every live member. mhdr.get and mhdr.set move a header (R290), mget and mput elements (R291), mzero clears the data bytes of a
tile (R292), tshape grants the first fold that holds the request (R276), mplan loads a plan table that R278 accepts (R279). -/
def Obligations.TileInstructions : Prop :=
  (∀ (e : Epoch) (d a b : MReg) (sat : Bool),
    CrewOnce (if sat then .mmaSat e d a b else .mma e d a b) (Multiplies e d a b sat)) ∧
  (∀ (f : EFmt) (p : Planes) (d a : MReg), CrewOnce (.mcvt f p d a) (Converts f p d a)) ∧
  (∀ (d a b : MReg) (k : KReg16),
    CrewOnce (.mrmax d a) (StartsRowOp d a .mrmax true) ∧ CrewOnce (.mrsum d a) (StartsRowOp d a .mrsum false) ∧
    CrewOnce (.mexp2 d a) (StartsRowOp d a .mexp2 false) ∧
    CrewOnce (.mrscale d a b) (Scales d a b) ∧
    CrewOnce (.mmask d k) (Masks d k)) ∧
  (∀ (d : Dst) (m : MReg), CrewOnce (.mhdrGet d m) (GetsHeader d m)) ∧
  (∀ (d : Reg) (m : MReg), CrewOnce (.mhdrSet d m) (SetsHeader d m)) ∧
  (∀ (d : Dst) (m : MReg) (b : Src), CrewOnce (.mget d m b) (GetsElements d m b)) ∧
  (∀ (d : Reg) (m : MReg) (b : Src), CrewOnce (.mput d m b) (PutsElements d m b)) ∧
  (∀ d : MReg, CrewOnce (.mzero d) (Zeroes d)) ∧
  (∀ r : KReg16, CrewOnce (.tshape r) (Shapes r)) ∧
  (∀ r : KReg16, CrewOnce (.mplan r) (LoadsPlan r))

/-! ## Events of the memory system (04 R79 to R101, 05 R107 to R123, 08 R190, R191, 13 R296 to R299) -/

/-- SLICE_WRITE and LANE_MERGE: a sent entry, first among its threads' accesses and of its store port's for its line (13 R297), is
performed at its line. Its bytes then read as the entry has them, every other byte of memory reads as before; the line's WTS and RTS become max(b, RTS + 1), and the message
has that time (R108, R191, 13 R298). A merge needs the old granules to pass their check; a replicated page here has no unfenced
store of the other die (05 R122). -/
def Obligations.StoresReachTheirBytes : Prop :=
  ∀ (s : State) (m pa gpa n : Nat) (e : StoreEntry) (l : L2Line),
    s.msgs.get? m = some ⟨e, .sent, n⟩ → s.msgReady m e = true → e.place = .dev pa gpa → entryOrdered e →
    (e.rep = false ∨ s.repMarks = []) →
    standsAt s (pa / 64) e.key e.core l →
    let stored (t : State) : Prop :=
      let ts := Nat.max (s.boundMsg e) (l.rts + 1)
      (∀ i b, Tab.get? e.bytes i = some b → t.memByte (pa / 64 * 64 + i) = b) ∧
      (∀ a, (∀ i b, Tab.get? e.bytes i = some b → a ≠ pa / 64 * 64 + i) → t.memByte a = s.memByte a) ∧
      (∃ n, t.l2.get? (pa / 64) = some n ∧ n.wts = ts ∧ n.rts = ts) ∧ t.msgs.get? m = some ⟨e, .performed ts [], n⟩
    (e.bytes ≠ [] → e.part = [] → ∃ t, exec (.sliceWrite m) s = .next t ∧ stored t) ∧
    (e.part ≠ [] → (∀ k ∈ e.part, (l.gr.getD k ⟨0, 0, true⟩).check (gpa + 8 * k) = none) →
      ∃ t, exec (.laneMerge m) s = .next t ∧ stored t)

/-- Events that only move lines leave every byte of memory as it reads, where no stored line is damaged beyond what its code tells: a
read of HBM into a set with room, whatever error the stack finds but a miscorrection (04 R81), a drained write queue, a returned line,
a served request, a refresh, a scrub; and an eviction (R82, R109, 13 R299). -/
def Obligations.MovingLinesKeepsTheirBytes : Prop :=
  ∀ s : State, queuesOrdered s → (∀ ln, s.hbmErrs.getD ln .none ≠ .miscorrected) →
    let keeps (i : Instr) : Prop := ∃ t, exec i s = .next t ∧ ∀ a, t.memByte a = s.memByte a
    (∀ ln key err, s.l2.get? ln = none → s.lineWanted ln key = true → 64 * ln < 2 * dieBytes →
      (s.l2.filter fun e => l2Set e.1 == l2Set ln).length < 16 → err ≠ .miscorrected →
      (s.wqLine ln = none → (s.mslices.getD (msliceOf ln) .init).writing = false) →
      (s.wqLine ln = none ∨ err = .none) → keeps (.hbmRead ln key err)) ∧
    (∀ ms, s.wqs.getD ms [] ≠ [] → ((s.mslices.getD ms .init).writing = true ∨ 48 ≤ (s.wqs.getD ms []).length ∨
      s.readsWait ms = false) → keeps (.writeQueueDrain ms)) ∧
    (∀ ln e, s.l2.get? ln = some e → e.recalled = true → keeps (.recallReturn ln)) ∧
    (∀ t x g va pa gpa size key form slot k toK held r l, s.threads.get? t = some x → s.gangs.get? (gangOf t) = some g →
      x.accs = Acc.load va (.dev pa gpa) size key form slot k toK held none :: r → s.mayBind t x = true →
      s.l2.get? (pa / 64) = some l → l.holder.open (some g.core) = true → keeps (.loadRequest t)) ∧
    (∀ ms, ms < 6144 → keeps (.refresh ms)) ∧
    (∀ ms bank, ms < 6144 → Config.rfmThreshold ≤ (s.mslices.getD ms .init).acts.getD bank 0 → keeps (.rfm ms bank)) ∧
    (∀ ln err, 64 * ln < 2 * dieBytes → err ≠ .miscorrected → keeps (.patrolScrub ln err)) ∧
    (∀ ln e, s.l2.get? ln = some e → (e.dirty = true ∨ e.gr = s.belowLine ln e.key) → ∀ a, (s.evictL2 ln).memByte a = s.memByte a)

/-- Loads and atoms at their slice: a request extends RTS to max(RTS, max(b, WTS) + 63) and the answer waits for its return; a
return binds the load at max(b, WTS) and leaves an L1 copy with the age of the answer, or asks again where the lower bound has
passed the lease (R112); an atom of scope .dev or .sys reads, changes and writes the line at
max(b, RTS + 1), writes the old value to d, and its instruction completes (R107, R108, R117). -/
def Obligations.LoadsAndAtomsAtTheirSlice : Prop :=
  ∀ (s : State) (t pa gpa key slot : Nat) (x : Thread) (g : Gang) (va : Word) (k : Bool) (r : List Acc),
    s.threads.get? t = some x → s.gangs.get? (gangOf t) = some g →
    (∀ size form toK held l, x.accs = Acc.load va (.dev pa gpa) size key form slot k toK held none :: r → s.mayBind t x = true →
      s.l2.get? (pa / 64) = some l → l.holder.open (some g.core) = true →
      let b := s.boundOf t x (.load va (.dev pa gpa) size key form slot k toK held none)
      let rts := Nat.max l.rts (Nat.max b l.wts + 63)
      let gr := if l.key = key then l.gr else l.gr.map fun y => { y with poison := true }
      ∃ u, exec (.loadRequest t) s = .next u ∧ u.l2.get? (pa / 64) = some { l with rts } ∧
        (∀ n, n ≠ pa / 64 → u.l2.get? n = s.l2.get? n) ∧
        u.threads.get? t = some { x with
          accs := Acc.load va (.dev pa gpa) size key form slot k toK held (some ⟨gr, l.wts, rts, s.time, false⟩) :: r } ∧
        ∀ v, v ≠ t → u.threads.get? v = s.threads.get? v) ∧
    (∀ size form toK held a, x.accs = Acc.load va (.dev pa gpa) size key form slot k toK held (some a) :: r →
      s.mayBind t x = true →
      let b := s.boundOf t x (.load va (.dev pa gpa) size key form slot k toK held (some a))
      (a.rts < b → exec (.loadDataReturn t) s = .next (s.modT t fun y => { y with
        accs := .load va (.dev pa gpa) size key form slot k toK held none :: r })) ∧
      (b ≤ a.rts → exec (.loadDataReturn t) s = .next ((if a.mixed then s
        else s.putL1 g.core ⟨pa / 64, a.line, a.wts, a.rts, a.time, key⟩).bindLoad t va size form slot k toK held
          (coveredGrans a.line gpa size) (Nat.max b a.wts)))) ∧
    (∀ w op sc o c srcs l old ts s1 s2, x.accs = Acc.atom va (.dev pa gpa) w op sc key slot k o c srcs :: r →
      s.loose.get? t = none → s.frameBusy t = false → s.l2.get? (pa / 64) = some l → l.holder = .none →
      s.atomLine pa gpa key w (fun old => atomNew op w old o c) sc (s.scopeInst t sc) .none
        (s.boundOf t x (.atom va (.dev pa gpa) w op sc key slot k o c srcs)) = .ok (old, ts, s1) →
      State.writeFor [atomResult op w old] slot k (s.pairOf t)
        (State.commitAll srcs (s.queuesOf (gangOf t)) (s.pairOf t) (s1.popAcc t)) = .ok s2 →
      exec (.l2Atomic t) s = .next ((s.pairOf t).foldl (fun s u => s.finishT u)
        (s2.onThreads (s.pairOf t) fun y => { y with lt := ts })))

/-- The other events of stores and of the memory: an entry open for 32 core cycles is sent; a performed message binds its stores; a
replica update is applied as a store at its copy, where the copy's die has no unfenced store of its granules, and its
acknowledgement reaches the storing threads; a rebase clears every timestamp; the Chain counts failures and after 16 takes a
spare or halves its rate (R190, R191, R111, R121 to R123, 04 R90). -/
def Obligations.MemoryHousekeeping : Prop :=
  ∀ s : State,
    (∀ core slot e, e ∈ (s.core core).coal.getD slot [] → e.2.opened + 32 ≤ s.time → ∃ t i, exec (.coalescerTimeout core slot) s = .next t ∧
      (i ∈ (s.core core).coal.getD slot [] ∧ i.2.opened + 32 ≤ s.time) ∧
      t = s.sendWhere core slot fun n _ => n == i.1) ∧
    (∀ m e ts n, s.msgs.get? m = some ⟨e, .performed ts [], n⟩ → e.node = none →
      exec (.storeAck m) s = .next (({ s with msgs := s.msgs.erase m }.modL e.launch fun l => { l with ct := Nat.max l.ct ts }).onThreads
        e.threads fun x => { x with
          lt := Nat.max x.lt ts
          accs := x.accs.filter fun a => match a with | .store k _ _ => k != m | _ => true })) ∧
    (∀ m r, s.replicas.get? m = some r → r.ts2 = none → s.replicaWaits m r = false →
      (∀ k g, (k, g) ∈ r.gr → ∀ y ∈ s.repMarks, ¬(y.die = r.die ∧ y.gran = r.gran k)) →
      exec (.replicaUpdate m) s = .next { (s.lineStore r.line r.key r.comp r.gr r.ts1).2 with
        replicas := (s.lineStore r.line r.key r.comp r.gr r.ts1).2.replicas.set m
          { r with ts2 := some (s.lineStore r.line r.key r.comp r.gr r.ts1).1 } }) ∧
    (∀ m r ts, s.replicas.get? m = some r → r.ts2 = some ts → r.copy = none → ∃ t, exec (.replicaAck m) s = .next t ∧
      t.replicas.get? m = none ∧ t.l2 = s.l2 ∧
      let u : State := { s.onThreads r.threads fun x => { x with reps := x.reps.filter (· != m), repTs := Nat.max x.repTs ts } with
        replicas := s.replicas.erase m }
      t = if r.threads = [] then u.closeReps id else u) ∧
    (s.rebaseDue = true → s.storesBound = true → ∃ t, exec .rebase s = .next t ∧
      (∀ i x, t.threads.get? i = some x → x.lt = 0) ∧ (∀ ln e, t.l2.get? ln = some e → e.wts = 0 ∧ e.rts = 0 ∧ e.holder = .none) ∧
      t.mts = [] ∧ (∀ i g, t.gangs.get? i = some g → g.padClock = 0) ∧ (∀ i q, t.queues.get? i = some q → q.qlt = 0) ∧
      (s.imaged = [] → ∀ a, t.memByte a = s.memByte a)) ∧
    (∀ dir group, dir < 2 → ∃ t, exec (.chainFlitCrcFail dir group) s = .next t ∧
      t.laneGroup dir group = { s.laneGroup dir group with fails := (s.laneGroup dir group).fails + 1 } ∧ t.hbm = s.hbm) ∧
    (∀ dir group, dir < 2 → 16 ≤ (s.laneGroup dir group).fails → ∃ t, exec (.chainLaneRepair dir group) s = .next t ∧
      (t.laneGroup dir group).fails = 0 ∧
      ((s.laneGroup dir group).spares = 0 → t.chainHalf = true) ∧
      ((s.laneGroup dir group).spares ≠ 0 →
        (t.laneGroup dir group).spares = (s.laneGroup dir group).spares - 1 ∧ t.chainHalf = s.chainHalf))

/-- Walks, code lines and the fault port: a walk with waiters among the 64 oldest of its die is performed; one that ends in a leaf gives
its waiter the page's translation and is over; a waiter whose walk fails enters the fault buffer, where its thread blocks on the page's
entry; a waiter held back enters it once there is room; an absent code line whose page is translated arrives with the contents that memory has,
or that it had while gangs of the core may still fetch them (05 R126); a parity error drops
the line, refetches it and adds a scruple, so that the line which then stands there is what memory answered, and none stands there where
its page is not translated; RESOLVE with RETRY lets the entry's threads issue again, with FAIL gives them the row's
cause, and the entry is free (04 R95 to R101, 05 R126, 17 R370, R390). -/
def Obligations.TranslationAndFetchEvents : Prop :=
  ∀ s : State,
    (∀ n k, s.walks.get? n = some k → k.waiters ≠ [] → s.inWalkers n k = true → ∃ u, exec (.pageWalk n) s = .next u) ∧
    (∀ n k, s.walks.get? n = some k → k.held ≠ [] → s.faultRoom k = true → ∃ u, exec (.faultEntryRetry n) s = .next u) ∧
    (∀ die entry vpn, die < 2 → (∃ u, exec (.resolveRetry die entry vpn) s = .next u) ∧
      ∃ u, exec (.resolveFail die entry vpn) s = .next u) ∧
    (∀ n k t va kind row x, s.walks.get? n = some k → k.waiters = [.thread t va kind] → k.held = [] → s.inWalkers n k = true →
      va.toNat / 65536 = k.vpn → s.threads.get? t = some x → x.wait = .walk n → s.faultRoom k = true →
      let s1 := s.walkLoads (s.walkCache.getD k.die []) k.aspace (65536 * k.vpn)
      s1.sameWalks n k = [n] →
      s1.walk (s.walkCache.getD k.die []) k.aspace va.toNat kind (s1.waiterSlot (.thread t va kind)) = .fail row →
      ∃ u i f, exec (.pageWalk n) s = .next u ∧ u.walks.get? n = none ∧ u.faults.get? (fkey k.die i) = some f ∧
        (.thread t va kind, row) ∈ f.waiters ∧ u.threads.get? t = some { x with wait := .fault k.die i }) ∧
    (∀ n k t va kind e, s.walks.get? n = some k → k.waiters = [.thread t va kind] → k.held = [] → kind ≠ .fetch →
      s.inWalkers n k = true →
      let s1 := s.walkLoads (s.walkCache.getD k.die []) k.aspace (65536 * k.vpn)
      let core := s1.waiterCore k (.thread t va kind)
      s1.sameWalks n k = [n] →
      s1.walk (s.walkCache.getD k.die []) k.aspace va.toNat kind (s1.waiterSlot (.thread t va kind)) = .ok e →
      ∃ u, exec (.pageWalk n) s = .next u ∧ u.walks.get? n = none ∧ e ∈ (u.core core).tlb ∧
        e ∈ u.dieTlb.getD (coreDie core) [] ∧ u.threads = s.threads ∧ u.l2 = s1.l2) ∧
    (∀ n k w row, s.walks.get? n = some k → k.waiters = [] → k.held = [(w, row)] → s.faultRoom k = true →
      exec (.faultEntryRetry n) s = .next
        (({ s with walks := s.walks.modify n fun x => { x with held := [] } }.walkFault n k w row).endWalk n)) ∧
    (∀ core asp ln e pa gpa, s.icLine core asp ln = none → s.tlbLook core none asp (64 * ln) .fetch none = some e →
      e.place (64 * ln) core = .dev pa gpa →
      ∃ u, ∃ gr ∈ (s.fillLine (pa / 64)).peekLine (pa / 64) (leafKey e.leaf) :: s.oldCode core (pa / 64),
        exec (.instructionFetch core asp ln false) s = .next u ∧
        u.icLine core asp ln = some ⟨asp, ln, granBytes gr, gr.any (·.poison), false⟩ ∧ u.threads = s.threads ∧
        u.l2 = (s.fillLine (pa / 64)).l2) ∧
    (∀ core asp ln l, s.icLine core asp ln = some l → ∃ u, exec (.instructionFetch core asp ln true) s = .next u ∧
      u.porast.coreScr.getD core 0 = s.porast.coreScr.getD core 0 + 1 ∧ u.threads = s.threads ∧
      (s.tlbLook core none asp (64 * ln) .fetch none = none → u.icLine core asp ln = none) ∧
      (∀ e pa gpa, s.tlbLook core none asp (64 * ln) .fetch none = some e → e.place (64 * ln) core = .dev pa gpa →
        ∃ gr ∈ (s.fillLine (pa / 64)).peekLine (pa / 64) (leafKey e.leaf) :: s.oldCode core (pa / 64),
          u.icLine core asp ln = some ⟨asp, ln, granBytes gr, gr.any (·.poison), false⟩)) ∧
    (∀ die entry vpn f t va kind row, die < 2 → entry < 4096 → vpn < 2 ^ 41 → s.host.recovery = false →
      s.faults.get? (fkey die entry) = some f → f.vpn = vpn → f.waiters = [(.thread t va kind, row)] →
      ∃ u v, exec (.resolveRetry die entry vpn) s = .next u ∧ exec (.resolveFail die entry vpn) s = .next v ∧
        u.faults.get? (fkey die entry) = none ∧
        (∀ x, s.pairOf t = [t] → s.threads.get? t = some x → x.wait = .fault die entry →
          u.threads.get? t = some { x with wait := if x.due then .coll else .none }) ∧
        ∃ low, v = takeAll { s with host := { s.host with resolveLow := low }, faults := s.faults.erase (fkey die entry) } (rowCause row)
          ((s.pairOf t).map fun u => (u, va)))

/-! ## Events of copies, tile units and the pool (06 R132 to R143, 07 R161 to R180, 12 R273) -/

/-- A core's engine accepts the oldest descriptor while it holds fewer than eight, and reads its record; a multicast, whose receivers'
tiles are free of tile instructions, makes their handles ENGINE-owned then; a copy whose record is not 64-byte aligned lands
with status 3 and code 1 and moves nothing. A landed copy writes its status word to its token, whose readers observe ts_c, gives the
handles that it owns back with ts_c, which threads that stall on them observe, and leaves; one that ends by damaged data contains its
launch. A copy of a killed gang leaves without a token, and one of them that waits on a fault ends. A tile instruction completes by
writing its tile, in the pool alone (R161 to R169, R180, 05 R125, 12 R273, 17 R382, R386). -/
def Obligations.CopiesAndTileInstructionsComplete : Prop :=
  ∀ s : State,
    (∀ core id c, s.rebaseDue = false → s.nextCopy core = some (id, c) → s.engineHolds core < 8 →
      (c.op = .cpMc → s.mcBusy c = false) →
      let a : State := { s with copies := s.copies.modify id fun y => { y with phase := .accepted } }
      (c.op ≠ .cpMc → s.copies.get? id = some c → exec (.copyAccept core) s = .next (a.stepCopy id)) ∧
      (c.op = .cpMc → exec (.copyAccept core) s = .next ((a.claimDests id).stepCopy id) ∧
        ∀ g, s.copies.get? id = some c → s.gangs.get? c.gang = some g →
          let d := a.mcDests g c.gang id c.handle c.aux
          (a.claimDests id).copies.get? id =
            some { c with phase := .accepted, xfer := { c.xfer with dests := d.1, refused := d.2 } } ∧
          ∀ r ∈ d.1, ∃ y h, (a.claimDests id).gangs.get? r.1 = some y ∧ y.handles.get? c.handle = some h ∧ h.owner = some id) ∧
      (∀ g, s.copies.get? id = some c → s.copyGang c = some g → c.recVa.toNat % 64 ≠ 0 → c.op ≠ .cpFill → c.op ≠ .cpMc →
        c.xfer.record = none → ∃ u, exec (.copyAccept core) s = .next u ∧
        u.copies.get? id = some { c with phase := .landed 0x100000003, tsc := Nat.max c.tsc c.tsi } ∧
        u.pool = s.pool ∧ u.hbm = s.hbm ∧ u.l2 = s.l2)) ∧
    (∀ id c w g y, s.copies.get? id = some c → c.phase = .landed w → c.orphan = false → c.prologue = false →
      s.gangs.get? c.gang = some g → (∀ r ∈ s.replicas, r.2.copy ≠ some id) → copyTrigger w = none →
      s.crews.get? (ckey c.gang c.crew) = some y → c.tok < 32 →
      ∃ u : State, exec (.copyComplete id) s = .next (u.checkGangEnd c.gang) ∧ u.copies.get? id = none ∧
        (∃ z, u.crews.get? (ckey c.gang c.crew) = some z ∧ z.k[(Fin.ofNat 32 c.tok)] = w ∧ z.ktok.get? c.tok = some c.tsc ∧
          z.copyTs = Nat.max y.copyTs c.tsc ∧ z.quota = y.quota) ∧
        (∀ gk x n h, s.gangs.get? gk = some x → x.handles.get? n = some h → ∃ x', u.gangs.get? gk = some x' ∧
          x'.handles.get? n = some (if h.owner = some id then { h with owner := none, tsc := some c.tsc } else h)) ∧
        (∀ t x hs n g h, s.threads.get? t = some x → x.wait = .tile hs → n ∈ hs → s.gangs.get? (gangOf t) = some g →
          g.handles.get? n = some h → h.owner = some id → ∃ x', u.threads.get? t = some x' ∧ c.tsc ≤ x'.lt) ∧
        u.pool = s.pool ∧ u.hbm = s.hbm ∧ u.l2 = s.l2) ∧
    (∀ id c w g z, s.copies.get? id = some c → c.phase = .landed w → c.orphan = false → c.prologue = false →
      s.gangs.get? c.gang = some g → (∀ r ∈ s.replicas, r.2.copy ≠ some id) → copyTrigger w = some z →
      ∃ v : State, exec (.copyComplete id) s = .next (v.contain g.slot z.toNat g.detail false) ∧ v.copies.get? id = none) ∧
    (∀ w : Word, copyTrigger w = (if w.extractLsb' 0 8 = 4#8 then some 0x18
      else if w.extractLsb' 0 8 = 1#8 ∧ w.extractLsb' 32 8 = 0x31#8 then some 0x31 else none)) ∧
    (∀ id c w g, s.copies.get? id = some c → c.phase = .landed w → c.orphan = true →
      (∀ r ∈ s.replicas, r.2.copy ≠ some id) → c.env = some g → c.prologue = false →
      ∃ u : State, u.copies.get? id = none ∧ u.crews = s.crews ∧
        (copyTrigger w = none → exec (.copyComplete id) s = .next u) ∧
        ∀ z, copyTrigger w = some z → exec (.copyComplete id) s = .next (u.contain g.slot z.toNat 0xFFFF_FFFF false)) ∧
    (∀ id c die i row, s.copies.get? id = some c → c.phase = .faulted die i row → c.orphan = true →
      exec (.copyComplete id) s = .next (s.failCopy id row)) ∧
    (∀ n o, s.tileOps.get? n = some o → ∃ u, exec (.tileInstructionComplete n) s = .next u ∧ u.tileOps.get? n = none ∧
      u.pool = (s.tileDone o).pool ∧ u.hbm = s.hbm ∧ u.l2 = s.l2 ∧ u.threads = s.threads)

/-- What a tile instruction writes when it completes, its tile's bytes apart in the pool (R285 to R289): mma every element, from the old
one, and the header of 02 R43; the vector forms their elements in place and the header with a fresh HCHK; mcvt every element, or every
plane value and block code, and the header of its target. Beside the tile no byte of the pool changes. The results of fexp2 within the
bounds of 11 R254 are free (log entry 7). -/
def Obligations.TileInstructionsWriteTheirTiles : Prop :=
  ∀ (s : State) (n : Nat) (o : TileOp) (x : Gang) (d a b : Handle), TileInProgress s n o x d a b → Memory.wf s = true →
    let hd := Hdr.ofBits o.hd
    let ha := Hdr.ofBits o.ha
    let hb := Hdr.ofBits o.hb
    let old (i j : Nat) : Nat := s.el32 x d hd i j
    let neg : Nat := 0xFF800000
    (∀ sat e, o.kind = .mma sat e → (hd.efmt = 0x01 ∨ hd.efmt = 0x10) → 4 * (hd.cols + 1) ≤ 32 * hd.pitch →
      tileApart x d (32 + 32 * hd.pitch * (hd.rows + 1)) →
      WritesElements s n x d hd (Hdr.bits ⟨0, 0, 0, e, ((hb.cols + 1) * 4 + 31) / 32, hb.cols, ha.rows, 3, 0, 0, 0, 0,
          if ha.fmt.isFloat then 0x01 else 0x10, 0xA7⟩)
        fun i j => if ha.fmt.isFloat then mmaFloat s x a b ha.asA hb.asB i j (old i j)
          else mmaInt s x a b ha.asA hb.asB sat i j (old i j)) ∧
    (hd.efmt = 0x01 → 4 * (hd.cols + 1) ≤ 32 * hd.pitch → tileApart x d (32 + 32 * hd.pitch * (hd.rows + 1)) →
      (o.kind = .mrmax → hd.cols = 1 → WritesElements s n x d hd hd.bits fun i j =>
        let t := (List.range (ha.cols + 1)).foldl (fun m k => (fmt32.minmax true m (s.el32 x a ha i k)).1) neg
        let new := (fmt32.minmax true (old i 0) t).1
        if j = 0 then new else if new = neg then 0x3F800000 else exp2Diff (old i 0) new) ∧
      (o.kind = .mrsum → WritesElements s n x d hd hd.bits fun i j =>
        if j < hd.cols then old i j
        else (fmt32.addP .rne (fmt32.decode (old i j)) (fmt32.decode
          (rowSum ((List.range (ha.cols + 1)).map fun k => s.el32 x a ha i k)))).1) ∧
      (o.kind = .mexp2 → WritesElements s n x d hd hd.bits fun i j =>
        if s.el32 x a ha i 0 = neg then 0 else exp2Diff (old i j) (s.el32 x a ha i 0)) ∧
      (o.kind = .mrscale → WritesElements s n x d hd hd.bits fun i j =>
        (fmt32.mulP .rne (fmt32.decode (s.el32 x a ha i j)) (fmt32.decode (s.el32 x b hb i hb.cols))).1) ∧
      ∀ k : Word, o.kind = .mmask k → WritesElements s n x d hd hd.bits fun i j =>
        if (i : Int) + (lo k).toInt < j ∨ (k.extractLsb' 32 16).toNat ≤ j ∨ (k.extractLsb' 48 16).toNat ≤ i then neg
        else old i j) ∧
    (∀ f p, o.kind = .mcvt f p → hdrOk o.ha = true → mcvtOk ha f p = true →
      let t := mcvtHdr ha f p
      tileApart x d t.size → ∃ u, exec (.tileInstructionComplete n) s = .next u ∧ u.tileOps.get? n = none ∧
        tileWritten s u x d t.size t.bits ∧
        (p = 0 → ∀ v k, v < ha.vecs → k < ha.kLen →
          u.tileBits x d (if ha.isB then t.elBit k v else t.elBit v k) f.store =
            (if ha.layout = 2 then
              (if ha.fmt.isFloat then planeF32 (s.planeFP x a ha v k) else (s.planeVal x a ha v k % 2 ^ f.width).toNat)
            else if f.isFloat then encodeEl f (s.scaledEl x a ha v k)
            else (intEl ha.fmt (s.elRaw x a ha v k) % 2 ^ f.width).toNat) % 2 ^ f.store) ∧
        (p ≠ 0 → ∀ v b, v < ha.vecs → b < t.nb →
          let raw (q : Nat) : Nat := s.elRaw x a ha v (32 * b + q)
          let r := planeBlock ((List.range 32).map fun q => decodeEl ha.fmt (raw q)) p (s.e8Of x a ha v (32 * b))
          (f.isFloat = true → u.dCode x d t v b = r.1 ∧ ∀ q, q < 32 → u.planeVal x d t v (32 * b + q) = r.2.getD q 0) ∧
          (f.isFloat = false → ∀ q, q < 32 → u.planeVal x d t v (32 * b + q) = intEl ha.fmt (raw q))))

/-- The allocator: the oldest request takes its acres out of the loan while 8 stay, an admission also its slots and its set; they are
drained, those for a pad or tiles are zero-filled, and the request is granted: a grow gives its crew the perches that it has
drawn, then those of the new acres, and completes. Written-out acres return to the loan. Where every resident gang waits for the
pool and nothing has returned for 4,096 cycles, a gang is benched (R135 to R143). -/
def Obligations.TheAllocatorServes : Prop :=
  ∀ (s : State) (core : Nat),
    (∀ r rest, (s.core core).reqs = r :: rest → r.phase = .waiting → r.acres + 8 ≤ (s.core core).loan →
      ((∀ gk, r.kind ≠ .admission gk) →
        ∃ u, exec (.allocatorServe core) s = .next u ∧ (u.core core).reqs = { r with phase := .drain } :: rest ∧
          (u.core core).loan + r.acres = (s.core core).loan ∧ ∀ c, c ≠ core → u.core c = s.core c) ∧
      (∀ gk g l v, r.kind = .admission gk → s.gangs.get? gk = some g → s.canPlace core g = true →
        s.launches.get? g.slot = some l → s.placeGang core gk g l = (.ok (), v) →
        exec (.allocatorServe core) s = .next (v.setCore core fun c => { c with
          reqs := { r with phase := .drain } :: c.reqs.drop 1, loan := c.loan - r.acres }))) ∧
    (∀ r rest, (s.core core).reqs = r :: rest → r.phase = .drain →
      (r.frame < r.acres → ∃ u, exec (.acreDrained core) s = .next u ∧
        (u.core core).reqs = { r with phase := .fill } :: rest ∧ u.gangs = s.gangs ∧ u.hbm = s.hbm) ∧
      (r.acres ≤ r.frame → exec (.acreDrained core) s = .next ((s.drainLines core).grantHead core r))) ∧
    (∀ r rest, (s.core core).reqs = r :: rest → r.phase = .fill →
      exec (.acreFilled core) s = .next ((s.setCore core fun c => { c with reqs := rest }).grant r)) ∧
    (∀ gk n rest, (s.core core).outs = (gk, n) :: rest → 0 < n → ∃ u, exec (.acreWriteoutAck core) s = .next u ∧
      (u.core core).loan = (s.core core).loan + n ∧ (u.core core).outs = rest ∧ (u.core core).lastReturn = s.time) ∧
    (s.readyStop core .bench = none → s.residents core ≠ [] → (∀ gk ∈ s.residents core, s.inPoolWait gk = true) →
      (s.core core).lastReturn + 4096 ≤ s.time →
      ∃ gk ∈ s.residents core, exec (.bench core) s = .next (s.stopSpan gk .bench)) ∧
    (∀ gk g, s.readyStop core .bench = some (gk, g) → exec (.bench core) s = .next (s.finishStop gk g .bench)) ∧
    (∀ ck n acres g c, s.gangs.get? (ck / 32) = some g → s.crews.get? ck = some c →
      let all := g.drawn.getD (ck % 32) [] ++ (List.range (16 * acres)).map (16 * g.frameAcres + ·) ++ g.slack
      (s.takeSlack ck n acres).crews.get? ck =
        some { c with quota := c.quota + n, perchMap := c.perchMap ++ all.take n } ∧
      (s.takeSlack ck n acres).gangs.get? (ck / 32) =
        some { g with slack := all.drop n, drawn := g.drawn.erase (ck % 32), frameAcres := g.frameAcres + acres })

/-! ## Events of scheduling (15 R334 to R346, 16 R360 to R362, 17 R376 to R390) -/

/-- Gangs come to run: dispatch lists a launch's next gang on the core with the shortest list; an admission whose acres are granted
starts every thread of the gang at the code base, one that a span reservation has come to exclude is given up; lists are averaged once in
256 cycles, a quarter of each difference from the end of the longer list to its neighbour's; a reservation ages after 65,536 cycles;
gangs are pre-empted for priority, for a slice and from a drained core; a sleep ends (R334 to R343, 16 R360, 17 R376, R377, R390). -/
def Obligations.GangsAreScheduled : Prop :=
  ∀ s : State,
    (∀ slot l r core, s.dispatchOrder = (slot, l) :: r → s.launches.get? slot = some l → l.nodeQueue = [] → l.kernel.span ≤ 1 →
      s.listCore ((s.queue l.queue).onDies l.queue) = some core →
      ∃ u g, exec .dispatch s = .next u ∧ u.gangs.get? s.nextId = some g ∧ g.slot = slot ∧ g.index = l.nextIndex ∧
        g.core = core ∧ g.phase = .listed ∧ s.nextId ∈ (u.core core).glist ∧
        u.launches.get? slot = some { l with nextIndex := l.nextIndex + 1 }) ∧
    (∀ core ms, s.rebaseDue = false → s.excludedHere core = [] → s.grantedSpan core = some ms →
      exec (.admitGang core) s = .next (s.admitSpan ms)) ∧
    (∀ core gk r, s.rebaseDue = false → s.excludedHere core = gk :: r → exec (.admitGang core) s = .next (s.giveUp gk)) ∧
    (∀ core gk u, s.rebaseDue = false → s.excludedHere core = [] → s.grantedSpan core = none → (∀ e ∈ s.gangs, e.2.core = core → e.2.phase ≠ .prologue) →
      s.spanHere core = none → s.nextListed core = some gk → s.tryListed core gk = some u →
      exec (.admitGang core) s = .next u) ∧
    (∀ gk g n, s.gangs.get? gk = some g → n < 32 * g.kernel.crews → ∃ x,
      (s.startGang gk).threads.get? (tkey gk 0 0 + n) = some x ∧ x.pc = BitVec.ofNat 64 g.kernel.codeBase ∧ x.live = true ∧
      x.mt = 1 ∧ x.wb = 0 ∧ x.xdepth = false) ∧
    (∀ cluster, cluster < 20 → s.averaged.getD cluster 0 < s.time / 256 →
      (∃ u, exec (.listAveraging cluster) s = .next u ∧ u.hbm = s.hbm) ∧
      ((∀ i j, i < 8 → j < 8 → (s.averageable (8 * cluster + i)).length < (s.averageable (8 * cluster + j)).length + 4) →
        exec (.listAveraging cluster) s = .next { s with averaged := s.averaged.set cluster (s.time / 256) }) ∧
      (listsAgree s → ∃ u, exec (.listAveraging cluster) s = .next u ∧ ∀ i < 8,
        let core (j : Nat) : Nat := 8 * cluster + j % 8
        let n (j : Nat) : Nat := (s.averageable (core j)).length
        let up := (n i - n (i + 1)) / 4
        let down := (n i - n (i + 7)) / 4
        let l := (s.averageable (core i)).reverse
        (∀ gk ∈ l.drop (up + down), u.gangs.get? gk = s.gangs.get? gk ∧ gk ∈ (u.core (core i)).glist) ∧
        (∀ gk ∈ l.take (up + down), ∃ g, u.gangs.get? gk = some g ∧ (g.core = core (i + 1) ∨ g.core = core (i + 7)) ∧
          gk ∈ (u.core g.core).glist ∧ gk ∉ (u.core (core i)).glist) ∧
        ((l.take (up + down)).filter fun gk => (u.gangs.get? gk).any fun g => g.core == core (i + 1)).length = up)) ∧
    (∀ cluster k p, s.reserving cluster = some (k, p) → p.aged = false → p.chosenAt + 65536 ≤ s.time →
      s.spans.get? k = some p → ∃ u, exec (.spanAge cluster) s = .next u ∧ u.spans.get? k = some { p with aged := true }) ∧
    (∀ core gk, s.readyStop core .preempt = none → s.stoppingOn core = false →
      (s.prioVictim core = some gk → exec (.preemptPriority core) s = .next (s.stopSpan gk .preempt)) ∧
      (s.sliceVictim core = some gk → exec (.preemptSlice core) s = .next (s.stopSpan gk .preempt))) ∧
    (∀ core gk g, s.readyStop core .preempt = some (gk, g) →
      exec (.preemptPriority core) s = .next (s.finishStop gk g .preempt) ∧
      exec (.preemptSlice core) s = .next (s.finishStop gk g .preempt)) ∧
    (∀ core gk g r, (s.core core).drained = true → (s.core core).drainedAt + 9400000 ≤ s.time → s.readyStop core .drain = none →
      s.running core = (gk, g) :: r → exec (.drainedCorePreemption core) s = .next (s.stopSpan gk .drain)) ∧
    (∀ t x till a, s.threads.get? t = some x → x.wait = .sleep till a → till ≤ s.time → s.isShadow t = false → s.pairOf t = [t] →
      exec (.sleepEnd t) s = .next ((State.commitAll [a] (s.queuesOf (gangOf t)) [t] s).finishT t) ∧
      (a = .special .zero → State.commitAll [a] (s.queuesOf (gangOf t)) [t] s = s) ∧
      (s.finishT t).threads.get? t = some (x.finish (s.codeBase t) 4))

/-- Launches end: a launch whose gangs and accesses are over leaves its slot with qlt no less than its time; a killed replayable one
is accepted again, at most twice; a bin fires by its timer and at drain; the detector gives DEADLOCK to a thread blocked in a
pop, with the crew, the kind, the queue and the detail in xval (R338, R345, R346, 16 R361, R362, 17 R386). -/
def Obligations.LaunchesEnd : Prop :=
  ∀ s : State,
    (∀ slot l, s.rebaseDue = false → s.launches.get? slot = some l → s.finished slot l = true → l.replaysAgain = false → ∃ u,
      exec (.launchComplete slot) s = .next u ∧ u.launches.get? slot = none ∧ l.ct ≤ (u.queue l.queue).qlt) ∧
    (∀ slot l, s.rebaseDue = false → s.launches.get? slot = some l → s.finished slot l = true → l.status = .killed → l.kernel.replayable = true →
      l.fatal = false → l.replays < 2 → ∃ u m, exec (.launchReplay slot) s = .next u ∧ u.launches.get? slot = some m ∧
        m.status = .ready ∧ m.replays = l.replays + 1 ∧ m.nextIndex = 0 ∧ m.done = [] ∧ m.lid = l.lid) ∧
    (∀ slot node l d, s.launches.get? slot = some l → s.nodeOf slot node = some d → l.status = .ready → d.kernel.nodeTimer ≠ 0 →
      s.unclaimed slot node ≠ 0 → d.since + 1250 * d.kernel.nodeTimer ≤ s.count125 → ∃ u g,
      exec (.binTimer slot node) s = .next u ∧ u.gangs.get? s.nextId = some g ∧ g.node = some node ∧
      g.take = Nat.min (s.unclaimed slot node) d.kernel.nodeCount ∧ g.phase = .listed) ∧
    (∀ slot l n, s.launches.get? slot = some l → l.status = .ready → s.quiet slot = true →
      (∀ m ∈ s.msgs, m.2.e.launch = slot → m.2.e.node = none) →
      (List.range l.nodes.length).filter (fun n => s.unclaimed slot n != 0) = [n] →
      (∀ d, s.nodeOf slot n = some d → s.unclaimed slot n < d.kernel.nodeCount) →
      exec (.binDrain slot) s = .next (s.fireBin slot n (s.unclaimed slot n))) ∧
    (∀ g x t y q, s.gangs.get? g = some x → s.stuckWith g x = [g] → s.stuck g x = true →
      (s.gangThreads g).filter (fun u => match s.threads.get? u with
        | some z => z.live && (s.internalWait u z x).isSome
        | none => false) = [t] →
      s.threads.get? t = some y → y.wait = .pop q →
      exec (.deadlockDetect g) s = .next ((s.withdrawT t).trapT t cDEADLOCK
        (BitVec.ofNat 64 (2 ^ crewOf t * 2 ^ 32 + 3 * 2 ^ 12 + q * 2 ^ 8 + 2)) none))

/-! ## Launch queues (15 R324 to R337) and BAR0 (19 R402, R403) -/

/-- A block in hand whose test has passed performs its action, and the queue moves to the next position; a waiting test is retried,
and goes by TOP (R325 to R329). WRITE, TIMESTAMP, SIGNAL and LAUNCH go by what their accesses answer. -/
def Obligations.CommandBlocksPerform : Prop :=
  ∀ (s : State) (q : Nat) (b : Block), BlockInHand s q b →
    let x := s.queue q
    let goesOn (i : Instr) (u : State) : Prop := exec i s = .next (u.advanceQueue q)
    (b.kind = 2 → goesOn (.waitBlock q) s) ∧
    (b.kind = 4 → goesOn (.branchOn q) s) ∧
    (b.kind = 3 → b.sel = 0 → ∀ t s1 pa gpa old ts s2,
      s.procAt (qDie q) x.aspace (fld b.arg0.toNat 0 57) .atomic = (.ok t, s1) → t.rep = false → t.place = .dev pa gpa →
      ((s1.fillLine (pa / 64)).recallLine (pa / 64)).atomLine pa gpa t.key .w64 (fun old => (old + b.arg1).toNat) .sys 0 .none
        x.qlt = .ok (old, ts, s2) →
      goesOn (.signalAdd q) (s2.setQueue q fun y => { y with qlt := Nat.max y.qlt ts })) ∧
    (b.kind = 3 → b.sel = 1 → goesOn (.signalSetCounter q)
      { s with counters := s.counters.set (fld b.arg0.toNat 0 13) ⟨b.arg1.setWidth 16, false⟩ }.settleParked) ∧
    (b.kind = 5 → goesOn (.skip q) (s.setQueue q fun y => { y with rptr := y.rptr + (b.arg0.setWidth 16).setWidth 32 })) ∧
    (b.kind = 6 → s.earlier q = false → goesOn (.fence q) s) ∧
    (b.kind = 6 → s.earlier q = true → exec (.fence q) s = .next (s.setQueue q fun y => { y with state := 2 })) ∧
    (∀ s1, b.kind = 8 → s.qStore q b.arg0.toNat b.arg1 = (.ok (), s1) → goesOn (.writeBlock q) s1) ∧
    (∀ s1, b.kind = 9 → s.qStore q b.arg0.toNat (BitVec.ofNat 64 s.count125) = (.ok (), s1) → goesOn (.timestamp q) s1) ∧
    (b.link = false → ((s.advanceQueue q).queue q).rptr = x.rptr + 1) ∧
    (b.link = true → ((s.advanceQueue q).queue q).rptr = x.rptr ∧ ((s.advanceQueue q).queue q).chain = some b.next) ∧
    (∀ w : Word, b.holds w = match b.top with
      | 0 => b.tval.ule (w &&& b.tmask)
      | 1 => w &&& b.tmask == b.tval
      | 2 => w &&& b.tmask != b.tval
      | 3 => (w &&& b.tmask).ult b.tval
      | 4 => w &&& b.tmask != 0
      | _ => w &&& b.tmask == 0) ∧
    (∀ s1 w, (s.qWord q b.taddr) = (.ok w, s1) → b.holds w = true → s.testBlock q b =
      (s1.setQueue q fun y => { y with passed := true, state := 1 }, true))

/-- MAP blocks edit the leaves of their range and then drop its translations at every level; MAP+X also drops its code lines, of which a fetch finds
the old or the new contents (05 R127); a LAUNCH
whose record, entry, nodes, plan and arguments are read and pass their checks enters the lowest free slot; a waiting test is
retried (R326 to R328, R331 to R337, 04 R98, 05 R126). -/
def Obligations.MapAndLaunchBlocksPerform : Prop :=
  ∀ (s : State) (q : Nat) (b : Block),
    let x := s.queue q
    let goesOn (i : Instr) (u : State) : Prop := exec i s = .next (u.advanceQueue q)
    let gone (u : State) : State := u.invalidate (u.queue q).aspace b
    (BlockInHand s q b → b.kind = 7 → s.usesRange x.aspace b = false →
      (b.op = 0 → goesOn (.invalidate q) (gone s)) ∧
      (∀ l s1 s2, s.rangeLeaves (qDie q) x.aspace b.arg0.toNat b.pages = (.ok l, s1) →
        (b.op = 1 → (s1.oldLines (s1.rangeLines (qDie q) (s1.queue q).aspace b.arg0.toNat b.pages)).editLeaves q false true l =
            (.ok (), s2) → goesOn (.unmapX q) (gone s2)) ∧
        (b.op = 2 → s1.editLeaves q true false l = (.ok (), s2) →
          goesOn (.mapX q) (gone ((s2.newLines (s2.rangeLines (qDie q) (s2.queue q).aspace b.arg0.toNat b.pages)).execRemap
            (s2.queue q).aspace b))) ∧
        (b.op = 3 → (∀ lp ∈ l, leafX (s1.peekGran (lp / 8) 0).data = false) →
          s1.copyWords q b.tval.toNat b.arg0.toNat (8192 * b.pages) = (.ok (), s2) → goesOn (.writeCode q) (gone s2))) ∧
      (∀ c e, e ∈ ((s.invalidate x.aspace b).core c).tlb → ¬(e.aspace = x.aspace ∧ b.meets e.base (2 ^ e.bits) = true)) ∧
      (s.invalidate x.aspace b).walkCache = []) ∧
    (BlockInHand s q b → b.kind = 1 → ∀ slot n m s1 s2 s3 s4 s5 nodes plan args,
      s.freeSlot = some slot → s.qNat q b.arg0.toNat 16 = (.ok n, s1) →
      let r := LaunchRec.ofNat n
      let k := Kernel.ofNat m
      recReserved n r = false → r.badAddr = false → s1.qNat q r.entryVa 16 = (.ok m, s2) → entryOk s2.stepping m false = true →
      k.span ≤ r.gsets → r.gsets ≠ 0 → r.gangs ≠ 0 → r.stackWords ≠ 0 → r.stackWords ≤ 16384 → r.nodesN ≤ 64 →
      s2.readNodes q r.nodesVa r.nodesN = (.ok nodes, s3) → s3.readPlanTable q r.planVa = (.ok plan, s4) →
      qReads (fun s a => s.qWord q a) r.argVa 16 s4 = (.ok args, s5) →
      goesOn (.launch q) (s5.acceptLaunch q slot b.arg0.toNat b r k nodes plan args) ∧
      (b.arg1.getLsbD 13 = false → ∃ l,
        (s5.acceptLaunch q slot b.arg0.toNat b r k nodes plan args).launches.get? slot = some l ∧ l.status = .ready ∧
        l.lid = s5.accepted % 65536 ∧ l.kernel = k ∧ l.args = args ∧ l.tsL = (s5.queue q).qlt)) ∧
    (BlockInHand s q b → b.kind = 1 → s.freeSlot = none →
      exec (.launch q) s = .next (s.setQueue q fun y => { y with state := 2 })) ∧
    (∀ s1 w, x.block = some b → x.enable = true → x.state = 2 → x.passed = false → s.rebaseDue = false →
      s.qWord q b.taddr = (.ok w, s1) →
      (b.holds w = true →
        exec (.blockTestRetry q) s = .next (s1.setQueue q fun y => { y with passed := true, state := 1 })) ∧
      (b.holds w = false → b.onfail = 0 →
        exec (.blockTestRetry q) s = .next (s1.setQueue q fun y => { y with state := 2, tested := s1.count125 })))

/-- The host's writes: a queue's write pointer; QCFG, whose SIZE and ASPACE are taken only while the queue is idle and disabled;
bits of ERR, INTSTAT and GSTAT written as 1 clear; an address-space entry; an access outside every register is recorded once in
ERR_OFF (15 R324, R331, 19 R402, R403). -/
def Obligations.HostWritesRegisters : Prop :=
  ∀ s : State,
    (∀ q v, q < 64 → s.host.recovery = false → exec (.qwptrWrite q v) s =
      .next ((s.setQueue q fun x => { x with wptr := BitVec.ofNat 32 v }).examine q)) ∧
    (∀ (q : Nat) (v : Word), q < 64 → s.host.recovery = false →
      let x := s.queue q
      (v.getLsbD 0 = true → x.enable = false → x.state = 0 → ∃ u, exec (.qcfgEnable q v) s = .next u ∧
        (u.queue q).enable = true ∧ (u.queue q).prio = fld v.toNat 1 2 ∧ (u.queue q).aspace = fld v.toNat 8 8 ∧
        (u.queue q).size = fld v.toNat 16 5 ∧ (u.queue q).slice = fld v.toNat 24 8 ∧ (u.queue q).dies = fld v.toNat 32 2) ∧
      (v.getLsbD 0 = false → x.enable = true → x.state ≠ 3 → ∃ u, exec (.qcfgDisable q v) s = .next u ∧
        (u.queue q).enable = false ∧ (u.queue q).state = 0 ∧ (u.queue q).block = none ∧ (u.queue q).size = x.size ∧
        (u.queue q).aspace = x.aspace) ∧
      (fld v.toNat 40 8 ≠ 0 → v.getLsbD 0 = x.enable → x.state = 3 → x.err &&& ~~~(BitVec.ofNat 8 (fld v.toNat 40 8)) ≠ 0 →
        ∃ u, exec (.qcfgErrClear q v) s = .next u ∧ (u.queue q).state = 3 ∧
          (u.queue q).err = x.err &&& ~~~(BitVec.ofNat 8 (fld v.toNat 40 8)))) ∧
    (∀ (n : Nat) (v : Word), n < 256 → s.host.recovery = false → ∃ u, exec (.registerWrite (0x2000 + 8 * n) true v) s = .next u ∧
      u.host.aspaces.get? n = some (BitVec.ofNat 64 (fld v.toNat 17 35 * 2 ^ 17 + v.toNat % 2))) ∧
    (∀ off eight v, off < 2 ^ 18 → ∃ u, exec (.registerWrite off eight v) s = .next u ∧
      (off % 4 ≠ 0 → u.host.accessErr = true ∧ u.queues = s.queues ∧ u.porast = s.porast)) ∧
    (∀ v : Word, exec (.intstatClear v) s = .next (if v.toNat < 2 ^ 5 then
        { s with host := { s.host with intstat := s.host.intstat &&& ~~~(v.setWidth 5) } }
      else ({ s with host := { s.host with intstat := s.host.intstat &&& ~~~(v.setWidth 5) } }).noteErr 8 true)) ∧
    (∀ v : Word, v.toNat < 4 → ∃ u, exec (.gstatClear v) s = .next u ∧
      u.host.accessErr = (s.host.accessErr && !v.getLsbD 0) ∧ u.host.rsvdWr = (s.host.rsvdWr && !v.getLsbD 1)) ∧
    (∀ off size, off < 2 ^ 18 → ((size ≠ 4 ∧ size ≠ 8) ∨ off % size ≠ 0 ∨ s.reserved (off / 8 * 8) = none) → ∃ u,
      exec (.bar0UndocumentedAccess ⟨off, size⟩) s = .next u ∧ u.host.accessErr = true ∧
      u.host.errOff = (if s.host.accessErr || s.host.rsvdWr then s.host.errOff else off))

/-! ## Porast, power, peers (17 R379, R390, 18 R399, R400, 19 R404 to R410) -/

/-- Keys and the debugger by the mailbox: a key's two halves load its slot; clearing unloads it; HALT proceeds while a step of it
is left, then saves and answers; RESUME, KILL and BREAK act on the crews they name; a launch without such gangs answers 0x03
(04 R83, 17 R379, 19 R407). -/
def Obligations.MailboxKeysAndDebugger : Prop :=
  ∀ s : State,
    (∀ slot half key, s.commanded 1 → s.cmdByte 8 = slot → s.cmdByte 9 = half → 0 < slot → slot ≤ 127 →
      BitVec.ofNat 256 (leNat ((s.porast.run.drop 16).take 32)) = key →
      let k := s.keys.getD slot .empty
      (half = 0 → ∃ u, exec (.keyLoad slot half key) s = .next u ∧ u.answers s 0 ∧
        u.keys.get? slot = some { k with pend := some key }) ∧
      (∀ lo, half = 1 → k.pend = some lo → ∃ u, exec (.keyLoad slot half key) s = .next u ∧ u.answers s 0 ∧
        u.keys.get? slot = some (k.load lo key) ∧ u.keyLoaded slot = true)) ∧
    (∀ slot, s.commanded 2 → s.cmdByte 8 = slot → 0 < slot → slot ≤ 127 → ∃ u, exec (.keyClear slot) s = .next u ∧
      u.answers s 0 ∧ u.keyLoaded slot = false ∧ ∀ n, n ≠ slot → u.keys.get? n = s.keys.get? n) ∧
    (∀ lid gang crew, s.named lid gang = [] →
      (s.commanded 3 → exec (.halt lid gang crew) s = .next (s.respond 3 [])) ∧
      (s.commanded 4 → exec (.resume lid gang crew) s = .next (s.respond 3 [])) ∧
      (s.commanded 5 → exec (.kill lid gang crew) s = .next (s.respond 3 [])) ∧
      (s.commanded 6 → exec (.breakReq lid gang crew) s = .next (s.respond 3 []))) ∧
    (∀ lid gang crew gk g, s.named lid gang = [(gk, g)] → s.gangs.get? gk = some g →
      (s.commanded 3 → crew = 0xFF → g.phase = .resident → exec (.halt lid gang crew) s = .next (s.stopGang gk .halt)) ∧
      (s.commanded 3 → crew = 0xFF → g.phase = .halted →
        (gang ≠ 0xFFFF_FFFF → exec (.halt lid gang crew) s = .next (s.respond 0 [])) ∧
        (gang = 0xFFFF_FFFF → ∀ slot, s.slotOfLid lid = some slot →
          exec (.halt lid gang crew) s = .next ((s.modL slot fun l => { l with held := true }).respond 0 []))) ∧
      (s.commanded 3 → crew = 0xFF → g.phase = .listed → g.held = false →
        exec (.halt lid gang crew) s = .next ((s.giveUp gk).modG gk fun y => { y with held := true })) ∧
      (s.commanded 4 → crew < 32 → g.phase = .resident → g.held = false → s.namedCrews gk crew = [crew] →
        exec (.resume lid gang crew) s = .next ((s.resumeCrew gk crew g).respond 0 [])) ∧
      (s.commanded 5 → crew < 32 → g.phase = .resident →
        exec (.kill lid gang crew) s =
          .next (((s.namedCrews gk crew).foldl (fun s j => s.killCrew gk j) s).respond 0 [])) ∧
      (s.commanded 5 → crew = 0xFF → exec (.kill lid gang crew) s = .next ((s.killWhole gk).respond 0 [])) ∧
      (s.commanded 6 → s.namedCrews gk crew = [crew] → exec (.breakReq lid gang crew) s =
        .next (((s.liveThreads (ckey gk crew)).foldl (fun s t => s.breakThread g t) s).respond 0 []))) ∧
    (∀ g t c, s.crews.get? (ckOf t) = some c →
      (c.halted = false → g.phase = .resident → s.breakThread g t = s.asyncCause t 1 0x28 1) ∧
      ((c.halted = true ∨ g.phase = .halted ∨ g.phase = .preempted ∨ g.phase = .out) →
        s.breakThread g t = s.arriveSaved g t 1 0x28 1))

/-- Migration: MIGRATE arms the threads of a running gang of a kernel with safe points; when all have stopped the gang halts and
READY is reported; after 10 ms without, they are disarmed and NOT_SAFE is; MIGRATE_IN admits the images into a matching launch,
and turns away another entry (18 R399, R400). -/
def Obligations.Migration : Prop :=
  ∀ (s : State) (lid gang : Nat),
    (∀ gk g r pts v, s.commanded 7 → s.porast.migrating = none → s.named lid gang = (gk, g) :: r →
      (g.phase.canEnd = true → s.safePoints g = (some pts, v) → exec (.migrate lid gang) s = .next
        ((v.onThreads (v.spanThreads gk) fun x => { x with armed := true }).setPorast fun p =>
          { p with migrating := some ⟨gk, v.time + 9400000, pts, false⟩ }).stopArmed) ∧
      (g.phase.canEnd = true → s.safePoints g = (none, v) → exec (.migrate lid gang) s = .next (v.respond 2 [])) ∧
      (g.phase.canEnd = false → exec (.migrate lid gang) s = .next (s.respond 2 []))) ∧
    (∀ m g, s.porast.migrating = some m → s.gangs.get? m.gang = some g → m.halting = false → s.spanMembers g = [m.gang] →
      g.phase = .resident → s.time ≤ m.deadline →
      (∀ t ∈ s.spanThreads m.gang, ∀ x, s.threads.get? t = some x → x.wait = .safePoint) →
      s.stopArmed = (s.stopGang m.gang .halt).setPorast fun p => { p with migrating := some { m with halting := true } }) ∧
    (∀ m g, s.migratingGang lid gang = some (m, g) → s.spanMembers g = [m.gang] → s.gangs.get? m.gang = some g → m.halting = true →
      (g.phase = .stopping .halt → s.stopped m.gang = true →
        exec (.migrateReady lid gang) s = .next (s.finishStop m.gang g .halt)) ∧
      (g.phase = .halted → ∃ u, exec (.migrateReady lid gang) s = .next u ∧ u.answers s 0 ∧ u.porast.migrating = none)) ∧
    (∀ m g, s.porast.migrating = some m → s.gangs.get? m.gang = some g → g.lid = lid → g.index = gang → m.deadline < s.time →
      m.halting = false → ∃ u, exec (.migrateTimeout lid gang) s = .next u ∧ u.answers s 2 ∧ u.porast.migrating = none ∧
        u.threads = (s.onThreads (s.spanThreads m.gang) Thread.disarm).threads) ∧
    (∀ slot l, s.commanded 8 → s.slotOfLid lid = some slot → s.launches.get? slot = some l →
      (∃ u, exec (.migrateIn lid gang false) s = .next u ∧ u.answers s 2 ∧ u.gangs = s.gangs) ∧
      ((l.kernel.step = 0 ∨ l.kernel.step = stepCode s.stepping) →
        let p := s.pick l.record.gsets
        l.sets.contains p.1 = false → ∀ pages core v, p.2.migrateCore slot gang l = some core →
        p.2.ctxPages l (p.2.newGang slot l l.kernel gang none 0) p.1 64 = (.ok pages, v) →
        ∃ u g, exec (.migrateIn lid gang true) s = .next u ∧ u.porast.busy = false ∧ u.porast.resp.head? = some 0 ∧
          u.gangs.get? v.nextId = some g ∧ g.phase = .out ∧ g.index = gang ∧ g.core = core ∧ g.pages = pages))

/-- Porast: sensors, log and attestation answer 0; a firmware piece enters the inactive slot, an activation switches slots, an owner
enrolls by a signed request, the journal is cleared; scruples drain a unit at 256 (a core takes no gangs, a slice keeps no line, a
stack is swept) and halve with the hour; a test returns the unit without scruples or keeps it; power excursions halve the clock;
power-on resets what flash does not keep and makes a device key of its own (17 R390, 19 R407 to R410, 04 R83). -/
def Obligations.PorastAndPower : Prop :=
  ∀ s : State,
    (s.commanded 9 → ∃ u, exec .sensor s = .next u ∧ u.answers s 0) ∧
    (∀ n, s.commanded 10 →
      (∀ e, s.porast.log[n]? = some e → exec (.logRead n) s = .next (s.respond 0 e.bytes)) ∧
      (s.porast.log[n]? = none → exec (.logRead n) s = .next (s.respond 3 []))) ∧
    (∀ nonce page, s.commanded 11 → ∃ u, exec (.attest nonce page) s = .next u ∧ u.answers s 0 ∧
      ∀ v w : State, v.commanded 11 → v.porast.fw = s.porast.fw → v.porast.owners = s.porast.owners → v.stepping = s.stepping →
        exec (.attest nonce page) v = .next w → w.porast.resp = u.porast.resp) ∧
    (∀ p : FwPiece, s.commanded 12 → p.unit < 3 → p.bytes.length ≤ 48 → p.last = false → ∃ u, exec (.fwStage p) s = .next u ∧
      u.answers s 0 ∧ (u.firmware p.unit).activeB = (s.firmware p.unit).activeB ∧
      (u.firmware p.unit).active = (s.firmware p.unit).active ∧ (u.firmware p.unit).idle.verified = false ∧
      ((u.firmware p.unit).idle.image.drop (48 * p.index)).take p.bytes.length = p.bytes) ∧
    (∀ n, s.commanded 13 → n < 3 → (n = 0 ∨ s.launches = []) → (s.firmware n).idle.verified = true → ∃ u,
      exec (.fwActivate n) s = .next u ∧ u.porast.resp.head? = some 0 ∧ (u.firmware n).active = (s.firmware n).idle ∧
      u.host.recovery = false) ∧
    (∀ r : EnrollReq, s.commanded 14 → r.add = true → s.porast.owners.length < 4 → ∃ u, exec (.enroll r) s = .next u ∧
      u.porast.owners = (if Config.sigVerifies s.porast.owners (1 :: leBytes 32 r.key.toNat) r.sig = true then
        s.porast.owners ++ [r.key] else s.porast.owners)) ∧
    (s.commanded 15 → ∃ u, exec .journalClear s = .next u ∧ u.answers s 0 ∧ u.porast.journal = [] ∧ u.host.recovery = false) ∧
    (∀ n, 256 ≤ s.scruples (.core n) → (s.core n).drained = false → ∃ u, exec (.scrupleThreshold (.core n)) s = .next u ∧
      (u.core n).drained = true ∧ (u.core n).drainedAt = s.time ∧ u.host.intstat = s.host.intstat ||| 0x10) ∧
    (s.porast.halvedAt + 3600 * 1250000000 ≤ s.count125 → ∃ u, exec .scrupleHalving s = .next u ∧
      ∀ w, u.scruples w = s.scruples w / 2) ∧
    (∀ n, 256 ≤ s.scruples (.slice n) → s.porast.uncached.contains n = false → ∃ u,
      exec (.scrupleThreshold (.slice n)) s = .next u ∧ u.porast.uncached.contains n = true ∧
      (∀ ln e, u.l2.get? ln = some e → sliceOf ln ≠ n) ∧ u.host.intstat.getLsbD 4 = true) ∧
    (∀ n, 256 ≤ s.scruples (.stack n) → s.porast.swept.contains n = false → ∃ u,
      exec (.scrupleThreshold (.stack n)) s = .next u ∧ u.porast.swept.contains n = true ∧ u.l2 = s.l2 ∧ u.hbm = s.hbm ∧
      u.host.intstat = s.host.intstat ||| 0x10) ∧
    (∀ w, s.outOfService w = true → s.porast.failed.contains w = false → s.porast.uncached.Pairwise (· < ·) →
      s.porast.swept.Pairwise (· < ·) →
      (∃ u, exec (.targetedTestDone w true) s = .next u ∧ u.outOfService w = false ∧ u.scruples w = 0) ∧
      ∃ u, exec (.targetedTestDone w false) s = .next u ∧ u.outOfService w = true ∧ u.porast.failed.contains w = true ∧
        u.scruples w = s.scruples w) ∧
    (s.halfClock = false → ∃ u, exec .powerExcursion s = .next u ∧ u.halfClock = true) ∧
    (s.halfClock = true → exec .powerRecovery s = .next { s with halfClock := false }) ∧
    (∃ u, exec .powerOn s = .next u ∧ u.threads = [] ∧ u.gangs = [] ∧ u.launches = [] ∧ u.hbm = .empty ∧ u.pool = .empty ∧
      u.time = 0 ∧ u.porast.owners = s.porast.owners ∧ u.stepping = s.stepping ∧
      u.keys = [(0, .device (s.porast.boots + 1))] ∧ u.porast.boots = s.porast.boots + 1)

/-- UALink, while the ports are open to peers: the domain assigns the device's ID once; an arriving write to a line that stands in L2
writes its bytes and no other, or none where a partly enabled granule fails its check; an arriving read changes none; an atomic
writes the value that its operation gives of the old one, a reduction the sum, maximum or minimum of each element and the old one, or
nothing where a check fails; what lies outside HBM, and a misaligned atomic, changes nothing. An answer binds its request, and an error
gives every thread that it loads for PROTECTION (05 R116, 02 R46, R48, 19 R404, R405, R410). -/
def Obligations.PeersReachMemory : Prop :=
  ∀ s : State, s.rebaseDue = false →
    (∀ n, s.portsUp = true → s.host.ualValid = false → n < 1024 → ∃ u, exec (.ualIdAssign n) s = .next u ∧ u.host.ualValid = true ∧
      u.host.ualId = n) ∧
    (∀ w : IngressWrite, s.portsUp = true → (∀ b ∈ w.bytes, b.1 < 64) →
      (∃ u, exec (.ualinkIngressWrite w) s = .next u) ∧
      (2 * dieBytes ≤ 64 * w.line → exec (.ualinkIngressWrite w) s = .next s) ∧
      (∀ l, 64 * w.line < 2 * dieBytes → s.l2.get? w.line = some l → l.key = 0 → l.gr.length = 8 → (w.bytes.map (·.1)).Nodup →
        let fits (k : Nat) : Prop :=
          w.whole k = true ∨ (∀ b ∈ w.bytes, b.1 / 8 ≠ k) ∨ (l.gr.getD k ⟨0, 0, true⟩).check (64 * w.line + 8 * k) = none
        ∃ u, exec (.ualinkIngressWrite w) s = .next u ∧
          ((∀ k, k < 8 → fits k) → (∀ b ∈ w.bytes, u.memByte (64 * w.line + b.1) = b.2) ∧
            ∀ a, (∀ b ∈ w.bytes, a ≠ 64 * w.line + b.1) → u.memByte a = s.memByte a) ∧
          ((∃ k, k < 8 ∧ ¬fits k) → ∀ a, u.memByte a = s.memByte a))) ∧
    (∀ ln foreign, s.portsUp = true → (∃ u, exec (.ualinkIngressRead ln foreign) s = .next u) ∧
      ((∃ l, s.l2.get? ln = some l) → ∃ u, exec (.ualinkIngressRead ln foreign) s = .next u ∧ ∀ a, u.memByte a = s.memByte a)) ∧
    (∀ pa w o v c, s.portsUp = true → (∃ u, exec (.ualinkIngressAtomic pa w o v c) s = .next u) ∧
      ((2 * dieBytes ≤ pa ∨ pa % (wbits w / 8) ≠ 0) → exec (.ualinkIngressAtomic pa w o v c) s = .next s) ∧
      (∀ l, pa < 2 * dieBytes → pa % (wbits w / 8) = 0 → s.l2.get? (pa / 64) = some l → l.key = 0 → l.gr.length = 8 →
        (l.gr.getD (pa / 8 % 8) ⟨0, 0, true⟩).check (pa / 8 * 8) = none →
        ∃ u, exec (.ualinkIngressAtomic pa w o v c) s = .next u ∧
          u.numAt pa (wbits w / 8) = atomNew o w (BitVec.ofNat 64 (s.numAt pa (wbits w / 8))) v c % 2 ^ wbits w ∧
          ∀ a, (a < pa ∨ pa + wbits w / 8 ≤ a) → u.memByte a = s.memByte a)) ∧
    (∀ w : IngressReduce, s.portsUp = true → w.elems.length ≤ 16 → w.pa % 4 = 0 → w.pa % 64 + 4 * w.elems.length ≤ 64 → w.amode ≤ 2 →
      (∃ u, exec (.reduceOnArrival w) s = .next u) ∧
      (2 * dieBytes ≤ w.pa → exec (.reduceOnArrival w) s = .next s) ∧
      (∀ l, w.pa < 2 * dieBytes → s.l2.get? (w.pa / 64) = some l → l.key = 0 → l.gr.length = 8 →
        let pass : Prop := w.payloadOk = true ∧ firstBad 0 (coveredGrans l.gr w.pa (4 * w.elems.length)) = none
        ∃ u, exec (.reduceOnArrival w) s = .next u ∧
          (pass → (∀ j e, w.elems[j]? = some e → u.numAt (w.pa + 4 * j) 4 =
              addNew32 (if w.isF32 then .f32 else .s32) w.amode e.toNat (BitVec.ofNat 64 (s.numAt (w.pa + 4 * j) 4)) % 2 ^ 32) ∧
            ∀ a, (a < w.pa ∨ w.pa + 4 * w.elems.length ≤ a) → u.memByte a = s.memByte a) ∧
          (¬pass → ∀ a, u.memByte a = s.memByte a))) ∧
    (∀ m t pa x va size key form slot k toK held rep r, s.peers.get? m = some (.load t pa) → s.threads.get? t = some x →
      s.frameBusy t = false → s.mayBind t x = true → x.accs = Acc.load va (.peer pa) size key form slot k toK held rep :: r →
      let e : State := { s with peers := s.peers.erase m }
      exec (.ualinkResponse m .error) s = .next (takeAll ((e.popAcc t).popJoined t) 0x11 ((e.takers t toK).map fun u => (u, va))) ∧
      (s.host.ualValid = true → ∀ data gr po, exec (.ualinkResponse m (.done data gr po)) s =
        .next (e.bindLoad t va size form slot k toK held (coveredGrans (peerLine pa data gr po) (fld pa 0 41) size)
          (e.boundOf t x (.load va (.peer pa) size key form slot k toK held rep))))) ∧
    (∀ m t pa x va w op sc key slot k o c srcs r, s.peers.get? m = some (.atom t pa) → s.threads.get? t = some x →
      s.frameBusy t = false → x.accs = Acc.atom va (.peer pa) w op sc key slot k o c srcs :: r →
      let e : State := { s with peers := s.peers.erase m }
      exec (.ualinkResponse m .error) s = .next (takeAll (e.popAcc t) 0x11 ((e.pairOf t).map fun u => (u, va))) ∧
      (∀ data gr po v, s.host.ualValid = true →
        firstBad 0 (coveredGrans (peerLine pa data gr po) (fld pa 0 41) (wbits w / 8)) = none →
        State.writeFor [atomResult op w (BitVec.ofNat 64 (leNat ((data.drop (pa % 64)).take (wbits w / 8))))] slot k (e.pairOf t)
          (State.commitAll srcs (e.queuesOf (gangOf t)) (e.pairOf t) (e.popAcc t)) = .ok v →
        exec (.ualinkResponse m (.done data gr po)) s = .next ((e.pairOf t).foldl (fun s u => s.finishT u)
          (v.onThreads (e.pairOf t) fun y => { y with
            lt := e.boundOf t x (.atom va (.peer pa) w op sc key slot k o c srcs) })))) ∧
    (∀ m n e, s.peers.get? m = some (.store n) → s.msgs.get? n = some e →
      (∃ u, exec (.ualinkResponse m .error) s = .next u ∧ u.msgs.get? n = some { e with phase := .refused } ∧
        u.peers.get? m = none) ∧
      ∀ data gr po, s.host.ualValid = true → ∃ u, exec (.ualinkResponse m (.done data gr po)) s = .next u ∧
        u.msgs.get? n = some { e with phase := .performed (s.boundMsg e.e) [] } ∧ u.peers.get? m = none)

/-! ## Protected launches (17 R387 to R389) -/

/-- A pair of a protected launch (R387 to R389). An action that leaves the pair is compared first: where the address, the data, a
selector, or the value for a system register differs, both threads take SHADOW_MISMATCH, with the even thread's VA for an access and
its PC else, and nothing is performed; so where a branch goes two ways, and where the threads of a pair would trap with different
xvals. A load that agrees is issued once, by the even thread, and the odd one completes. An instruction on registers both threads
execute, each on its own. Crew-collective instructions compare the operands of each pair. SHADOW_MISMATCH adds 64 scruples to the core
and contains the launch. -/
def Obligations.ProtectedPairs : Prop :=
  (∀ (d : Dst) (a b : Src) (i : Imm9) (f : FW) (w : Width) (op : AtomOp) (sc : Scope) (q : QReg) (r : SysReg) (s : State) (t : Nat)
    (x y : Thread) (vs ws : List Val), s.pairBundle t x y →
    let loads : List (Instr × Int × LaneStep) :=
      [(.ldN8 d a i, 1, Issues .zx 1 1 d a i), (.ldS8 d a i, 1, Issues .sx 1 1 d a i), (.ldN16 d a i, 2, Issues .zx 2 2 d a i),
        (.ldS16 d a i, 2, Issues .sx 2 2 d a i), (.ldN32 d a i, 4, Issues .zx 4 4 d a i), (.ldS32 d a i, 4, Issues .sx 4 4 d a i),
        (.ldB64 d a i, 8, Issues .zx 8 8 d a i), (.ldB64x2 d a i, 8, Issues .pair 16 8 d a i),
        (.ldB64x4 d a i, 8, Issues .quad 32 8 d a i)]
    (∀ e ∈ loads.map (fun l => (l.1, [a], some (i.toInt * l.2.1), l.2.2)) ++
        ([(.ldIv f d a, [a], some 0, IvIssues f d a),
          (.atom w op sc d a, [a, .oc d.reg] ++ (if op = .cas then [Src.oc (d.reg + 1)] else []), some 0, Atoms w op sc d a),
          (.scopeDrop a, [a], some 0, DropsScope a), (.pf a, [a], some 0, Prefetches a),
          (.qput q a, [a], none, Pushes q a), (.nput a b, [a, b], none, NodePuts a b),
          (.sput r a, [a], none, fun _ _ _ => True)] : List (Instr × List Src × Option Int × LaneStep)),
      (∃ u, e.2.2.2 s t u) → (∃ u, e.2.2.2 s (t + 1) u) → Reads s t e.2.1 x vs → Reads s (t + 1) e.2.1 y ws →
      vs.map (·.data) ≠ ws.map (·.data) →
      exec e.1 s = .next (mismatched s t (match e.2.2.1 with | some k => dataAt vs 0 + BitVec.ofInt 64 k | none => x.pc))) ∧
    (∀ l ∈ loads, ∀ u z us, (∀ k, a ≠ .special (.pop k)) → l.2.2 s t u → (∃ v, l.2.2 s (t + 1) v) → Reads s t [a] x vs →
      Reads s (t + 1) [a] y ws → vs.map (·.data) = ws.map (·.data) → Reads u (t + 1) [a] z us →
      exec l.1 s = .next ((u.commit (t + 1) [a] us).modT (t + 1) fun z => seq u (t + 1) z))) ∧
  (∀ (d : Reg) (a : Src) (i : Imm9) (s : State) (t : Nat) (x y : Thread) (vs ws : List Val), s.pairBundle t x y →
    let stores : List (Instr × Nat × Int × LaneStep) :=
      [(.stB8 d a i, 1, 1, Coalesces 1 1 1 d a i), (.stB16 d a i, 1, 2, Coalesces 2 2 1 d a i),
        (.stB32 d a i, 1, 4, Coalesces 4 4 1 d a i), (.stB64 d a i, 1, 8, Coalesces 8 8 1 d a i),
        (.stB64x2 d a i, 2, 8, Coalesces 16 8 2 d a i), (.stB64x4 d a i, 4, 8, Coalesces 32 8 4 d a i)]
    ∀ e ∈ stores, (∃ u, e.2.2.2 s t u) → (∃ u, e.2.2.2 s (t + 1) u) →
      let srcs := a :: (List.range e.2.1).map fun j => Src.oc (d + Fin.ofNat 64 j)
      Reads s t srcs x vs → Reads s (t + 1) srcs y ws → vs.map (·.data) ≠ ws.map (·.data) →
      let v := mismatched s t (dataAt vs 0 + BitVec.ofInt 64 (i.toInt * e.2.2.1))
      exec e.1 s = .next (v.sendFull (v.whereCrew s.curCrew).1 (v.whereCrew s.curCrew).2)) ∧
  (∀ (w : Width) (g : Sgn) (d : Dst) (a b : Src) (s s1 s2 u : State) (t : Nat) (x y : Thread), s.pairBundle t x y →
    (∀ q, Src.special (.pop q) ∉ [a, b]) →
    ∀ e ∈ ([(.add w d a b, both w (· + ·) (· + ·)), (.sub w d a b, both w (· - ·) (· - ·)), (.mul w d a b, both w (· * ·) (· * ·)),
        (.and w d a b, both w (· &&& ·) (· &&& ·)), (.or w d a b, both w (· ||| ·) (· ||| ·)),
        (.xor w d a b, both w (· ^^^ ·) (· ^^^ ·)), (.min g d a b, fun a b => if leq g a b then a else b),
        (.shl w d a b, fun a b => shiftLeft w a (count w b))] : List (Instr × (Word → Word → Word))),
      let W : LaneStep := Writes d [a, b] fun _ _ _ vs => (pt (e.2 (dataAt vs 0) (dataAt vs 1)), 0)
      W s t s1 → W s (t + 1) u → W s1 (t + 1) s2 → exec e.1 s = .next s2) ∧
  (∀ (a : Src) (o : Off19) (se : Sense) (p : PReg) (s : State) (t : Nat) (x y : Thread), s.pairBundle t x y →
    (∀ vs ws, Reads s t [a] x vs → Reads s (t + 1) [a] y ws →
      exec (.trap a) s = .next (if dataAt vs 0 = dataAt ws 0 then takeAll s 0x29 [(t, dataAt vs 0), (t + 1, dataAt ws 0)]
        else mismatched s t x.pc)) ∧
    (senseHit se (x.pred p) ≠ senseHit se (y.pred p) → exec (.bra o se p) s = .next (mismatched s t x.pc))) ∧
  (∀ (k : KReg) (a : Src) (s : State) (t : Nat) (x y : Thread) (vs ws : List Val), s.isProtected → s.crewDue s.curCrew = true →
    s.liveThreads s.curCrew = [t, t + 1] → t % 2 = 0 → Reads s t [a] x vs → Reads s (t + 1) [a] y ws →
    dataAt vs 0 ≠ dataAt ws 0 →
    exec (.movk k a) s = .next (mismatched s t x.pc) ∧ exec (.ldk k a) s = .next (mismatched s t (dataAt vs 0))) ∧
  (∀ (s : State) (t : Nat) (x : Thread) (g : Gang) (v : Word), s.threads.get? t = some x → s.gangs.get? (gangOf t) = some g →
    s.trapT t 0x30 v none = ((s.recordTrap g t v 0x30).addScruples (.core g.core) 64).contain g.slot 0x30 g.detail false)

/-! ## Frames, encodings, steps, invariants -/

/-- What a register instruction leaves unchanged (03 R57, 09 R211, R215, 17 R372): for every instruction that does what `Writes` says
for d (those of the statements above), with K set or the destination resident and no queue popped: nothing but its threads changes,
no thread outside its bundle; in a thread only the PC and what completion moves, the latches, sticky flags, lt, and of the
registers the destination and the caches of the sources it names. No byte of memory and no special register changes. -/
def Obligations.RegisterInstructionsChangeOnlyTheirDestination : Prop :=
  ∀ (i : Instr) (d : Dst) (srcs : List Src) (f : State → Nat → Thread → List Val → Val × Byte),
    PerLane i (Writes d srcs f) → (∀ q, Src.special (.pop q) ∉ srcs) →
    ∀ s s' : State, s.unprotected → Chain (Writes d srcs f) s.bundleThreads s s' →
    (d.k = true ∨ ∀ t ∈ s.bundleThreads, ∀ x, s.threads.get? t = some x → s.resident t x (x.wb + d.reg.val) = true) →
    exec i s = .next s' ∧
    s' = { s with threads := s'.threads } ∧
    (∀ u, u ∉ s.bundleThreads → s'.threads.get? u = s.threads.get? u) ∧
    (∀ a, s'.memByte a = s.memByte a) ∧
    ∀ t ∈ s.bundleThreads, ∀ x, s.threads.get? t = some x → ∃ y, s'.threads.get? t = some y ∧
      y = { x with
        pc := y.pc, loops := y.loops, wait := y.wait, due := y.due, pend := y.pend, l0 := y.l0, l0bad := y.l0bad
        l1 := x.l0, l1bad := x.l0bad, tstat := y.tstat, lt := y.lt, deadReads := y.deadReads
        oc := y.oc, uses := y.uses, perches := y.perches, hist := y.hist, dead := y.dead } ∧
      (∀ n : Fin 3, y.loops[n].start = x.loops[n].start ∧ y.loops[n].len = x.loops[n].len) ∧
      ∀ j, j ≠ x.wb + d.reg.val →
        (∀ r, (Src.oc r ∈ srcs ∨ Src.last r ∈ srcs ∨ Src.direct r ∈ srcs) → j ≠ x.wb + r.val) →
        y.oc.get? j = x.oc.get? j ∧ y.perches.get? j = x.perches.get? j ∧ y.hist.get? j = x.hist.get? j ∧
        (j ∈ y.dead ↔ j ∈ x.dead)

/-- A written register reads back with its kind bit; a slot that is spilled to the backing stack changes, of memory, only its own
granule, which then holds the value, and its kind word's, and of the threads only what the slot is known to have held, where their
lines stand in L2 (03 R57, 09 R204, R209, R211, R213). -/
def Obligations.WrittenRegistersReadBack : Prop :=
  (∀ (s s' : State) (t r : Nat) (k : Bool) (v : Val) (x : Thread), s.threads.get? t = some x → x.dead.Pairwise (· < ·) →
    s.writeRegs t r k [v] = .ok s' → (k = true ∨ s.resident t x (x.wb + r) = true) →
    ∃ y, s'.threads.get? t = some y ∧ y.wb = x.wb ∧ s'.slotVal t y (x.wb + r) = .ok v) ∧
  (∀ (s s' : State) (t i : Nat) (p q : FramePlace) (v : Val) (bad : Bool) (w : Word) (l m : L2Line),
    (∀ k ∈ [AccKind.load, .store], s.framePa t (s.slotVa t i) k = .ok p ∧ s.framePa t (s.kindVa t i) k = .ok q) →
    p.other = none → q.other = none → s.l2.get? (p.pa / 64) = some l → s.l2.get? (q.pa / 64) = some m →
    l.key = 0 → l.gr.length = 8 → m.key = 0 → m.gr.length = 8 →
    (s.pokeFrame p v.data bad).peekWord q.pa q.gpa 0 = .ok w → s.spillSlot t i v bad = .ok s' →
    s'.crews = s.crews ∧ s'.gangs = s.gangs ∧ (∀ u, u ≠ t → s'.threads.get? u = s.threads.get? u) ∧
    (∀ x, s.threads.get? t = some x → ∃ y, s'.threads.get? t = some y ∧ y = { x with hist := y.hist } ∧
      ∀ j, j ≠ i → y.hist.get? j = x.hist.get? j) ∧
    (∀ a, a / 8 ≠ p.pa / 8 → a / 8 ≠ q.pa / 8 → s'.memByte a = s.memByte a) ∧
    (bad = false → p.pa / 8 ≠ q.pa / 8 → s'.peekWord p.pa p.gpa 0 = .ok v.data) ∧
    (p.pa / 8 ≠ q.pa / 8 → ∃ n, s'.peekWord q.pa q.gpa 0 = .ok n ∧ n.getLsbD (i % 64) = v.kind))

/-- A few words laid out by 03 R53 decode to the instructions that they stand for. -/
def Obligations.WordsDecodeAsTheEncodingSays : Prop :=
  decodeTableWord 32 0x000144A9 = some (.ldN32 ⟨4, true⟩ (.oc 2) 0) ∧
  decodeTableWord 32 0xFFFF41E1 = some (.bra (BitVec.ofInt 19 (-6)) .t 1) ∧
  decodeTableWord 32 0x8201484D = some (.fdiv .f64 ⟨8, true⟩ (.oc 2) (.oc 4)) ∧
  decodeTableWord 32 0x380542C1 = some (.cpIn 7 2 4 5) ∧
  decodeTableWord 32 0xA201CC1B = some (.addmin .s ⟨12, true⟩ (.oc 3) (.last 4)) ∧
  decodeTableWord 32 0x28714479 = some (.cmov ⟨4, true⟩ (.special .zero) 2 .u)

/-- Decoding takes back encoding, for every well-formed instruction with an encoding and every operand (03 R52 to R68). -/
def Obligations.DecodingTakesBackEncoding : Prop :=
  ∀ (i : Instr) (n w : Nat), wellFormed i = true → encode i = some (n, w) → w < 2 ^ n ∧ decodeTableWord n w = some i

/-- Encoding takes back decoding: a 32-bit or 16-bit word that decodes to an instruction is the one word of it, and the instruction
is well formed; a step without an encoding is decoded from no word (03 R53, R60, R63). -/
def Obligations.EveryInstructionHasOneWord : Prop :=
  (∀ (w : Nat) (i : Instr), w < 2 ^ 32 → instrLen (w % 2 ^ 16) = 4 → decode32 .b1 w = .ok i →
    encode i = some (32, w) ∧ wellFormed i = true) ∧
  (∀ (h : Nat) (i : Instr), h < 2 ^ 16 → instrLen h = 2 → decode16 h = .ok i → encode i = some (16, h) ∧ wellFormed i = true)

/-- Where an issue slot's turn comes, no due bundle can be performed, and the halfwords at the chosen bundle's PC decode to an
instruction, a step is that instruction's meaning for the bundle, after the ageing counts, followed by what settles and one core cycle
(14 R305, R306, R313, 15 R344, 03 R52). The choice is among the threads that are ready: those that stall at their instruction for an
operand, a port or a tile keep that stall first (R305; log entry 89), and one that does not stall is as it was. A bundle that a test
has found due is performed before (14 R311). -/
def Obligations.AStepRunsTheDecodedInstruction : Prop :=
  ∀ (s : State) (core q : Nat) (r : List Turn), s.turns = .slot core q :: r →
    let s0 := { s with turns := r }
    let performs (i : Instr) (c : State) : Prop := step s = after s0 (exec i c)
    s0.rebaseDue = false →
    (∀ ck g x h, s0.runDue (s0.dueBundles core q) = none →
      let v := tried s0 (s0.slotThreads core q)
      v.chooseCrew core q = some ck →
      let b := v.bundle (v.ready ck)
      let s1 := (v.passCrews core q ck).ageThreads (v.ready ck) b
      s1.gangs.get? (ck / 32) = some g → s1.threads.get? (b.headD 0) = some x → CodeHalf s1 g x.pc.toNat h →
      let cur (len : Nat) (w : Nat) : State := { s1 with cur := ⟨ck / 32, ck % 32, b.map laneOf, x.pc, len, BitVec.ofNat 64 w⟩ }
      (∀ i, instrLen h = 2 → decode16 h = .ok i → performs i (cur 2 h)) ∧
      (∀ i k, instrLen h = 4 → CodeHalf s1 g (x.pc.toNat + 2) k → decode32 s1.stepping (h + 2 ^ 16 * k) = .ok i →
        performs i (cur 4 (h + 2 ^ 16 * k)))) ∧
    (∀ (u : State) (t : Nat), (u.isReady t = false → u.tryThread t = (u, false)) ∧
      ∀ i u1 u2, u.isReady t = true → u.fetchBundle (ckOf t) (u.pairOf (u.lead t)) = .run i u1 → exec i u1 = .next u2 →
        u.tryThread t = if u2.stalled (u.pairOf (u.lead t)) = [] then (u, false) else (u2, true)) ∧
    (∀ ck ts rest i s1 s2, s0.dueBundles core q = (ck, ts) :: rest → s0.fetchBundle ck ts = .run i s1 → exec i s1 = .next s2 →
      State.moved s0 s2 ck ts = true → step s = after s0 (.next s2)) ∧
    (∀ u, after s0 (.next u) = .next ((State.settle s0 u).tick 1) ∧ ((u.tick 1).time = u.time + 1))

/-- What power-on leaves, as the spec gives it (00 R6, 02 R44, 04 R83, R86, 05 R104, 06 R138, 15 R324, 19 R403, R407): time 0, memory
zero with the grains of zero and without poison, the device key in slot 0 and no other, no access under way, every acre in the
loan, queues disabled with DIES 3 and SLICE 8, no error recorded; and the memory is in its canonical form. -/
def Obligations.PowerOnLeavesTheSpecifiedState : Prop :=
  let s := State.reset
  s.time = 0 ∧ (∀ a, s.memByte a = 0) ∧ (∀ n, s.hbm.gran n = Gran.mk' 0 (8 * n)) ∧ s.keyLoaded 0 = true ∧
  (∀ k, k ≠ 0 → s.keyLoaded k = false) ∧ s.l2 = [] ∧ s.mts = [] ∧ s.threads = [] ∧ s.launches = [] ∧
  (∀ c, (s.core c).loan = 768) ∧ (∀ q, (s.queue q).enable = false ∧ (s.queue q).dies = 3 ∧ (s.queue q).slice = 8) ∧
  s.host.ualValid = false ∧ s.host.accessErr = false ∧ s.host.rsvdWr = false ∧ s.chainHalf = false ∧ s.porast.busy = false ∧
  Memory.wf s = true

/-- Every step keeps HBM and the pool in their canonical form. -/
def Obligations.EveryStepKeepsMemoryCanonical : Prop :=
  ∀ s s' : State, Memory.wf s = true → step s = .next s' → Memory.wf s' = true
end

