-- ==== Sys2Proof/Laws/Lane.lean ====
section
/-! SUPPORT. What a bundle of an unprotected launch does, from what each of its threads does: one lemma per shape of
instruction (registers, control state, traps). -/

namespace Sys2Proof.Laws

open Sys2Proof.Machine Sys2Proof.Claim

/-- Threads that act one after another, as the fold that a bundle is: none of them stops. -/
theorem foldl_pair_of_chain {R : LaneStep} {f : State → Nat → State × List (Nat × Stop)}
    (h : ∀ s t s1, R s t s1 → f s t = (s1, [])) : ∀ (ts : List Nat) (s s' : State), Chain R ts s s' →
    ts.foldl (fun (r : State × List (Nat × Stop)) t => ((f r.1 t).1, r.2 ++ (f r.1 t).2)) (s, []) = (s', []) := by
  intro ts
  induction ts with
  | nil => intro s s' hc; exact congrArg (·, []) (Eq.symm hc)
  | cons t r ih =>
    rintro s s' ⟨s1, h1, h2⟩
    rw [List.foldl_cons, h s t s1 h1]
    exact ih s1 s' h2

/-- No stop changes nothing. -/
theorem stopAll_nil (s : State) : s.stopAll [] = s := rfl

/-- An instruction performed per thread does for an unprotected bundle what its threads do one after another. -/
theorem perLane_of_chain {R : LaneStep} {i : LaneInstr} (h : ∀ s t s1, R s t s1 → s.runLane i.op t = (s1, []))
    {s s' : State} (hu : s.unprotected) (hc : Chain R s.bundleThreads s s') : perLane i s = .next s' := by
  obtain ⟨-, g, hg, hp⟩ := hu
  have hf := foldl_pair_of_chain h _ _ _ hc
  simp only [State.bundleThreads] at hf
  simp [perLane, hg, State.runLanes, hp, hf, stopAll_nil]

/-- An operation that completes, or stops for something else than an absent line, is tried as it stands. -/
theorem tryLane_ok {op : LaneOp} {s s1 : State} {t : Nat} (ho : op s t = .ok s1) : s.tryLane op t = (s, .ok s1) := by
  simp [State.tryLane, lineFuel, State.withLines, ho]

theorem tryLane_trap {op : LaneOp} {s : State} {t : Nat} {c : Byte} {v : Word} {pa : Option Nat}
    (ho : op s t = .error (.trap c v pa)) : s.tryLane op t = (s, .error (.trap c v pa)) := by
  simp [State.tryLane, lineFuel, State.withLines, ho]

/-- A live thread runs the operation; a cause is left for the end of the bundle. -/
theorem runLane_ok {op : LaneOp} {s s1 : State} {t : Nat} {x : Thread} (hx : s.threads.get? t = some x)
    (hl : x.live = true) (ho : op s t = .ok s1) : s.runLane op t = (s1, []) := by
  simp [State.runLane, hx, hl, tryLane_ok ho]

theorem runLane_trap {op : LaneOp} {s : State} {t : Nat} {x : Thread} {c : Byte} {v : Word} {pa : Option Nat}
    (hx : s.threads.get? t = some x) (hl : x.live = true) (ho : op s t = .error (.trap c v pa)) :
    s.runLane op t = (s, [(t, .trap c v pa)]) := by
  simp [State.runLane, hx, hl, tryLane_trap ho, Stop.isTrap]

/-- A register operation whose computation agrees with what the claim says of it. -/
theorem regOp_writes {srcs : State → Nat → List Src} {f : State → Nat → Thread → List Val → Except (Byte × Word) Eff}
    {r : Nat} {k : Bool} {c : State → Nat → Thread → List Val → Option (List Val × (Thread → Thread))}
    (hf : ∀ s t x vs e, s.readAll t (srcs s t) = .ok vs → s.threads.get? t = some x → c s t x vs = some e →
      ∃ q, f s t x vs = .ok q ∧ q.reg = r ∧ q.k = k ∧ q.regs = e.1 ∧ ∀ y, q.upd y = e.2 y) :
    ∀ s t s1, WritesMany r k srcs c s t s1 → s.runLane (regInstr srcs f).op t = (s1, []) := by
  rintro s t s1 ⟨x, vs, e, s2, ⟨hx, hl, hr⟩, hc, hw, rfl⟩
  obtain ⟨q, hq, rfl, rfl, hv, hu⟩ := hf s t x vs e hr hx hc
  apply runLane_ok hx hl
  simp only [regInstr, regOp, hx, hr, hq, hv, hw, hu]

/-- A register instruction that writes one result, latches it and raises flags, whatever computes them. -/
theorem regInstr_writes {d : Dst} {srcs : List Src} {f : State → Nat → Thread → List Val → Val × Byte}
    {h : State → Nat → Thread → List Val → Except (Byte × Word) Eff}
    (hf : ∀ s t x vs, h s t x vs = .ok (result d (f s t x vs).1 (f s t x vs).2)) :
    ∀ s t s1, Writes d srcs f s t s1 → s.runLane (regInstr (fun _ _ => srcs) h).op t = (s1, []) :=
  regOp_writes fun s t x vs e _ _ he => by
    obtain rfl := Option.some.inj he
    exact ⟨_, hf s t x vs, rfl, rfl, rfl, fun _ => rfl⟩

end Sys2Proof.Laws
end

