-- ==== Sys2Proof/Laws/Tab.lean ====
section
/-! SUPPORT. Reads of tables and of sorted lists of cells after writes; a write keeps the canonical order of cells. -/

namespace Sys2Proof.Machine

/-! ## Tables -/

@[simp] theorem Tab.get?_nil (i : Nat) : Tab.get? ([] : Tab α) i = none := rfl
theorem Tab.get?_cons (k : Nat) (v : α) (r : Tab α) (i : Nat) :
    Tab.get? ((k, v) :: r) i = if k = i then some v else Tab.get? r i := rfl

@[simp] theorem Tab.get?_set_self (t : Tab α) (i : Nat) (v : α) : (t.set i v).get? i = some v := by
  induction t with
  | nil => simp [Tab.set, Tab.get?]
  | cons e r ih =>
    simp only [Tab.set]
    split
    · simp [Tab.get?]
    · split
      · simp [Tab.get?]
      · rename_i h; simp [Tab.get?, Ne.symm h, ih]

theorem Tab.get?_set_ne (t : Tab α) {i j : Nat} (v : α) (h : j ≠ i) : (t.set i v).get? j = t.get? j := by
  induction t with
  | nil => simp [Tab.set, Tab.get?, h.symm]
  | cons e r ih =>
    simp only [Tab.set]
    split
    · simp [Tab.get?, h.symm]
    · split
      · rename_i h2; subst h2; simp [Tab.get?, h.symm]
      · simp [Tab.get?, ih]

@[simp] theorem Tab.get?_erase_self (t : Tab α) (i : Nat) : (t.erase i).get? i = none := by
  induction t with
  | nil => rfl
  | cons e r ih =>
    simp only [Tab.erase]
    split
    · exact ih
    · rename_i h; simp [Tab.get?, h, ih]

theorem Tab.get?_erase_ne (t : Tab α) {i j : Nat} (h : j ≠ i) : (t.erase i).get? j = t.get? j := by
  induction t with
  | nil => rfl
  | cons e r ih =>
    simp only [Tab.erase]
    split
    · rename_i h2; simp [Tab.get?, h2, h.symm, ih]
    · simp [Tab.get?, ih]

@[simp] theorem Tab.get?_modify_self (t : Tab α) (i : Nat) (f : α → α) :
    (t.modify i f).get? i = (t.get? i).map f := by
  unfold Tab.modify; split <;> rename_i h <;> simp [h]

theorem Tab.get?_modify_ne (t : Tab α) {i j : Nat} (f : α → α) (h : j ≠ i) :
    (t.modify i f).get? j = t.get? j := by
  unfold Tab.modify; split <;> simp [Tab.get?_set_ne, h]

theorem Tab.get?_mapVals (t : Tab α) (f : Nat → α → β) (i : Nat) :
    (t.mapVals f).get? i = (t.get? i).map (f i) := by
  induction t with
  | nil => rfl
  | cons e r ih =>
    unfold Tab.mapVals at ih ⊢
    simp only [List.map_cons, Tab.get?]
    split
    · rename_i h; subst h; rfl
    · exact ih

@[simp] theorem Tab.getD_set_self (t : Tab α) (i : Nat) (v d : α) : (t.set i v).getD i d = v := by simp [Tab.getD]
theorem Tab.getD_set_ne (t : Tab α) {i j : Nat} (v d : α) (h : j ≠ i) : (t.set i v).getD j d = t.getD j d := by
  simp [Tab.getD, Tab.get?_set_ne, h]

/-! ## Cells -/

theorem cellGet_cellSet_self (l : List Host.Cell) (d : Byte) (a : Nat) (v : Byte)
    (h : l.Pairwise (fun x y => x.1 < y.1)) : cellGet (cellSet l d a v) d a = v := by
  induction l with
  | nil => simp only [cellSet]; split <;> simp_all [cellGet]
  | cons e r ih =>
    obtain ⟨k, w⟩ := e
    have hr := ih (List.pairwise_cons.1 h).2
    have later : ∀ r' : List Host.Cell, (∀ y ∈ r', a < y.1) → cellGet r' d a = d := by
      intro r' hr'
      induction r' with
      | nil => rfl
      | cons y q iq =>
        have := hr' y (by simp)
        simp only [cellGet]
        rw [if_neg (by omega)]
        exact iq fun z hz => hr' z (by simp [hz])
    have hk := (List.pairwise_cons.1 h).1
    simp only [cellSet]
    split
    · rename_i hak
      split
      · rename_i hv; subst hv
        apply later; intro y hy
        rcases List.mem_cons.1 hy with rfl | hy
        · exact hak
        · exact Nat.lt_trans hak (hk y hy)
      · simp [cellGet]
    · split
      · rename_i hak; subst hak
        split
        · rename_i hv; subst hv; exact later r hk
        · simp [cellGet]
      · rename_i hne; simp [cellGet, Ne.symm hne, hr]

theorem cellGet_cellSet_ne (l : List Host.Cell) (d : Byte) {a b : Nat} (v : Byte) (h : b ≠ a) :
    cellGet (cellSet l d a v) d b = cellGet l d b := by
  induction l with
  | nil => simp only [cellSet]; split <;> simp_all [cellGet, h.symm]
  | cons e r ih =>
    obtain ⟨k, w⟩ := e
    simp only [cellSet]
    split
    · split <;> simp [cellGet, h.symm]
    · split
      · rename_i hak; subst hak
        split <;> simp [cellGet, h.symm]
      · simp [cellGet, ih]

end Sys2Proof.Machine
end

