-- ==== Sys2Proof/Laws/Memory.lean ====
section
/-! SUPPORT. Every operation on a store keeps its canonical form; reads after writes; the memory after reset is canonical. -/

namespace Sys2Proof.Machine

/-! ## Rising lists -/

theorem rising_iff (l : List Host.Cell) : rising l = true ↔ l.Pairwise (fun x y => x.1 < y.1) := by
  induction l with
  | nil => simp [rising]
  | cons a r ih =>
    cases r with
    | nil => simp [rising]
    | cons b q =>
      simp only [rising, Bool.and_eq_true, decide_eq_true_eq, ih]
      constructor
      · rintro ⟨h, hp⟩
        refine List.pairwise_cons.2 ⟨?_, hp⟩
        intro c hc
        rcases List.mem_cons.1 hc with rfl | hc
        · exact h
        · exact Nat.lt_trans h ((List.pairwise_cons.1 hp).1 c hc)
      · intro hp
        exact ⟨(List.pairwise_cons.1 hp).1 b (by simp), (List.pairwise_cons.1 hp).2⟩

theorem risingNat_iff (l : List Nat) : risingNat l = true ↔ l.Pairwise (· < ·) := by
  induction l with
  | nil => simp [risingNat]
  | cons a r ih =>
    cases r with
    | nil => simp [risingNat]
    | cons b q =>
      simp only [risingNat, Bool.and_eq_true, decide_eq_true_eq, ih]
      constructor
      · rintro ⟨h, hp⟩
        refine List.pairwise_cons.2 ⟨?_, hp⟩
        intro c hc
        rcases List.mem_cons.1 hc with rfl | hc
        · exact h
        · exact Nat.lt_trans h ((List.pairwise_cons.1 hp).1 c hc)
      · intro hp
        exact ⟨(List.pairwise_cons.1 hp).1 b (by simp), (List.pairwise_cons.1 hp).2⟩

theorem mem_cellSet {l : List Host.Cell} {d : Byte} {a : Nat} {v : Byte} {c : Host.Cell} (h : c ∈ cellSet l d a v) :
    c ∈ l ∨ (c = (a, v) ∧ v ≠ d) := by
  induction l with
  | nil => simp only [cellSet] at h; split at h <;> simp_all
  | cons e r ih =>
    obtain ⟨k, w⟩ := e
    simp only [cellSet] at h
    split at h
    · split at h
      · exact .inl h
      · rcases List.mem_cons.1 h with rfl | h
        · exact .inr ⟨rfl, by assumption⟩
        · exact .inl h
    · split at h
      · split at h
        · exact .inl (by simp [h])
        · rcases List.mem_cons.1 h with rfl | h
          · exact .inr ⟨rfl, by assumption⟩
          · exact .inl (by simp [h])
      · rcases List.mem_cons.1 h with rfl | h
        · exact .inl (by simp)
        · rcases ih h with h | h
          · exact .inl (by simp [h])
          · exact .inr h

theorem cellSet_pairwise {l : List Host.Cell} (d : Byte) (a : Nat) (v : Byte) (h : l.Pairwise fun x y => x.1 < y.1) :
    (cellSet l d a v).Pairwise fun x y => x.1 < y.1 := by
  induction l with
  | nil => simp only [cellSet]; split <;> simp
  | cons e r ih =>
    obtain ⟨k, w⟩ := e
    have hk := (List.pairwise_cons.1 h).1
    have hr := (List.pairwise_cons.1 h).2
    simp only [cellSet]
    split
    · rename_i hak
      split
      · exact h
      · refine List.pairwise_cons.2 ⟨?_, h⟩
        intro c hc
        rcases List.mem_cons.1 hc with rfl | hc
        · exact hak
        · exact Nat.lt_trans hak (hk c hc)
    · split
      · rename_i hak; subst hak
        split
        · exact hr
        · exact List.pairwise_cons.2 ⟨hk, hr⟩
      · rename_i h1 h2
        refine List.pairwise_cons.2 ⟨?_, ih hr⟩
        intro c hc
        rcases mem_cellSet hc with hc | ⟨rfl, -⟩
        · exact hk c hc
        · show k < a
          omega

theorem mem_markSet {l : List Nat} {a : Nat} {b : Bool} {c : Nat} (h : c ∈ markSet l a b) : c ∈ l ∨ c = a := by
  induction l with
  | nil => simp only [markSet] at h; split at h <;> simp_all
  | cons k r ih =>
    simp only [markSet] at h
    split at h
    · split at h
      · rcases List.mem_cons.1 h with rfl | h
        · exact .inr rfl
        · exact .inl h
      · exact .inl h
    · split at h
      · split at h <;> simp_all
      · rcases List.mem_cons.1 h with rfl | h
        · exact .inl (by simp)
        · rcases ih h with h | h
          · exact .inl (by simp [h])
          · exact .inr h

theorem markSet_pairwise {l : List Nat} (a : Nat) (b : Bool) (h : l.Pairwise (· < ·)) : (markSet l a b).Pairwise (· < ·) := by
  induction l with
  | nil => simp only [markSet]; split <;> simp
  | cons k r ih =>
    have hk := (List.pairwise_cons.1 h).1
    have hr := (List.pairwise_cons.1 h).2
    simp only [markSet]
    split
    · rename_i hak
      split
      · refine List.pairwise_cons.2 ⟨?_, h⟩
        intro c hc
        rcases List.mem_cons.1 hc with rfl | hc
        · exact hak
        · exact Nat.lt_trans hak (hk c hc)
      · exact h
    · split
      · split
        · exact h
        · exact hr
      · rename_i h1 h2
        refine List.pairwise_cons.2 ⟨?_, ih hr⟩
        intro c hc
        rcases mem_markSet hc with hc | rfl
        · exact hk c hc
        · omega

/-! ## Stores keep their canonical form -/

/-- The canonical form, as propositions. -/
theorem Store.wf_iff (m : Store) : m.wf = true ↔
    m.bytes.Pairwise (fun x y => x.1 < y.1) ∧ (∀ c ∈ m.bytes, c.2 ≠ 0) ∧
    m.grains.Pairwise (fun x y => x.1 < y.1) ∧ (∀ c ∈ m.grains, c.2 ≠ grainOf 0 (8 * c.1)) ∧ m.poison.Pairwise (· < ·) := by
  simp only [Store.wf, Bool.and_eq_true, rising_iff, risingNat_iff, List.all_eq_true, bne_iff_ne, ne_eq, and_assoc]

theorem Store.empty_wf : Store.empty.wf = true := by decide

theorem Store.setByte_wf {m : Store} (a : Nat) (b : Byte) (h : m.wf = true) : (m.setByte a b).wf = true := by
  rw [Store.wf_iff] at h ⊢
  refine ⟨cellSet_pairwise _ _ _ h.1, ?_, h.2.2⟩
  intro c hc
  rcases mem_cellSet hc with hc | ⟨rfl, hv⟩
  · exact h.2.1 c hc
  · exact hv

theorem Store.setBytes_wf {m : Store} (a : Nat) (l : List Byte) (h : m.wf = true) : (m.setBytes a l).wf = true := by
  induction l generalizing m a with
  | nil => exact h
  | cons b r ih => exact ih _ (Store.setByte_wf _ _ h)

@[simp] theorem Store.setBytes_grains (m : Store) (a : Nat) (l : List Byte) : (m.setBytes a l).grains = m.grains := by
  induction l generalizing m a with
  | nil => rfl
  | cons b r ih => exact ih _ _

@[simp] theorem Store.setBytes_poison (m : Store) (a : Nat) (l : List Byte) : (m.setBytes a l).poison = m.poison := by
  induction l generalizing m a with
  | nil => rfl
  | cons b r ih => exact ih _ _

theorem Store.setGran_wf {m : Store} (n : Nat) (g : Gran) (h : m.wf = true) : (m.setGran n g).wf = true := by
  have hb := Store.setBytes_wf (8 * n) (leBytes 8 g.data.toNat) h
  rw [Store.wf_iff] at h hb ⊢
  refine ⟨hb.1, hb.2.1, cellSet_pairwise _ _ _ h.2.2.1, ?_, markSet_pairwise _ _ h.2.2.2.2⟩
  intro c hc
  rcases mem_cellSet hc with hc | ⟨rfl, hv⟩
  · exact h.2.2.2.1 c hc
  · exact hv

theorem Store.setGrans_wf {m : Store} (n : Nat) (l : List Gran) (h : m.wf = true) : (m.setGrans n l).wf = true := by
  induction l generalizing m n with
  | nil => exact h
  | cons g r ih => exact ih _ (Store.setGran_wf _ _ h)

theorem Store.clear_wf {m : Store} (a n : Nat) (h : m.wf = true) : (m.clear a n).wf = true := by
  rw [Store.wf_iff] at h ⊢
  refine ⟨h.1.filter _, ?_, h.2.2.1.filter _, ?_, h.2.2.2.2.filter _⟩
  · intro c hc; exact h.2.1 c (List.mem_filter.1 hc).1
  · intro c hc; exact h.2.2.2.1 c (List.mem_filter.1 hc).1

/-- A fold of operations that keep the canonical form keeps it. -/
theorem Store.foldl_wf {f : Store → α → Store} (hf : ∀ m x, m.wf = true → (f m x).wf = true) (l : List α) {m : Store}
    (h : m.wf = true) : (l.foldl f m).wf = true := by
  induction l generalizing m with
  | nil => exact h
  | cons x r ih => exact ih (hf _ _ h)

theorem State.reset_wf : Memory.wf State.reset = true := by decide

/-! ## Reads after writes -/

theorem Store.setByte_byte_self {m : Store} (a : Nat) (b : Byte) (h : m.wf = true) : (m.setByte a b).byte a = b :=
  cellGet_cellSet_self _ _ _ _ ((Store.wf_iff m).1 h).1

theorem Store.setByte_byte_ne (m : Store) {a c : Nat} (b : Byte) (h : c ≠ a) : (m.setByte a b).byte c = m.byte c :=
  cellGet_cellSet_ne _ _ _ h

theorem Store.setBytes_byte_out (m : Store) (a : Nat) (l : List Byte) (c : Nat) (h : c < a ∨ a + l.length ≤ c) :
    (m.setBytes a l).byte c = m.byte c := by
  induction l generalizing m a with
  | nil => rfl
  | cons b r ih =>
    simp only [List.length_cons] at h
    rw [Store.setBytes, ih _ _ (by omega), Store.setByte_byte_ne _ _ (by omega)]

theorem Store.setBytes_byte_in {m : Store} (a : Nat) (l : List Byte) (i : Nat) (h : m.wf = true) (hi : i < l.length) :
    (m.setBytes a l).byte (a + i) = l[i] := by
  induction l generalizing m a i with
  | nil => simp at hi
  | cons b r ih =>
    cases i with
    | zero =>
      rw [Store.setBytes, Store.setBytes_byte_out _ _ _ _ (by omega)]
      exact Store.setByte_byte_self _ _ h
    | succ i =>
      have := ih (a + 1) i (Store.setByte_wf a b h) (by simpa using hi)
      rw [Store.setBytes, show a + (i + 1) = a + 1 + i by omega, this]
      rfl

/-- Byte `i` of the little-endian bytes of a word is byte `i` of the granule. -/
theorem leBytes_get (n v i : Nat) (h : i < (leBytes n v).length) : (leBytes n v)[i] = BitVec.ofNat 8 (v / 256 ^ i) := by
  induction n generalizing v i with
  | zero => simp [leBytes] at h
  | succ n ih =>
    cases i with
    | zero => simp [leBytes]
    | succ i =>
      simp only [leBytes, List.getElem_cons_succ]
      rw [ih, Nat.div_div_eq_div_mul, Nat.pow_succ']

@[simp] theorem leBytes_length (n v : Nat) : (leBytes n v).length = n := by
  induction n generalizing v with
  | zero => rfl
  | succ n ih => simp [leBytes, ih]

theorem Store.setGran_byte_in {m : Store} (n : Nat) (g : Gran) (i : Nat) (h : m.wf = true) (hi : i < 8) :
    (m.setGran n g).byte (8 * n + i) = g.byte i := by
  have := Store.setBytes_byte_in (8 * n) (leBytes 8 g.data.toNat) i h (by simpa using hi)
  rw [leBytes_get] at this
  exact this

theorem Store.setGran_byte_out (m : Store) (n : Nat) (g : Gran) (c : Nat) (h : c / 8 ≠ n) :
    (m.setGran n g).byte c = m.byte c := by
  have := Store.setBytes_byte_out m (8 * n) (leBytes 8 g.data.toNat) c (by simp; omega)
  exact this

end Sys2Proof.Machine
end

