-- ==== Sys2Proof/Laws/PerInstr.lean ====
section
/-! SUPPORT. What holds of every instruction, one lemma for each constructor: its word's lowest bit says its length (03 R52). A step
without an encoding has no word. -/

namespace Sys2Proof.Laws.Encoding

/-- A 32-bit word is odd, a 16-bit word even (03 R52). -/
def Statement (i : Instr) : Prop := ∀ n w, encode i = some (n, w) → n = 32 ∧ w % 2 = 1 ∨ n = 16 ∧ w % 2 = 0

theorem of_word32 {i : Instr} {w : Nat} (h : encode i = some (32, w)) (hw : w % 2 = 1) : Statement i := by
  intro n v hv
  rw [h] at hv
  cases hv
  exact .inl ⟨rfl, hw⟩

theorem of_word16 {i : Instr} {w : Nat} (h : encode i = some (16, w)) (hw : w % 2 = 0) : Statement i := by
  intro n v hv
  rw [h] at hv
  cases hv
  exact .inr ⟨rfl, hw⟩

theorem of_none {i : Instr} (h : encode i = none) : Statement i := by
  intro n v hv
  rw [h] at hv
  cases hv

/-! ## The formats -/

theorem eRR_odd (op x b a k d : Nat) : eRR op x b a k d % 2 = 1 := by unfold eRR; omega
theorem eRI_odd (op i a k d : Nat) : eRI op i a k d % 2 = 1 := by unfold eRI; omega
theorem eRW_odd (op i h k d : Nat) : eRW op i h k d % 2 = 1 := by unfold eRW; omega
theorem eRRC_odd (op x b a l p : Nat) : eRRC op x b a l p % 2 = 1 := by unfold eRRC; omega
theorem eMX_odd (op m b a d : Nat) : eMX op m b a d % 2 = 1 := by unfold eMX; omega
theorem eBin_odd (op x : Nat) (d : Dst) (a b : Src) : eBin op x d a b % 2 = 1 := eRR_odd _ _ _ _ _ _
theorem eSYS_odd (F a k d : Nat) : eSYS F a k d % 2 = 1 := eRI_odd _ _ _ _ _
theorem eUn_odd (F : Nat) (d : Dst) (a : Src) : eUn F d a % 2 = 1 := eSYS_odd _ _ _ _
theorem eImm_odd (op i : Nat) (d : Dst) (a : Src) : eImm op i d a % 2 = 1 := eRI_odd _ _ _ _ _
theorem eCP_odd (op t m b a d : Nat) : eCP op t m b a d % 2 = 1 := eMX_odd _ _ _ _ _
theorem e16_even (op d b : Nat) : e16 op d b % 2 = 0 := by unfold e16; omega

/-! ## The constructors -/

theorem add (w : Width) (d : Dst) (a : Src) (b : Src) : Statement (.add w d a b) := of_word32 rfl (eBin_odd _ _ _ _ _)
theorem sub (w : Width) (d : Dst) (a : Src) (b : Src) : Statement (.sub w d a b) := of_word32 rfl (eBin_odd _ _ _ _ _)
theorem addc (w : Width) (d : Dst) (a : Src) (b : Src) : Statement (.addc w d a b) := of_word32 rfl (eBin_odd _ _ _ _ _)
theorem subb (w : Width) (d : Dst) (a : Src) (b : Src) : Statement (.subb w d a b) := of_word32 rfl (eBin_odd _ _ _ _ _)
theorem mul24 (g : Sgn) (d : Dst) (a : Src) (b : Src) : Statement (.mul24 g d a b) := of_word32 rfl (eBin_odd _ _ _ _ _)
theorem mad24 (g : Sgn) (d : Dst) (a : Src) (b : Src) : Statement (.mad24 g d a b) := of_word32 rfl (eBin_odd _ _ _ _ _)
theorem mul (w : Width) (d : Dst) (a : Src) (b : Src) : Statement (.mul w d a b) := of_word32 rfl (eBin_odd _ _ _ _ _)
theorem mulh (g : Sgn) (d : Dst) (a : Src) (b : Src) : Statement (.mulh g d a b) := of_word32 rfl (eBin_odd _ _ _ _ _)
theorem div (g : Sgn) (d : Dst) (a : Src) (b : Src) : Statement (.div g d a b) := of_word32 rfl (eBin_odd _ _ _ _ _)
theorem rem (g : Sgn) (d : Dst) (a : Src) (b : Src) : Statement (.rem g d a b) := of_word32 rfl (eBin_odd _ _ _ _ _)
theorem min (g : Sgn) (d : Dst) (a : Src) (b : Src) : Statement (.min g d a b) := of_word32 rfl (eBin_odd _ _ _ _ _)
theorem max (g : Sgn) (d : Dst) (a : Src) (b : Src) : Statement (.max g d a b) := of_word32 rfl (eBin_odd _ _ _ _ _)
theorem addmin (g : Sgn) (d : Dst) (a : Src) (b : Src) : Statement (.addmin g d a b) := of_word32 rfl (eBin_odd _ _ _ _ _)
theorem and (w : Width) (d : Dst) (a : Src) (b : Src) : Statement (.and w d a b) := of_word32 rfl (eBin_odd _ _ _ _ _)
theorem or (w : Width) (d : Dst) (a : Src) (b : Src) : Statement (.or w d a b) := of_word32 rfl (eBin_odd _ _ _ _ _)
theorem xor (w : Width) (d : Dst) (a : Src) (b : Src) : Statement (.xor w d a b) := of_word32 rfl (eBin_odd _ _ _ _ _)
theorem andn (w : Width) (d : Dst) (a : Src) (b : Src) : Statement (.andn w d a b) := of_word32 rfl (eBin_odd _ _ _ _ _)
theorem shl (w : Width) (d : Dst) (a : Src) (b : Src) : Statement (.shl w d a b) := of_word32 rfl (eBin_odd _ _ _ _ _)
theorem shr (w : Width) (d : Dst) (a : Src) (b : Src) : Statement (.shr w d a b) := of_word32 rfl (eBin_odd _ _ _ _ _)
theorem sar (w : Width) (d : Dst) (a : Src) (b : Src) : Statement (.sar w d a b) := of_word32 rfl (eBin_odd _ _ _ _ _)
theorem rot (w : Width) (d : Dst) (a : Src) (b : Src) : Statement (.rot w d a b) := of_word32 rfl (eBin_odd _ _ _ _ _)
theorem bfe (g : Sgn) (d : Dst) (a : Src) (b : Src) : Statement (.bfe g d a b) := of_word32 rfl (eBin_odd _ _ _ _ _)
theorem bfi (d : Dst) (a : Src) (b : Src) : Statement (.bfi d a b) := of_word32 rfl (eBin_odd _ _ _ _ _)
theorem perm (d : Dst) (a : Src) (b : Src) : Statement (.perm d a b) := of_word32 rfl (eBin_odd _ _ _ _ _)
theorem lea (w : Width) (d : Dst) (a : Src) (b : Src) : Statement (.lea w d a b) := of_word32 rfl (eBin_odd _ _ _ _ _)
theorem addImm (d : Dst) (a : Src) (i : Imm9) : Statement (.addImm d a i) := of_word32 rfl (eImm_odd _ _ _ _)
theorem andImm (d : Dst) (a : Src) (i : Imm9) : Statement (.andImm d a i) := of_word32 rfl (eImm_odd _ _ _ _)
theorem orImm (d : Dst) (a : Src) (i : Imm9) : Statement (.orImm d a i) := of_word32 rfl (eImm_odd _ _ _ _)
theorem shlImm (w : Width) (d : Dst) (a : Src) (c : Cnt6) : Statement (.shlImm w d a c) := of_word32 rfl (eImm_odd _ _ _ _)
theorem shrImm (w : Width) (d : Dst) (a : Src) (c : Cnt6) : Statement (.shrImm w d a c) := of_word32 rfl (eImm_odd _ _ _ _)
theorem sarImm (w : Width) (d : Dst) (a : Src) (c : Cnt6) : Statement (.sarImm w d a c) := of_word32 rfl (eImm_odd _ _ _ _)
theorem rotImm (w : Width) (d : Dst) (a : Src) (c : Cnt6) : Statement (.rotImm w d a c) := of_word32 rfl (eImm_odd _ _ _ _)
theorem movi (g : Sgn) (d : Dst) (i : Imm16) : Statement (.movi g d i) := of_word32 rfl (eRW_odd _ _ _ _ _)
theorem movw (r : Reg) (i : Imm16) (n : Fin4) : Statement (.movw r i n) := of_word32 rfl (eRW_odd _ _ _ _ _)
theorem fadd (f : FW) (d : Dst) (a : Src) (b : Src) : Statement (.fadd f d a b) := of_word32 rfl (eBin_odd _ _ _ _ _)
theorem fsub (f : FW) (d : Dst) (a : Src) (b : Src) : Statement (.fsub f d a b) := of_word32 rfl (eBin_odd _ _ _ _ _)
theorem fmul (f : FW) (d : Dst) (a : Src) (b : Src) : Statement (.fmul f d a b) := of_word32 rfl (eBin_odd _ _ _ _ _)
theorem ffma (f : FW) (d : Dst) (a : Src) (b : Src) : Statement (.ffma f d a b) := of_word32 rfl (eBin_odd _ _ _ _ _)
theorem fmin (f : FW) (d : Dst) (a : Src) (b : Src) : Statement (.fmin f d a b) := of_word32 rfl (eBin_odd _ _ _ _ _)
theorem fmax (f : FW) (d : Dst) (a : Src) (b : Src) : Statement (.fmax f d a b) := of_word32 rfl (eBin_odd _ _ _ _ _)
theorem fdiv (f : FW) (d : Dst) (a : Src) (b : Src) : Statement (.fdiv f d a b) := of_word32 rfl (eBin_odd _ _ _ _ _)
theorem faddPacked (p : PW) (d : Dst) (a : Src) (b : Src) : Statement (.faddPacked p d a b) := of_word32 rfl (eBin_odd _ _ _ _ _)
theorem fmulPacked (p : PW) (d : Dst) (a : Src) (b : Src) : Statement (.fmulPacked p d a b) := of_word32 rfl (eBin_odd _ _ _ _ _)
theorem ffmaPacked (p : PW) (d : Dst) (a : Src) (b : Src) : Statement (.ffmaPacked p d a b) := of_word32 rfl (eBin_odd _ _ _ _ _)
theorem ivmk (f : FW) (d : Dst) (a : Src) (b : Src) : Statement (.ivmk f d a b) := of_word32 rfl (eBin_odd _ _ _ _ _)
theorem ivmkE (f : FW) (d : Dst) (a : Src) (b : Src) : Statement (.ivmkE f d a b) := of_word32 rfl (eBin_odd _ _ _ _ _)
theorem ivhull (f : FW) (d : Dst) (a : Src) (b : Src) : Statement (.ivhull f d a b) := of_word32 rfl (eBin_odd _ _ _ _ _)
theorem ivhullE (f : FW) (d : Dst) (a : Src) (b : Src) : Statement (.ivhullE f d a b) := of_word32 rfl (eBin_odd _ _ _ _ _)
theorem ivisect (f : FW) (d : Dst) (a : Src) (b : Src) : Statement (.ivisect f d a b) := of_word32 rfl (eBin_odd _ _ _ _ _)
theorem ivisectE (f : FW) (d : Dst) (a : Src) (b : Src) : Statement (.ivisectE f d a b) := of_word32 rfl (eBin_odd _ _ _ _ _)
theorem ibsp (f : FW) (d : Dst) (a : Src) (b : Src) : Statement (.ibsp f d a b) := of_word32 rfl (eBin_odd _ _ _ _ _)
theorem cmpSigned (w : Width) (l : Rel) (p : PReg) (a : Src) (b : Src) : Statement (.cmpSigned w l p a b) := of_word32 rfl (eRRC_odd _ _ _ _ _ _)
theorem cmpUnsigned (w : Width) (l : Rel) (p : PReg) (a : Src) (b : Src) : Statement (.cmpUnsigned w l p a b) := of_word32 rfl (eRRC_odd _ _ _ _ _ _)
theorem fcmp (f : FW) (l : Rel) (p : PReg) (a : Src) (b : Src) : Statement (.fcmp f l p a b) := of_word32 rfl (eRRC_odd _ _ _ _ _ _)
theorem ivin (f : FW) (p : PReg) (a : Src) (b : Src) : Statement (.ivin f p a b) := of_word32 rfl (eRRC_odd _ _ _ _ _ _)
theorem cmov (d : Dst) (a : Src) (p : PReg) (se : Sense) : Statement (.cmov d a p se) := of_word32 rfl (eRR_odd _ _ _ _ _ _)
theorem pand (d : PReg) (a : PReg) (b : PReg) : Statement (.pand d a b) := of_word32 rfl (eMX_odd _ _ _ _ _)
theorem por (d : PReg) (a : PReg) (b : PReg) : Statement (.por d a b) := of_word32 rfl (eMX_odd _ _ _ _ _)
theorem pxor (d : PReg) (a : PReg) (b : PReg) : Statement (.pxor d a b) := of_word32 rfl (eMX_odd _ _ _ _ _)
theorem pnot (d : PReg) (a : PReg) : Statement (.pnot d a) := of_word32 rfl (eMX_odd _ _ _ _ _)
theorem pdec (pv : Pred) (d : PReg) (a : PReg) : Statement (.pdec pv d a) := of_word32 rfl (eMX_odd _ _ _ _ _)
theorem pset (pv : Pred) (d : PReg) : Statement (.pset pv d) := of_word32 rfl (eMX_odd _ _ _ _ _)
theorem pget (d : Dst) : Statement (.pget d) := of_word32 rfl (eRR_odd _ _ _ _ _ _)
theorem pput (a : Src) : Statement (.pput a) := of_word32 rfl (eRR_odd _ _ _ _ _ _)
theorem vote (m : VoteMode) (d : Dst) (p : PReg) (se : Sense) (b : Src) : Statement (.vote m d p se b) := of_word32 rfl (eRR_odd _ _ _ _ _ _)
theorem shfl (m : ShflMode) (d : Dst) (a : Src) (b : Src) : Statement (.shfl m d a b) := of_word32 rfl (eBin_odd _ _ _ _ _)
theorem lsh (m : LshDir) (d : Dst) (a : Src) (b : Src) : Statement (.lsh m d a b) := of_word32 rfl (eBin_odd _ _ _ _ _)
theorem bcastFirst (k : KReg) (a : Src) (b : Src) : Statement (.bcastFirst k a b) := of_word32 rfl (eRR_odd _ _ _ _ _ _)
theorem matchLane (d : Dst) (a : Src) (b : Src) : Statement (.matchLane d a b) := of_word32 rfl (eBin_odd _ _ _ _ _)
theorem reduxAdd (w : Width) (d : Dst) (a : Src) (b : Src) : Statement (.reduxAdd w d a b) := of_word32 rfl (eBin_odd _ _ _ _ _)
theorem reduxMin (g : Sgn) (d : Dst) (a : Src) (b : Src) : Statement (.reduxMin g d a b) := of_word32 rfl (eBin_odd _ _ _ _ _)
theorem reduxMax (g : Sgn) (d : Dst) (a : Src) (b : Src) : Statement (.reduxMax g d a b) := of_word32 rfl (eBin_odd _ _ _ _ _)
theorem reduxAnd (w : Width) (d : Dst) (a : Src) (b : Src) : Statement (.reduxAnd w d a b) := of_word32 rfl (eBin_odd _ _ _ _ _)
theorem reduxOr (w : Width) (d : Dst) (a : Src) (b : Src) : Statement (.reduxOr w d a b) := of_word32 rfl (eBin_odd _ _ _ _ _)
theorem reduxXor (w : Width) (d : Dst) (a : Src) (b : Src) : Statement (.reduxXor w d a b) := of_word32 rfl (eBin_odd _ _ _ _ _)
theorem freduxAdd (f : FW) (d : Dst) (a : Src) (b : Src) : Statement (.freduxAdd f d a b) := of_word32 rfl (eBin_odd _ _ _ _ _)
theorem freduxMin (f : FW) (d : Dst) (a : Src) (b : Src) : Statement (.freduxMin f d a b) := of_word32 rfl (eBin_odd _ _ _ _ _)
theorem freduxMax (f : FW) (d : Dst) (a : Src) (b : Src) : Statement (.freduxMax f d a b) := of_word32 rfl (eBin_odd _ _ _ _ _)
theorem scanAdd (w : Width) (d : Dst) (a : Src) (b : Src) : Statement (.scanAdd w d a b) := of_word32 rfl (eBin_odd _ _ _ _ _)
theorem scanMax (g : Sgn) (d : Dst) (a : Src) (b : Src) : Statement (.scanMax g d a b) := of_word32 rfl (eBin_odd _ _ _ _ _)
theorem ldN8 (d : Dst) (a : Src) (i : Imm9) : Statement (.ldN8 d a i) := of_word32 rfl (eImm_odd _ _ _ _)
theorem ldS8 (d : Dst) (a : Src) (i : Imm9) : Statement (.ldS8 d a i) := of_word32 rfl (eImm_odd _ _ _ _)
theorem ldN16 (d : Dst) (a : Src) (i : Imm9) : Statement (.ldN16 d a i) := of_word32 rfl (eImm_odd _ _ _ _)
theorem ldS16 (d : Dst) (a : Src) (i : Imm9) : Statement (.ldS16 d a i) := of_word32 rfl (eImm_odd _ _ _ _)
theorem ldN32 (d : Dst) (a : Src) (i : Imm9) : Statement (.ldN32 d a i) := of_word32 rfl (eImm_odd _ _ _ _)
theorem ldS32 (d : Dst) (a : Src) (i : Imm9) : Statement (.ldS32 d a i) := of_word32 rfl (eImm_odd _ _ _ _)
theorem ldB64 (d : Dst) (a : Src) (i : Imm9) : Statement (.ldB64 d a i) := of_word32 rfl (eImm_odd _ _ _ _)
theorem ldB64x2 (d : Dst) (a : Src) (i : Imm9) : Statement (.ldB64x2 d a i) := of_word32 rfl (eImm_odd _ _ _ _)
theorem ldB64x4 (d : Dst) (a : Src) (i : Imm9) : Statement (.ldB64x4 d a i) := of_word32 rfl (eImm_odd _ _ _ _)
theorem stB8 (d : Reg) (a : Src) (i : Imm9) : Statement (.stB8 d a i) := of_word32 rfl (eRI_odd _ _ _ _ _)
theorem stB16 (d : Reg) (a : Src) (i : Imm9) : Statement (.stB16 d a i) := of_word32 rfl (eRI_odd _ _ _ _ _)
theorem stB32 (d : Reg) (a : Src) (i : Imm9) : Statement (.stB32 d a i) := of_word32 rfl (eRI_odd _ _ _ _ _)
theorem stB64 (d : Reg) (a : Src) (i : Imm9) : Statement (.stB64 d a i) := of_word32 rfl (eRI_odd _ _ _ _ _)
theorem stB64x2 (d : Reg) (a : Src) (i : Imm9) : Statement (.stB64x2 d a i) := of_word32 rfl (eRI_odd _ _ _ _ _)
theorem stB64x4 (d : Reg) (a : Src) (i : Imm9) : Statement (.stB64x4 d a i) := of_word32 rfl (eRI_odd _ _ _ _ _)
theorem atom (w : Width) (o : AtomOp) (sc : Scope) (d : Dst) (a : Src) : Statement (.atom w o sc d a) := of_word32 rfl (eRR_odd _ _ _ _ _ _)
theorem cpIn (t : KReg) (n : MReg) (r : KReg16) (o : KReg16) : Statement (.cpIn t n r o) := of_word32 rfl (eCP_odd _ _ _ _ _ _)
theorem cpOut (t : KReg) (n : MReg) (r : KReg16) (o : KReg16) : Statement (.cpOut t n r o) := of_word32 rfl (eCP_odd _ _ _ _ _ _)
theorem cpOutAdd (t : KReg) (n : MReg) (r : KReg16) (o : KReg16) : Statement (.cpOutAdd t n r o) := of_word32 rfl (eCP_odd _ _ _ _ _ _)
theorem cpMc (t : KReg) (n : MReg) (r : KReg16) (o : KReg16) (m : KReg16) : Statement (.cpMc t n r o m) := of_word32 rfl (eCP_odd _ _ _ _ _ _)
theorem cpPad (t : KReg) (p : KReg16) (r : KReg16) (o : KReg16) : Statement (.cpPad t p r o) := of_word32 rfl (eCP_odd _ _ _ _ _ _)
theorem cpPadOut (t : KReg) (p : KReg16) (r : KReg16) (o : KReg16) : Statement (.cpPadOut t p r o) := of_word32 rfl (eCP_odd _ _ _ _ _ _)
theorem cpFill (t : KReg) (n : MReg) (v : KReg16) : Statement (.cpFill t n v) := of_word32 rfl (eCP_odd _ _ _ _ _ _)
theorem recFence : Statement .recFence := of_word32 rfl (eMX_odd _ _ _ _ _)
theorem recPf (r : KReg16) : Statement (.recPf r) := of_word32 rfl (eMX_odd _ _ _ _ _)
theorem own (n : MReg) : Statement (.own n) := of_word32 rfl (eMX_odd _ _ _ _ _)
theorem mma (e : Epoch) (d : MReg) (a : MReg) (b : MReg) : Statement (.mma e d a b) := of_word32 rfl (eMX_odd _ _ _ _ _)
theorem mmaSat (e : Epoch) (d : MReg) (a : MReg) (b : MReg) : Statement (.mmaSat e d a b) := of_word32 rfl (eMX_odd _ _ _ _ _)
theorem mcvt (f : EFmt) (p : Planes) (d : MReg) (a : MReg) : Statement (.mcvt f p d a) := of_word32 rfl (eMX_odd _ _ _ _ _)
theorem mrmax (d : MReg) (a : MReg) : Statement (.mrmax d a) := of_word32 rfl (eMX_odd _ _ _ _ _)
theorem mrsum (d : MReg) (a : MReg) : Statement (.mrsum d a) := of_word32 rfl (eMX_odd _ _ _ _ _)
theorem mexp2 (d : MReg) (a : MReg) : Statement (.mexp2 d a) := of_word32 rfl (eMX_odd _ _ _ _ _)
theorem mrscale (d : MReg) (a : MReg) (b : MReg) : Statement (.mrscale d a b) := of_word32 rfl (eMX_odd _ _ _ _ _)
theorem mmask (d : MReg) (k : KReg16) : Statement (.mmask d k) := of_word32 rfl (eMX_odd _ _ _ _ _)
theorem mhdrGet (d : Dst) (m : MReg) : Statement (.mhdrGet d m) := of_word32 rfl (eRR_odd _ _ _ _ _ _)
theorem mhdrSet (d : Reg) (m : MReg) : Statement (.mhdrSet d m) := of_word32 rfl (eRR_odd _ _ _ _ _ _)
theorem mget (d : Dst) (m : MReg) (b : Src) : Statement (.mget d m b) := of_word32 rfl (eRR_odd _ _ _ _ _ _)
theorem mput (d : Reg) (m : MReg) (b : Src) : Statement (.mput d m b) := of_word32 rfl (eRR_odd _ _ _ _ _ _)
theorem mdrain (t : KReg) (n : MReg) (r : KReg16) (o : KReg16) : Statement (.mdrain t n r o) := of_word32 rfl (eCP_odd _ _ _ _ _ _)
theorem mdrainAdd (t : KReg) (n : MReg) (r : KReg16) (o : KReg16) : Statement (.mdrainAdd t n r o) := of_word32 rfl (eCP_odd _ _ _ _ _ _)
theorem mzero (d : MReg) : Statement (.mzero d) := of_word32 rfl (eMX_odd _ _ _ _ _)
theorem tshape (r : KReg16) : Statement (.tshape r) := of_word32 rfl (eMX_odd _ _ _ _ _)
theorem mplan (t : KReg16) : Statement (.mplan t) := of_word32 rfl (eMX_odd _ _ _ _ _)
theorem bra (o : Off19) (se : Sense) (p : PReg) : Statement (.bra o se p) := of_word32 rfl (by omega)
theorem jmp (o : Off19) : Statement (.jmp o) := of_word32 rfl (by omega)
theorem jmpk (p : PReg) (se : Sense) (t : KReg) : Statement (.jmpk p se t) := of_word32 rfl (eRR_odd _ _ _ _ _ _)
theorem meet (i : Imm16) (g : Reg) : Statement (.meet i g) := of_word32 rfl (eRW_odd _ _ _ _ _)
theorem meetR (a : Src) : Statement (.meetR a) := of_word32 rfl (eRR_odd _ _ _ _ _ _)
theorem exit : Statement .exit := of_word32 rfl (eRR_odd _ _ _ _ _ _)
theorem loop (n : Fin3) (a : Src) (i : Imm9) : Statement (.loop n a i) := of_word32 rfl (eRI_odd _ _ _ _ _)
theorem call (o : Off19) (n : N8) : Statement (.call o n) := of_word32 rfl (by omega)
theorem barArr (n : BReg) : Statement (.barArr n) := of_word32 rfl (eMX_odd _ _ _ _ _)
theorem barWait (n : BReg) : Statement (.barWait n) := of_word32 rfl (eMX_odd _ _ _ _ _)
theorem barSync (n : BReg) : Statement (.barSync n) := of_word32 rfl (eMX_odd _ _ _ _ _)
theorem barExp (n : BReg) (c : KReg16) : Statement (.barExp n c) := of_word32 rfl (eMX_odd _ _ _ _ _)
theorem sbar (n : Fin4) : Statement (.sbar n) := of_word32 rfl (eMX_odd _ _ _ _ _)
theorem qput (q : QReg) (a : Src) : Statement (.qput q a) := of_word32 rfl (eRR_odd _ _ _ _ _ _)
theorem qget (d : Dst) (q : QReg) : Statement (.qget d q) := of_word32 rfl (eRR_odd _ _ _ _ _ _)
theorem qlen (d : Dst) (q : QReg) : Statement (.qlen d q) := of_word32 rfl (eRR_odd _ _ _ _ _ _)
theorem nput (a : Src) (b : Src) : Statement (.nput a b) := of_word32 rfl (eRR_odd _ _ _ _ _ _)
theorem sleep (a : Src) (i : Imm9) : Statement (.sleep a i) := of_word32 rfl (eRI_odd _ _ _ _ _)
theorem grow (a : Src) : Statement (.grow a) := of_word32 rfl (eRI_odd _ _ _ _ _)
theorem shrink (a : Src) : Statement (.shrink a) := of_word32 rfl (eRI_odd _ _ _ _ _)
theorem claim (a : Src) : Statement (.claim a) := of_word32 rfl (eRI_odd _ _ _ _ _)
theorem release (a : Src) : Statement (.release a) := of_word32 rfl (eRI_odd _ _ _ _ _)
theorem pinfo (d : Dst) : Statement (.pinfo d) := of_word32 rfl (eRI_odd _ _ _ _ _)
theorem talloc (m : MReg) (a : Src) : Statement (.talloc m a) := of_word32 rfl (eRI_odd _ _ _ _ _)
theorem tfree (m : MReg) : Statement (.tfree m) := of_word32 rfl (eRI_odd _ _ _ _ _)
theorem callk (t : KReg) (n : N8) : Statement (.callk t n) := of_word32 rfl (eRI_odd _ _ _ _ _)
theorem ret : Statement .ret := of_word32 rfl (eRI_odd _ _ _ _ _)
theorem ocflush : Statement .ocflush := of_word32 rfl (eRI_odd _ _ _ _ _)
theorem ockeep (r : Reg) (pin : Bool) : Statement (.ockeep r pin) := of_word32 rfl (eRI_odd _ _ _ _ _)
theorem xbrev8 (d : Dst) (a : Src) : Statement (.xbrev8 d a) := of_word32 rfl (eRI_odd _ _ _ _ _)
theorem xpopc8 (d : Dst) (a : Src) : Statement (.xpopc8 d a) := of_word32 rfl (eRI_odd _ _ _ _ _)
theorem nop : Statement .nop := of_word32 rfl (eSYS_odd _ _ _ _)
theorem brk : Statement .brk := of_word32 rfl (eSYS_odd _ _ _ _)
theorem trap (a : Src) : Statement (.trap a) := of_word32 rfl (eSYS_odd _ _ _ _)
theorem tret : Statement .tret := of_word32 rfl (eSYS_odd _ _ _ _)
theorem sget (d : Dst) (r : SysReg) : Statement (.sget d r) := of_word32 rfl (eSYS_odd _ _ _ _)
theorem sput (r : SysReg) (a : Src) : Statement (.sput r a) := of_word32 rfl (eSYS_odd _ _ _ _)
theorem abs (w : Width) (d : Dst) (a : Src) : Statement (.abs w d a) := of_word32 rfl (eUn_odd _ _ _)
theorem neg (w : Width) (d : Dst) (a : Src) : Statement (.neg w d a) := of_word32 rfl (eUn_odd _ _ _)
theorem not (w : Width) (d : Dst) (a : Src) : Statement (.not w d a) := of_word32 rfl (eUn_odd _ _ _)
theorem popc (w : Width) (d : Dst) (a : Src) : Statement (.popc w d a) := of_word32 rfl (eUn_odd _ _ _)
theorem clz (w : Width) (d : Dst) (a : Src) : Statement (.clz w d a) := of_word32 rfl (eUn_odd _ _ _)
theorem ctz (w : Width) (d : Dst) (a : Src) : Statement (.ctz w d a) := of_word32 rfl (eUn_odd _ _ _)
theorem brev (w : Width) (d : Dst) (a : Src) : Statement (.brev w d a) := of_word32 rfl (eUn_odd _ _ _)
theorem mov (d : Dst) (a : Src) : Statement (.mov d a) := of_word32 rfl (eUn_odd _ _ _)
theorem ext (e : ExtKind) (d : Dst) (a : Src) : Statement (.ext e d a) := of_word32 rfl (eUn_odd _ _ _)
theorem movk (k : KReg) (a : Src) : Statement (.movk k a) := of_word32 rfl (eSYS_odd _ _ _ _)
theorem kmov (k : KReg) (t : KReg) : Statement (.kmov k t) := of_word32 rfl (eSYS_odd _ _ _ _)
theorem fabs (f : FW) (d : Dst) (a : Src) : Statement (.fabs f d a) := of_word32 rfl (eUn_odd _ _ _)
theorem fneg (f : FW) (d : Dst) (a : Src) : Statement (.fneg f d a) := of_word32 rfl (eUn_odd _ _ _)
theorem fsqrt (f : FW) (d : Dst) (a : Src) : Statement (.fsqrt f d a) := of_word32 rfl (eUn_odd _ _ _)
theorem frcp (f : FW) (d : Dst) (a : Src) : Statement (.frcp f d a) := of_word32 rfl (eUn_odd _ _ _)
theorem frsq (f : FW) (d : Dst) (a : Src) : Statement (.frsq f d a) := of_word32 rfl (eUn_odd _ _ _)
theorem fexp2 (f : FW) (d : Dst) (a : Src) : Statement (.fexp2 f d a) := of_word32 rfl (eUn_odd _ _ _)
theorem flog2 (f : FW) (d : Dst) (a : Src) : Statement (.flog2 f d a) := of_word32 rfl (eUn_odd _ _ _)
theorem fsin (f : FW) (d : Dst) (a : Src) : Statement (.fsin f d a) := of_word32 rfl (eUn_odd _ _ _)
theorem fcos (f : FW) (d : Dst) (a : Src) : Statement (.fcos f d a) := of_word32 rfl (eUn_odd _ _ _)
theorem ftanh (f : FW) (d : Dst) (a : Src) : Statement (.ftanh f d a) := of_word32 rfl (eUn_odd _ _ _)
theorem fcvtF16F32 (r : RDir) (d : Dst) (a : Src) : Statement (.fcvtF16F32 r d a) := of_word32 rfl (eUn_odd _ _ _)
theorem fcvtBf16F32 (r : RDir) (d : Dst) (a : Src) : Statement (.fcvtBf16F32 r d a) := of_word32 rfl (eUn_odd _ _ _)
theorem fcvtF32F64 (r : RDir) (d : Dst) (a : Src) : Statement (.fcvtF32F64 r d a) := of_word32 rfl (eUn_odd _ _ _)
theorem fcvtF32F16 (d : Dst) (a : Src) : Statement (.fcvtF32F16 d a) := of_word32 rfl (eUn_odd _ _ _)
theorem fcvtF32Bf16 (d : Dst) (a : Src) : Statement (.fcvtF32Bf16 d a) := of_word32 rfl (eUn_odd _ _ _)
theorem fcvtF64F32 (d : Dst) (a : Src) : Statement (.fcvtF64F32 d a) := of_word32 rfl (eUn_odd _ _ _)
theorem icvtToFloat (f : FW) (w : Width) (g : Sgn) (d : Dst) (a : Src) : Statement (.icvtToFloat f w g d a) := of_word32 rfl (eUn_odd _ _ _)
theorem icvtToInt (f : FW) (w : Width) (g : Sgn) (d : Dst) (a : Src) : Statement (.icvtToInt f w g d a) := of_word32 rfl (eUn_odd _ _ _)
theorem fround (f : FW) (r : RDir) (d : Dst) (a : Src) : Statement (.fround f r d a) := of_word32 rfl (eUn_odd _ _ _)
theorem fclass (f : FW) (d : Dst) (a : Src) : Statement (.fclass f d a) := of_word32 rfl (eUn_odd _ _ _)
theorem ivlo (f : FW) (d : Dst) (a : Src) : Statement (.ivlo f d a) := of_word32 rfl (eUn_odd _ _ _)
theorem ivhi (f : FW) (d : Dst) (a : Src) : Statement (.ivhi f d a) := of_word32 rfl (eUn_odd _ _ _)
theorem ivmid (f : FW) (d : Dst) (a : Src) : Statement (.ivmid f d a) := of_word32 rfl (eUn_odd _ _ _)
theorem ivwid (f : FW) (d : Dst) (a : Src) : Statement (.ivwid f d a) := of_word32 rfl (eUn_odd _ _ _)
theorem ldIv (f : FW) (d : Dst) (a : Src) : Statement (.ldIv f d a) := of_word32 rfl (eUn_odd _ _ _)
theorem stIv (f : FW) (d : Reg) (a : Src) : Statement (.stIv f d a) := of_word32 rfl (eSYS_odd _ _ _ _)
theorem ldk (k : KReg) (a : Src) : Statement (.ldk k a) := of_word32 rfl (eSYS_odd _ _ _ _)
theorem scopeDrop (a : Src) : Statement (.scopeDrop a) := of_word32 rfl (eSYS_odd _ _ _ _)
theorem fenceRep : Statement .fenceRep := of_word32 rfl (eSYS_odd _ _ _ _)
theorem pf (a : Src) : Statement (.pf a) := of_word32 rfl (eSYS_odd _ _ _ _)
theorem wait (c : Byte) (m : Mask4) : Statement (.wait c m) := of_word32 rfl (eSYS_odd _ _ _ _)
theorem add16 (d : Reg) (b : Reg5) : Statement (.add16 d b) := of_word16 rfl (e16_even _ _ _)
theorem sub16 (d : Reg) (b : Reg5) : Statement (.sub16 d b) := of_word16 rfl (e16_even _ _ _)
theorem mul2416 (d : Reg) (b : Reg5) : Statement (.mul2416 d b) := of_word16 rfl (e16_even _ _ _)
theorem and16 (d : Reg) (b : Reg5) : Statement (.and16 d b) := of_word16 rfl (e16_even _ _ _)
theorem or16 (d : Reg) (b : Reg5) : Statement (.or16 d b) := of_word16 rfl (e16_even _ _ _)
theorem xor16 (d : Reg) (b : Reg5) : Statement (.xor16 d b) := of_word16 rfl (e16_even _ _ _)
theorem shl16 (d : Reg) (b : Reg5) : Statement (.shl16 d b) := of_word16 rfl (e16_even _ _ _)
theorem shr16 (d : Reg) (b : Reg5) : Statement (.shr16 d b) := of_word16 rfl (e16_even _ _ _)
theorem sar16 (d : Reg) (b : Reg5) : Statement (.sar16 d b) := of_word16 rfl (e16_even _ _ _)
theorem min16 (d : Reg) (b : Reg5) : Statement (.min16 d b) := of_word16 rfl (e16_even _ _ _)
theorem max16 (d : Reg) (b : Reg5) : Statement (.max16 d b) := of_word16 rfl (e16_even _ _ _)
theorem mov16 (d : Reg) (b : Reg5) : Statement (.mov16 d b) := of_word16 rfl (e16_even _ _ _)
theorem nopH (b : Reg5) : Statement (.nopH b) := of_word16 rfl (e16_even _ _ _)
theorem fadd16 (d : Reg) (b : Reg5) : Statement (.fadd16 d b) := of_word16 rfl (e16_even _ _ _)
theorem fsub16 (d : Reg) (b : Reg5) : Statement (.fsub16 d b) := of_word16 rfl (e16_even _ _ _)
theorem fmul16 (d : Reg) (b : Reg5) : Statement (.fmul16 d b) := of_word16 rfl (e16_even _ _ _)
theorem fmax16 (d : Reg) (b : Reg5) : Statement (.fmax16 d b) := of_word16 rfl (e16_even _ _ _)
theorem coalescerTimeout (core : Nat) (slot : Nat) : Statement (.coalescerTimeout core slot) := of_none rfl
theorem laneMerge (m : Nat) : Statement (.laneMerge m) := of_none rfl
theorem loadRequest (t : Nat) : Statement (.loadRequest t) := of_none rfl
theorem loadDataReturn (t : Nat) : Statement (.loadDataReturn t) := of_none rfl
theorem sliceWrite (m : Nat) : Statement (.sliceWrite m) := of_none rfl
theorem storeAck (m : Nat) : Statement (.storeAck m) := of_none rfl
theorem l2Atomic (t : Nat) : Statement (.l2Atomic t) := of_none rfl
theorem recallReturn (line : Nat) : Statement (.recallReturn line) := of_none rfl
theorem writeQueueDrain (ms : Nat) : Statement (.writeQueueDrain ms) := of_none rfl
theorem hbmRead (line : Nat) (key : Nat) (err : PhysErr) : Statement (.hbmRead line key err) := of_none rfl
theorem refresh (ms : Nat) : Statement (.refresh ms) := of_none rfl
theorem rfm (ms : Nat) (bank : Nat) : Statement (.rfm ms bank) := of_none rfl
theorem patrolScrub (line : Nat) (err : PhysErr) : Statement (.patrolScrub line err) := of_none rfl
theorem replicaUpdate (m : Nat) : Statement (.replicaUpdate m) := of_none rfl
theorem replicaAck (m : Nat) : Statement (.replicaAck m) := of_none rfl
theorem rebase : Statement .rebase := of_none rfl
theorem chainFlitCrcFail (dir : Nat) (group : Nat) : Statement (.chainFlitCrcFail dir group) := of_none rfl
theorem chainLaneRepair (dir : Nat) (group : Nat) : Statement (.chainLaneRepair dir group) := of_none rfl
theorem pageWalk (w : Nat) : Statement (.pageWalk w) := of_none rfl
theorem faultEntryRetry (w : Nat) : Statement (.faultEntryRetry w) := of_none rfl
theorem instructionFetch (core : Nat) (aspace : Nat) (line : Nat) (parity : Bool) : Statement (.instructionFetch core aspace line parity) := of_none rfl
theorem copyAccept (core : Nat) : Statement (.copyAccept core) := of_none rfl
theorem copyComplete (c : Nat) : Statement (.copyComplete c) := of_none rfl
theorem allocatorServe (core : Nat) : Statement (.allocatorServe core) := of_none rfl
theorem acreDrained (core : Nat) : Statement (.acreDrained core) := of_none rfl
theorem acreFilled (core : Nat) : Statement (.acreFilled core) := of_none rfl
theorem acreWriteoutAck (core : Nat) : Statement (.acreWriteoutAck core) := of_none rfl
theorem bench (core : Nat) : Statement (.bench core) := of_none rfl
theorem dispatch : Statement .dispatch := of_none rfl
theorem admitGang (core : Nat) : Statement (.admitGang core) := of_none rfl
theorem listAveraging (cluster : Nat) : Statement (.listAveraging cluster) := of_none rfl
theorem spanAge (cluster : Nat) : Statement (.spanAge cluster) := of_none rfl
theorem preemptPriority (core : Nat) : Statement (.preemptPriority core) := of_none rfl
theorem preemptSlice (core : Nat) : Statement (.preemptSlice core) := of_none rfl
theorem launchComplete (slot : Nat) : Statement (.launchComplete slot) := of_none rfl
theorem binTimer (slot : Nat) (node : Nat) : Statement (.binTimer slot node) := of_none rfl
theorem binDrain (slot : Nat) : Statement (.binDrain slot) := of_none rfl
theorem deadlockDetect (g : Nat) : Statement (.deadlockDetect g) := of_none rfl
theorem sleepEnd (t : Nat) : Statement (.sleepEnd t) := of_none rfl
theorem launchReplay (slot : Nat) : Statement (.launchReplay slot) := of_none rfl
theorem scrupleThreshold (u : HwUnit) : Statement (.scrupleThreshold u) := of_none rfl
theorem scrupleHalving : Statement .scrupleHalving := of_none rfl
theorem targetedTestDone (u : HwUnit) (pass : Bool) : Statement (.targetedTestDone u pass) := of_none rfl
theorem powerExcursion : Statement .powerExcursion := of_none rfl
theorem powerRecovery : Statement .powerRecovery := of_none rfl
theorem powerOn : Statement .powerOn := of_none rfl
theorem ualIdAssign (id : Nat) : Statement (.ualIdAssign id) := of_none rfl
theorem ualinkIngressWrite (w : IngressWrite) : Statement (.ualinkIngressWrite w) := of_none rfl
theorem ualinkIngressRead (line : Nat) (foreign : Bool) : Statement (.ualinkIngressRead line foreign) := of_none rfl
theorem ualinkIngressAtomic (pa : Nat) (w : Width) (o : AtomOp) (v : Word) (c : Word) : Statement (.ualinkIngressAtomic pa w o v c) := of_none rfl
theorem reduceOnArrival (w : IngressReduce) : Statement (.reduceOnArrival w) := of_none rfl
theorem ualinkResponse (m : Nat) (r : UalReply) : Statement (.ualinkResponse m r) := of_none rfl
theorem launch (q : Nat) : Statement (.launch q) := of_none rfl
theorem waitBlock (q : Nat) : Statement (.waitBlock q) := of_none rfl
theorem signalAdd (q : Nat) : Statement (.signalAdd q) := of_none rfl
theorem signalSetCounter (q : Nat) : Statement (.signalSetCounter q) := of_none rfl
theorem branchOn (q : Nat) : Statement (.branchOn q) := of_none rfl
theorem skip (q : Nat) : Statement (.skip q) := of_none rfl
theorem fence (q : Nat) : Statement (.fence q) := of_none rfl
theorem invalidate (q : Nat) : Statement (.invalidate q) := of_none rfl
theorem unmapX (q : Nat) : Statement (.unmapX q) := of_none rfl
theorem mapX (q : Nat) : Statement (.mapX q) := of_none rfl
theorem writeCode (q : Nat) : Statement (.writeCode q) := of_none rfl
theorem writeBlock (q : Nat) : Statement (.writeBlock q) := of_none rfl
theorem timestamp (q : Nat) : Statement (.timestamp q) := of_none rfl
theorem blockTestRetry (q : Nat) : Statement (.blockTestRetry q) := of_none rfl
theorem qwptrWrite (q : Nat) (v : Nat) : Statement (.qwptrWrite q v) := of_none rfl
theorem qcfgEnable (q : Nat) (v : Word) : Statement (.qcfgEnable q v) := of_none rfl
theorem qcfgDisable (q : Nat) (v : Word) : Statement (.qcfgDisable q v) := of_none rfl
theorem qcfgErrClear (q : Nat) (v : Word) : Statement (.qcfgErrClear q v) := of_none rfl
theorem registerWrite (off : Nat) (eight : Bool) (v : Word) : Statement (.registerWrite off eight v) := of_none rfl
theorem resolveRetry (die : Nat) (entry : Nat) (vpn : Nat) : Statement (.resolveRetry die entry vpn) := of_none rfl
theorem resolveFail (die : Nat) (entry : Nat) (vpn : Nat) : Statement (.resolveFail die entry vpn) := of_none rfl
theorem intstatClear (v : Word) : Statement (.intstatClear v) := of_none rfl
theorem gstatClear (v : Word) : Statement (.gstatClear v) := of_none rfl
theorem bar0UndocumentedAccess (x : BarAccess) : Statement (.bar0UndocumentedAccess x) := of_none rfl
theorem keyLoad (slot : Nat) (half : Nat) (key : KeyHalf) : Statement (.keyLoad slot half key) := of_none rfl
theorem keyClear (slot : Nat) : Statement (.keyClear slot) := of_none rfl
theorem halt (lid : Nat) (gang : Nat) (crew : Nat) : Statement (.halt lid gang crew) := of_none rfl
theorem resume (lid : Nat) (gang : Nat) (crew : Nat) : Statement (.resume lid gang crew) := of_none rfl
theorem kill (lid : Nat) (gang : Nat) (crew : Nat) : Statement (.kill lid gang crew) := of_none rfl
theorem breakReq (lid : Nat) (gang : Nat) (crew : Nat) : Statement (.breakReq lid gang crew) := of_none rfl
theorem migrate (lid : Nat) (gang : Nat) : Statement (.migrate lid gang) := of_none rfl
theorem migrateReady (lid : Nat) (gang : Nat) : Statement (.migrateReady lid gang) := of_none rfl
theorem migrateTimeout (lid : Nat) (gang : Nat) : Statement (.migrateTimeout lid gang) := of_none rfl
theorem migrateIn (lid : Nat) (gang : Nat) (same : Bool) : Statement (.migrateIn lid gang same) := of_none rfl
theorem sensor : Statement .sensor := of_none rfl
theorem logRead (n : Nat) : Statement (.logRead n) := of_none rfl
theorem attest (nonce : KeyHalf) (page : Nat) : Statement (.attest nonce page) := of_none rfl
theorem fwStage (p : FwPiece) : Statement (.fwStage p) := of_none rfl
theorem fwActivate (u : Nat) : Statement (.fwActivate u) := of_none rfl
theorem enroll (r : EnrollReq) : Statement (.enroll r) := of_none rfl
theorem journalClear : Statement .journalClear := of_none rfl
theorem tileInstructionComplete (n : Nat) : Statement (.tileInstructionComplete n) := of_none rfl
theorem drainedCorePreemption (core : Nat) : Statement (.drainedCorePreemption core) := of_none rfl

end Sys2Proof.Laws.Encoding
end

