-- ==== Sys2Proof/Laws/State.lean ====
section
/-! SUPPORT. What each named update of the state does to each field: the field it names, and no other. -/

namespace Sys2Proof.Machine

/-! ## setT -/

@[simp] theorem State.setT_stepping (s : State) (t : Nat) (x : Thread) : (s.setT t x).stepping = s.stepping := rfl
@[simp] theorem State.setT_time (s : State) (t : Nat) (x : Thread) : (s.setT t x).time = s.time := rfl
@[simp] theorem State.setT_t125 (s : State) (t : Nat) (x : Thread) : (s.setT t x).t125 = s.t125 := rfl
@[simp] theorem State.setT_halfClock (s : State) (t : Nat) (x : Thread) : (s.setT t x).halfClock = s.halfClock := rfl
@[simp] theorem State.setT_turns (s : State) (t : Nat) (x : Thread) : (s.setT t x).turns = s.turns := rfl
@[simp] theorem State.setT_free (s : State) (t : Nat) (x : Thread) : (s.setT t x).free = s.free := rfl
@[simp] theorem State.setT_nextId (s : State) (t : Nat) (x : Thread) : (s.setT t x).nextId = s.nextId := rfl
@[simp] theorem State.setT_cur (s : State) (t : Nat) (x : Thread) : (s.setT t x).cur = s.cur := rfl
@[simp] theorem State.setT_threads (s : State) (t : Nat) (x : Thread) : (s.setT t x).threads = s.threads.set t x := rfl
@[simp] theorem State.setT_crews (s : State) (t : Nat) (x : Thread) : (s.setT t x).crews = s.crews := rfl
@[simp] theorem State.setT_gangs (s : State) (t : Nat) (x : Thread) : (s.setT t x).gangs = s.gangs := rfl
@[simp] theorem State.setT_spans (s : State) (t : Nat) (x : Thread) : (s.setT t x).spans = s.spans := rfl
@[simp] theorem State.setT_launches (s : State) (t : Nat) (x : Thread) : (s.setT t x).launches = s.launches := rfl
@[simp] theorem State.setT_accepted (s : State) (t : Nat) (x : Thread) : (s.setT t x).accepted = s.accepted := rfl
@[simp] theorem State.setT_counters (s : State) (t : Nat) (x : Thread) : (s.setT t x).counters = s.counters := rfl
@[simp] theorem State.setT_queues (s : State) (t : Nat) (x : Thread) : (s.setT t x).queues = s.queues := rfl
@[simp] theorem State.setT_cores (s : State) (t : Nat) (x : Thread) : (s.setT t x).cores = s.cores := rfl
@[simp] theorem State.setT_averaged (s : State) (t : Nat) (x : Thread) : (s.setT t x).averaged = s.averaged := rfl
@[simp] theorem State.setT_hbm (s : State) (t : Nat) (x : Thread) : (s.setT t x).hbm = s.hbm := rfl
@[simp] theorem State.setT_hbmErrs (s : State) (t : Nat) (x : Thread) : (s.setT t x).hbmErrs = s.hbmErrs := rfl
@[simp] theorem State.setT_tags (s : State) (t : Nat) (x : Thread) : (s.setT t x).tags = s.tags := rfl
@[simp] theorem State.setT_l2 (s : State) (t : Nat) (x : Thread) : (s.setT t x).l2 = s.l2 := rfl
@[simp] theorem State.setT_mts (s : State) (t : Nat) (x : Thread) : (s.setT t x).mts = s.mts := rfl
@[simp] theorem State.setT_wqs (s : State) (t : Nat) (x : Thread) : (s.setT t x).wqs = s.wqs := rfl
@[simp] theorem State.setT_mslices (s : State) (t : Nat) (x : Thread) : (s.setT t x).mslices = s.mslices := rfl
@[simp] theorem State.setT_hbmStacks (s : State) (t : Nat) (x : Thread) : (s.setT t x).hbmStacks = s.hbmStacks := rfl
@[simp] theorem State.setT_codeHist (s : State) (t : Nat) (x : Thread) : (s.setT t x).codeHist = s.codeHist := rfl
@[simp] theorem State.setT_pool (s : State) (t : Nat) (x : Thread) : (s.setT t x).pool = s.pool := rfl
@[simp] theorem State.setT_dieTlb (s : State) (t : Nat) (x : Thread) : (s.setT t x).dieTlb = s.dieTlb := rfl
@[simp] theorem State.setT_oldTlb (s : State) (t : Nat) (x : Thread) : (s.setT t x).oldTlb = s.oldTlb := rfl
@[simp] theorem State.setT_walkCache (s : State) (t : Nat) (x : Thread) : (s.setT t x).walkCache = s.walkCache := rfl
@[simp] theorem State.setT_walks (s : State) (t : Nat) (x : Thread) : (s.setT t x).walks = s.walks := rfl
@[simp] theorem State.setT_faults (s : State) (t : Nat) (x : Thread) : (s.setT t x).faults = s.faults := rfl
@[simp] theorem State.setT_msgs (s : State) (t : Nat) (x : Thread) : (s.setT t x).msgs = s.msgs := rfl
@[simp] theorem State.setT_loose (s : State) (t : Nat) (x : Thread) : (s.setT t x).loose = s.loose := rfl
@[simp] theorem State.setT_replicas (s : State) (t : Nat) (x : Thread) : (s.setT t x).replicas = s.replicas := rfl
@[simp] theorem State.setT_repMarks (s : State) (t : Nat) (x : Thread) : (s.setT t x).repMarks = s.repMarks := rfl
@[simp] theorem State.setT_peers (s : State) (t : Nat) (x : Thread) : (s.setT t x).peers = s.peers := rfl
@[simp] theorem State.setT_peerOut (s : State) (t : Nat) (x : Thread) : (s.setT t x).peerOut = s.peerOut := rfl
@[simp] theorem State.setT_copies (s : State) (t : Nat) (x : Thread) : (s.setT t x).copies = s.copies := rfl
@[simp] theorem State.setT_tileOps (s : State) (t : Nat) (x : Thread) : (s.setT t x).tileOps = s.tileOps := rfl
@[simp] theorem State.setT_images (s : State) (t : Nat) (x : Thread) : (s.setT t x).images = s.images := rfl
@[simp] theorem State.setT_keys (s : State) (t : Nat) (x : Thread) : (s.setT t x).keys = s.keys := rfl
@[simp] theorem State.setT_chain (s : State) (t : Nat) (x : Thread) : (s.setT t x).chain = s.chain := rfl
@[simp] theorem State.setT_chainHalf (s : State) (t : Nat) (x : Thread) : (s.setT t x).chainHalf = s.chainHalf := rfl
@[simp] theorem State.setT_host (s : State) (t : Nat) (x : Thread) : (s.setT t x).host = s.host := rfl
@[simp] theorem State.setT_porast (s : State) (t : Nat) (x : Thread) : (s.setT t x).porast = s.porast := rfl

/-! ## modT -/

@[simp] theorem State.modT_stepping (s : State) (t : Nat) (f : Thread → Thread) : (s.modT t f).stepping = s.stepping := rfl
@[simp] theorem State.modT_time (s : State) (t : Nat) (f : Thread → Thread) : (s.modT t f).time = s.time := rfl
@[simp] theorem State.modT_t125 (s : State) (t : Nat) (f : Thread → Thread) : (s.modT t f).t125 = s.t125 := rfl
@[simp] theorem State.modT_halfClock (s : State) (t : Nat) (f : Thread → Thread) : (s.modT t f).halfClock = s.halfClock := rfl
@[simp] theorem State.modT_turns (s : State) (t : Nat) (f : Thread → Thread) : (s.modT t f).turns = s.turns := rfl
@[simp] theorem State.modT_free (s : State) (t : Nat) (f : Thread → Thread) : (s.modT t f).free = s.free := rfl
@[simp] theorem State.modT_nextId (s : State) (t : Nat) (f : Thread → Thread) : (s.modT t f).nextId = s.nextId := rfl
@[simp] theorem State.modT_cur (s : State) (t : Nat) (f : Thread → Thread) : (s.modT t f).cur = s.cur := rfl
@[simp] theorem State.modT_threads (s : State) (t : Nat) (f : Thread → Thread) : (s.modT t f).threads = s.threads.modify t f := rfl
@[simp] theorem State.modT_crews (s : State) (t : Nat) (f : Thread → Thread) : (s.modT t f).crews = s.crews := rfl
@[simp] theorem State.modT_gangs (s : State) (t : Nat) (f : Thread → Thread) : (s.modT t f).gangs = s.gangs := rfl
@[simp] theorem State.modT_spans (s : State) (t : Nat) (f : Thread → Thread) : (s.modT t f).spans = s.spans := rfl
@[simp] theorem State.modT_launches (s : State) (t : Nat) (f : Thread → Thread) : (s.modT t f).launches = s.launches := rfl
@[simp] theorem State.modT_accepted (s : State) (t : Nat) (f : Thread → Thread) : (s.modT t f).accepted = s.accepted := rfl
@[simp] theorem State.modT_counters (s : State) (t : Nat) (f : Thread → Thread) : (s.modT t f).counters = s.counters := rfl
@[simp] theorem State.modT_queues (s : State) (t : Nat) (f : Thread → Thread) : (s.modT t f).queues = s.queues := rfl
@[simp] theorem State.modT_cores (s : State) (t : Nat) (f : Thread → Thread) : (s.modT t f).cores = s.cores := rfl
@[simp] theorem State.modT_averaged (s : State) (t : Nat) (f : Thread → Thread) : (s.modT t f).averaged = s.averaged := rfl
@[simp] theorem State.modT_hbm (s : State) (t : Nat) (f : Thread → Thread) : (s.modT t f).hbm = s.hbm := rfl
@[simp] theorem State.modT_hbmErrs (s : State) (t : Nat) (f : Thread → Thread) : (s.modT t f).hbmErrs = s.hbmErrs := rfl
@[simp] theorem State.modT_tags (s : State) (t : Nat) (f : Thread → Thread) : (s.modT t f).tags = s.tags := rfl
@[simp] theorem State.modT_l2 (s : State) (t : Nat) (f : Thread → Thread) : (s.modT t f).l2 = s.l2 := rfl
@[simp] theorem State.modT_mts (s : State) (t : Nat) (f : Thread → Thread) : (s.modT t f).mts = s.mts := rfl
@[simp] theorem State.modT_wqs (s : State) (t : Nat) (f : Thread → Thread) : (s.modT t f).wqs = s.wqs := rfl
@[simp] theorem State.modT_mslices (s : State) (t : Nat) (f : Thread → Thread) : (s.modT t f).mslices = s.mslices := rfl
@[simp] theorem State.modT_hbmStacks (s : State) (t : Nat) (f : Thread → Thread) : (s.modT t f).hbmStacks = s.hbmStacks := rfl
@[simp] theorem State.modT_codeHist (s : State) (t : Nat) (f : Thread → Thread) : (s.modT t f).codeHist = s.codeHist := rfl
@[simp] theorem State.modT_pool (s : State) (t : Nat) (f : Thread → Thread) : (s.modT t f).pool = s.pool := rfl
@[simp] theorem State.modT_dieTlb (s : State) (t : Nat) (f : Thread → Thread) : (s.modT t f).dieTlb = s.dieTlb := rfl
@[simp] theorem State.modT_oldTlb (s : State) (t : Nat) (f : Thread → Thread) : (s.modT t f).oldTlb = s.oldTlb := rfl
@[simp] theorem State.modT_walkCache (s : State) (t : Nat) (f : Thread → Thread) : (s.modT t f).walkCache = s.walkCache := rfl
@[simp] theorem State.modT_walks (s : State) (t : Nat) (f : Thread → Thread) : (s.modT t f).walks = s.walks := rfl
@[simp] theorem State.modT_faults (s : State) (t : Nat) (f : Thread → Thread) : (s.modT t f).faults = s.faults := rfl
@[simp] theorem State.modT_msgs (s : State) (t : Nat) (f : Thread → Thread) : (s.modT t f).msgs = s.msgs := rfl
@[simp] theorem State.modT_loose (s : State) (t : Nat) (f : Thread → Thread) : (s.modT t f).loose = s.loose := rfl
@[simp] theorem State.modT_replicas (s : State) (t : Nat) (f : Thread → Thread) : (s.modT t f).replicas = s.replicas := rfl
@[simp] theorem State.modT_repMarks (s : State) (t : Nat) (f : Thread → Thread) : (s.modT t f).repMarks = s.repMarks := rfl
@[simp] theorem State.modT_peers (s : State) (t : Nat) (f : Thread → Thread) : (s.modT t f).peers = s.peers := rfl
@[simp] theorem State.modT_peerOut (s : State) (t : Nat) (f : Thread → Thread) : (s.modT t f).peerOut = s.peerOut := rfl
@[simp] theorem State.modT_copies (s : State) (t : Nat) (f : Thread → Thread) : (s.modT t f).copies = s.copies := rfl
@[simp] theorem State.modT_tileOps (s : State) (t : Nat) (f : Thread → Thread) : (s.modT t f).tileOps = s.tileOps := rfl
@[simp] theorem State.modT_images (s : State) (t : Nat) (f : Thread → Thread) : (s.modT t f).images = s.images := rfl
@[simp] theorem State.modT_keys (s : State) (t : Nat) (f : Thread → Thread) : (s.modT t f).keys = s.keys := rfl
@[simp] theorem State.modT_chain (s : State) (t : Nat) (f : Thread → Thread) : (s.modT t f).chain = s.chain := rfl
@[simp] theorem State.modT_chainHalf (s : State) (t : Nat) (f : Thread → Thread) : (s.modT t f).chainHalf = s.chainHalf := rfl
@[simp] theorem State.modT_host (s : State) (t : Nat) (f : Thread → Thread) : (s.modT t f).host = s.host := rfl
@[simp] theorem State.modT_porast (s : State) (t : Nat) (f : Thread → Thread) : (s.modT t f).porast = s.porast := rfl

/-! ## modC -/

@[simp] theorem State.modC_stepping (s : State) (c : Nat) (f : Crew → Crew) : (s.modC c f).stepping = s.stepping := rfl
@[simp] theorem State.modC_time (s : State) (c : Nat) (f : Crew → Crew) : (s.modC c f).time = s.time := rfl
@[simp] theorem State.modC_t125 (s : State) (c : Nat) (f : Crew → Crew) : (s.modC c f).t125 = s.t125 := rfl
@[simp] theorem State.modC_halfClock (s : State) (c : Nat) (f : Crew → Crew) : (s.modC c f).halfClock = s.halfClock := rfl
@[simp] theorem State.modC_turns (s : State) (c : Nat) (f : Crew → Crew) : (s.modC c f).turns = s.turns := rfl
@[simp] theorem State.modC_free (s : State) (c : Nat) (f : Crew → Crew) : (s.modC c f).free = s.free := rfl
@[simp] theorem State.modC_nextId (s : State) (c : Nat) (f : Crew → Crew) : (s.modC c f).nextId = s.nextId := rfl
@[simp] theorem State.modC_cur (s : State) (c : Nat) (f : Crew → Crew) : (s.modC c f).cur = s.cur := rfl
@[simp] theorem State.modC_threads (s : State) (c : Nat) (f : Crew → Crew) : (s.modC c f).threads = s.threads := rfl
@[simp] theorem State.modC_crews (s : State) (c : Nat) (f : Crew → Crew) : (s.modC c f).crews = s.crews.modify c f := rfl
@[simp] theorem State.modC_gangs (s : State) (c : Nat) (f : Crew → Crew) : (s.modC c f).gangs = s.gangs := rfl
@[simp] theorem State.modC_spans (s : State) (c : Nat) (f : Crew → Crew) : (s.modC c f).spans = s.spans := rfl
@[simp] theorem State.modC_launches (s : State) (c : Nat) (f : Crew → Crew) : (s.modC c f).launches = s.launches := rfl
@[simp] theorem State.modC_accepted (s : State) (c : Nat) (f : Crew → Crew) : (s.modC c f).accepted = s.accepted := rfl
@[simp] theorem State.modC_counters (s : State) (c : Nat) (f : Crew → Crew) : (s.modC c f).counters = s.counters := rfl
@[simp] theorem State.modC_queues (s : State) (c : Nat) (f : Crew → Crew) : (s.modC c f).queues = s.queues := rfl
@[simp] theorem State.modC_cores (s : State) (c : Nat) (f : Crew → Crew) : (s.modC c f).cores = s.cores := rfl
@[simp] theorem State.modC_averaged (s : State) (c : Nat) (f : Crew → Crew) : (s.modC c f).averaged = s.averaged := rfl
@[simp] theorem State.modC_hbm (s : State) (c : Nat) (f : Crew → Crew) : (s.modC c f).hbm = s.hbm := rfl
@[simp] theorem State.modC_hbmErrs (s : State) (c : Nat) (f : Crew → Crew) : (s.modC c f).hbmErrs = s.hbmErrs := rfl
@[simp] theorem State.modC_tags (s : State) (c : Nat) (f : Crew → Crew) : (s.modC c f).tags = s.tags := rfl
@[simp] theorem State.modC_l2 (s : State) (c : Nat) (f : Crew → Crew) : (s.modC c f).l2 = s.l2 := rfl
@[simp] theorem State.modC_mts (s : State) (c : Nat) (f : Crew → Crew) : (s.modC c f).mts = s.mts := rfl
@[simp] theorem State.modC_wqs (s : State) (c : Nat) (f : Crew → Crew) : (s.modC c f).wqs = s.wqs := rfl
@[simp] theorem State.modC_mslices (s : State) (c : Nat) (f : Crew → Crew) : (s.modC c f).mslices = s.mslices := rfl
@[simp] theorem State.modC_hbmStacks (s : State) (c : Nat) (f : Crew → Crew) : (s.modC c f).hbmStacks = s.hbmStacks := rfl
@[simp] theorem State.modC_codeHist (s : State) (c : Nat) (f : Crew → Crew) : (s.modC c f).codeHist = s.codeHist := rfl
@[simp] theorem State.modC_pool (s : State) (c : Nat) (f : Crew → Crew) : (s.modC c f).pool = s.pool := rfl
@[simp] theorem State.modC_dieTlb (s : State) (c : Nat) (f : Crew → Crew) : (s.modC c f).dieTlb = s.dieTlb := rfl
@[simp] theorem State.modC_oldTlb (s : State) (c : Nat) (f : Crew → Crew) : (s.modC c f).oldTlb = s.oldTlb := rfl
@[simp] theorem State.modC_walkCache (s : State) (c : Nat) (f : Crew → Crew) : (s.modC c f).walkCache = s.walkCache := rfl
@[simp] theorem State.modC_walks (s : State) (c : Nat) (f : Crew → Crew) : (s.modC c f).walks = s.walks := rfl
@[simp] theorem State.modC_faults (s : State) (c : Nat) (f : Crew → Crew) : (s.modC c f).faults = s.faults := rfl
@[simp] theorem State.modC_msgs (s : State) (c : Nat) (f : Crew → Crew) : (s.modC c f).msgs = s.msgs := rfl
@[simp] theorem State.modC_loose (s : State) (c : Nat) (f : Crew → Crew) : (s.modC c f).loose = s.loose := rfl
@[simp] theorem State.modC_replicas (s : State) (c : Nat) (f : Crew → Crew) : (s.modC c f).replicas = s.replicas := rfl
@[simp] theorem State.modC_repMarks (s : State) (c : Nat) (f : Crew → Crew) : (s.modC c f).repMarks = s.repMarks := rfl
@[simp] theorem State.modC_peers (s : State) (c : Nat) (f : Crew → Crew) : (s.modC c f).peers = s.peers := rfl
@[simp] theorem State.modC_peerOut (s : State) (c : Nat) (f : Crew → Crew) : (s.modC c f).peerOut = s.peerOut := rfl
@[simp] theorem State.modC_copies (s : State) (c : Nat) (f : Crew → Crew) : (s.modC c f).copies = s.copies := rfl
@[simp] theorem State.modC_tileOps (s : State) (c : Nat) (f : Crew → Crew) : (s.modC c f).tileOps = s.tileOps := rfl
@[simp] theorem State.modC_images (s : State) (c : Nat) (f : Crew → Crew) : (s.modC c f).images = s.images := rfl
@[simp] theorem State.modC_keys (s : State) (c : Nat) (f : Crew → Crew) : (s.modC c f).keys = s.keys := rfl
@[simp] theorem State.modC_chain (s : State) (c : Nat) (f : Crew → Crew) : (s.modC c f).chain = s.chain := rfl
@[simp] theorem State.modC_chainHalf (s : State) (c : Nat) (f : Crew → Crew) : (s.modC c f).chainHalf = s.chainHalf := rfl
@[simp] theorem State.modC_host (s : State) (c : Nat) (f : Crew → Crew) : (s.modC c f).host = s.host := rfl
@[simp] theorem State.modC_porast (s : State) (c : Nat) (f : Crew → Crew) : (s.modC c f).porast = s.porast := rfl

/-! ## modG -/

@[simp] theorem State.modG_stepping (s : State) (g : Nat) (f : Gang → Gang) : (s.modG g f).stepping = s.stepping := rfl
@[simp] theorem State.modG_time (s : State) (g : Nat) (f : Gang → Gang) : (s.modG g f).time = s.time := rfl
@[simp] theorem State.modG_t125 (s : State) (g : Nat) (f : Gang → Gang) : (s.modG g f).t125 = s.t125 := rfl
@[simp] theorem State.modG_halfClock (s : State) (g : Nat) (f : Gang → Gang) : (s.modG g f).halfClock = s.halfClock := rfl
@[simp] theorem State.modG_turns (s : State) (g : Nat) (f : Gang → Gang) : (s.modG g f).turns = s.turns := rfl
@[simp] theorem State.modG_free (s : State) (g : Nat) (f : Gang → Gang) : (s.modG g f).free = s.free := rfl
@[simp] theorem State.modG_nextId (s : State) (g : Nat) (f : Gang → Gang) : (s.modG g f).nextId = s.nextId := rfl
@[simp] theorem State.modG_cur (s : State) (g : Nat) (f : Gang → Gang) : (s.modG g f).cur = s.cur := rfl
@[simp] theorem State.modG_threads (s : State) (g : Nat) (f : Gang → Gang) : (s.modG g f).threads = s.threads := rfl
@[simp] theorem State.modG_crews (s : State) (g : Nat) (f : Gang → Gang) : (s.modG g f).crews = s.crews := rfl
@[simp] theorem State.modG_gangs (s : State) (g : Nat) (f : Gang → Gang) : (s.modG g f).gangs = s.gangs.modify g f := rfl
@[simp] theorem State.modG_spans (s : State) (g : Nat) (f : Gang → Gang) : (s.modG g f).spans = s.spans := rfl
@[simp] theorem State.modG_launches (s : State) (g : Nat) (f : Gang → Gang) : (s.modG g f).launches = s.launches := rfl
@[simp] theorem State.modG_accepted (s : State) (g : Nat) (f : Gang → Gang) : (s.modG g f).accepted = s.accepted := rfl
@[simp] theorem State.modG_counters (s : State) (g : Nat) (f : Gang → Gang) : (s.modG g f).counters = s.counters := rfl
@[simp] theorem State.modG_queues (s : State) (g : Nat) (f : Gang → Gang) : (s.modG g f).queues = s.queues := rfl
@[simp] theorem State.modG_cores (s : State) (g : Nat) (f : Gang → Gang) : (s.modG g f).cores = s.cores := rfl
@[simp] theorem State.modG_averaged (s : State) (g : Nat) (f : Gang → Gang) : (s.modG g f).averaged = s.averaged := rfl
@[simp] theorem State.modG_hbm (s : State) (g : Nat) (f : Gang → Gang) : (s.modG g f).hbm = s.hbm := rfl
@[simp] theorem State.modG_hbmErrs (s : State) (g : Nat) (f : Gang → Gang) : (s.modG g f).hbmErrs = s.hbmErrs := rfl
@[simp] theorem State.modG_tags (s : State) (g : Nat) (f : Gang → Gang) : (s.modG g f).tags = s.tags := rfl
@[simp] theorem State.modG_l2 (s : State) (g : Nat) (f : Gang → Gang) : (s.modG g f).l2 = s.l2 := rfl
@[simp] theorem State.modG_mts (s : State) (g : Nat) (f : Gang → Gang) : (s.modG g f).mts = s.mts := rfl
@[simp] theorem State.modG_wqs (s : State) (g : Nat) (f : Gang → Gang) : (s.modG g f).wqs = s.wqs := rfl
@[simp] theorem State.modG_mslices (s : State) (g : Nat) (f : Gang → Gang) : (s.modG g f).mslices = s.mslices := rfl
@[simp] theorem State.modG_hbmStacks (s : State) (g : Nat) (f : Gang → Gang) : (s.modG g f).hbmStacks = s.hbmStacks := rfl
@[simp] theorem State.modG_codeHist (s : State) (g : Nat) (f : Gang → Gang) : (s.modG g f).codeHist = s.codeHist := rfl
@[simp] theorem State.modG_pool (s : State) (g : Nat) (f : Gang → Gang) : (s.modG g f).pool = s.pool := rfl
@[simp] theorem State.modG_dieTlb (s : State) (g : Nat) (f : Gang → Gang) : (s.modG g f).dieTlb = s.dieTlb := rfl
@[simp] theorem State.modG_oldTlb (s : State) (g : Nat) (f : Gang → Gang) : (s.modG g f).oldTlb = s.oldTlb := rfl
@[simp] theorem State.modG_walkCache (s : State) (g : Nat) (f : Gang → Gang) : (s.modG g f).walkCache = s.walkCache := rfl
@[simp] theorem State.modG_walks (s : State) (g : Nat) (f : Gang → Gang) : (s.modG g f).walks = s.walks := rfl
@[simp] theorem State.modG_faults (s : State) (g : Nat) (f : Gang → Gang) : (s.modG g f).faults = s.faults := rfl
@[simp] theorem State.modG_msgs (s : State) (g : Nat) (f : Gang → Gang) : (s.modG g f).msgs = s.msgs := rfl
@[simp] theorem State.modG_loose (s : State) (g : Nat) (f : Gang → Gang) : (s.modG g f).loose = s.loose := rfl
@[simp] theorem State.modG_replicas (s : State) (g : Nat) (f : Gang → Gang) : (s.modG g f).replicas = s.replicas := rfl
@[simp] theorem State.modG_repMarks (s : State) (g : Nat) (f : Gang → Gang) : (s.modG g f).repMarks = s.repMarks := rfl
@[simp] theorem State.modG_peers (s : State) (g : Nat) (f : Gang → Gang) : (s.modG g f).peers = s.peers := rfl
@[simp] theorem State.modG_peerOut (s : State) (g : Nat) (f : Gang → Gang) : (s.modG g f).peerOut = s.peerOut := rfl
@[simp] theorem State.modG_copies (s : State) (g : Nat) (f : Gang → Gang) : (s.modG g f).copies = s.copies := rfl
@[simp] theorem State.modG_tileOps (s : State) (g : Nat) (f : Gang → Gang) : (s.modG g f).tileOps = s.tileOps := rfl
@[simp] theorem State.modG_images (s : State) (g : Nat) (f : Gang → Gang) : (s.modG g f).images = s.images := rfl
@[simp] theorem State.modG_keys (s : State) (g : Nat) (f : Gang → Gang) : (s.modG g f).keys = s.keys := rfl
@[simp] theorem State.modG_chain (s : State) (g : Nat) (f : Gang → Gang) : (s.modG g f).chain = s.chain := rfl
@[simp] theorem State.modG_chainHalf (s : State) (g : Nat) (f : Gang → Gang) : (s.modG g f).chainHalf = s.chainHalf := rfl
@[simp] theorem State.modG_host (s : State) (g : Nat) (f : Gang → Gang) : (s.modG g f).host = s.host := rfl
@[simp] theorem State.modG_porast (s : State) (g : Nat) (f : Gang → Gang) : (s.modG g f).porast = s.porast := rfl

/-! ## modS -/

@[simp] theorem State.modS_stepping (s : State) (n : Nat) (f : Span → Span) : (s.modS n f).stepping = s.stepping := rfl
@[simp] theorem State.modS_time (s : State) (n : Nat) (f : Span → Span) : (s.modS n f).time = s.time := rfl
@[simp] theorem State.modS_t125 (s : State) (n : Nat) (f : Span → Span) : (s.modS n f).t125 = s.t125 := rfl
@[simp] theorem State.modS_halfClock (s : State) (n : Nat) (f : Span → Span) : (s.modS n f).halfClock = s.halfClock := rfl
@[simp] theorem State.modS_turns (s : State) (n : Nat) (f : Span → Span) : (s.modS n f).turns = s.turns := rfl
@[simp] theorem State.modS_free (s : State) (n : Nat) (f : Span → Span) : (s.modS n f).free = s.free := rfl
@[simp] theorem State.modS_nextId (s : State) (n : Nat) (f : Span → Span) : (s.modS n f).nextId = s.nextId := rfl
@[simp] theorem State.modS_cur (s : State) (n : Nat) (f : Span → Span) : (s.modS n f).cur = s.cur := rfl
@[simp] theorem State.modS_threads (s : State) (n : Nat) (f : Span → Span) : (s.modS n f).threads = s.threads := rfl
@[simp] theorem State.modS_crews (s : State) (n : Nat) (f : Span → Span) : (s.modS n f).crews = s.crews := rfl
@[simp] theorem State.modS_gangs (s : State) (n : Nat) (f : Span → Span) : (s.modS n f).gangs = s.gangs := rfl
@[simp] theorem State.modS_spans (s : State) (n : Nat) (f : Span → Span) : (s.modS n f).spans = s.spans.modify n f := rfl
@[simp] theorem State.modS_launches (s : State) (n : Nat) (f : Span → Span) : (s.modS n f).launches = s.launches := rfl
@[simp] theorem State.modS_accepted (s : State) (n : Nat) (f : Span → Span) : (s.modS n f).accepted = s.accepted := rfl
@[simp] theorem State.modS_counters (s : State) (n : Nat) (f : Span → Span) : (s.modS n f).counters = s.counters := rfl
@[simp] theorem State.modS_queues (s : State) (n : Nat) (f : Span → Span) : (s.modS n f).queues = s.queues := rfl
@[simp] theorem State.modS_cores (s : State) (n : Nat) (f : Span → Span) : (s.modS n f).cores = s.cores := rfl
@[simp] theorem State.modS_averaged (s : State) (n : Nat) (f : Span → Span) : (s.modS n f).averaged = s.averaged := rfl
@[simp] theorem State.modS_hbm (s : State) (n : Nat) (f : Span → Span) : (s.modS n f).hbm = s.hbm := rfl
@[simp] theorem State.modS_hbmErrs (s : State) (n : Nat) (f : Span → Span) : (s.modS n f).hbmErrs = s.hbmErrs := rfl
@[simp] theorem State.modS_tags (s : State) (n : Nat) (f : Span → Span) : (s.modS n f).tags = s.tags := rfl
@[simp] theorem State.modS_l2 (s : State) (n : Nat) (f : Span → Span) : (s.modS n f).l2 = s.l2 := rfl
@[simp] theorem State.modS_mts (s : State) (n : Nat) (f : Span → Span) : (s.modS n f).mts = s.mts := rfl
@[simp] theorem State.modS_wqs (s : State) (n : Nat) (f : Span → Span) : (s.modS n f).wqs = s.wqs := rfl
@[simp] theorem State.modS_mslices (s : State) (n : Nat) (f : Span → Span) : (s.modS n f).mslices = s.mslices := rfl
@[simp] theorem State.modS_hbmStacks (s : State) (n : Nat) (f : Span → Span) : (s.modS n f).hbmStacks = s.hbmStacks := rfl
@[simp] theorem State.modS_codeHist (s : State) (n : Nat) (f : Span → Span) : (s.modS n f).codeHist = s.codeHist := rfl
@[simp] theorem State.modS_pool (s : State) (n : Nat) (f : Span → Span) : (s.modS n f).pool = s.pool := rfl
@[simp] theorem State.modS_dieTlb (s : State) (n : Nat) (f : Span → Span) : (s.modS n f).dieTlb = s.dieTlb := rfl
@[simp] theorem State.modS_oldTlb (s : State) (n : Nat) (f : Span → Span) : (s.modS n f).oldTlb = s.oldTlb := rfl
@[simp] theorem State.modS_walkCache (s : State) (n : Nat) (f : Span → Span) : (s.modS n f).walkCache = s.walkCache := rfl
@[simp] theorem State.modS_walks (s : State) (n : Nat) (f : Span → Span) : (s.modS n f).walks = s.walks := rfl
@[simp] theorem State.modS_faults (s : State) (n : Nat) (f : Span → Span) : (s.modS n f).faults = s.faults := rfl
@[simp] theorem State.modS_msgs (s : State) (n : Nat) (f : Span → Span) : (s.modS n f).msgs = s.msgs := rfl
@[simp] theorem State.modS_loose (s : State) (n : Nat) (f : Span → Span) : (s.modS n f).loose = s.loose := rfl
@[simp] theorem State.modS_replicas (s : State) (n : Nat) (f : Span → Span) : (s.modS n f).replicas = s.replicas := rfl
@[simp] theorem State.modS_repMarks (s : State) (n : Nat) (f : Span → Span) : (s.modS n f).repMarks = s.repMarks := rfl
@[simp] theorem State.modS_peers (s : State) (n : Nat) (f : Span → Span) : (s.modS n f).peers = s.peers := rfl
@[simp] theorem State.modS_peerOut (s : State) (n : Nat) (f : Span → Span) : (s.modS n f).peerOut = s.peerOut := rfl
@[simp] theorem State.modS_copies (s : State) (n : Nat) (f : Span → Span) : (s.modS n f).copies = s.copies := rfl
@[simp] theorem State.modS_tileOps (s : State) (n : Nat) (f : Span → Span) : (s.modS n f).tileOps = s.tileOps := rfl
@[simp] theorem State.modS_images (s : State) (n : Nat) (f : Span → Span) : (s.modS n f).images = s.images := rfl
@[simp] theorem State.modS_keys (s : State) (n : Nat) (f : Span → Span) : (s.modS n f).keys = s.keys := rfl
@[simp] theorem State.modS_chain (s : State) (n : Nat) (f : Span → Span) : (s.modS n f).chain = s.chain := rfl
@[simp] theorem State.modS_chainHalf (s : State) (n : Nat) (f : Span → Span) : (s.modS n f).chainHalf = s.chainHalf := rfl
@[simp] theorem State.modS_host (s : State) (n : Nat) (f : Span → Span) : (s.modS n f).host = s.host := rfl
@[simp] theorem State.modS_porast (s : State) (n : Nat) (f : Span → Span) : (s.modS n f).porast = s.porast := rfl

/-! ## modL -/

@[simp] theorem State.modL_stepping (s : State) (l : Nat) (f : Launch → Launch) : (s.modL l f).stepping = s.stepping := rfl
@[simp] theorem State.modL_time (s : State) (l : Nat) (f : Launch → Launch) : (s.modL l f).time = s.time := rfl
@[simp] theorem State.modL_t125 (s : State) (l : Nat) (f : Launch → Launch) : (s.modL l f).t125 = s.t125 := rfl
@[simp] theorem State.modL_halfClock (s : State) (l : Nat) (f : Launch → Launch) : (s.modL l f).halfClock = s.halfClock := rfl
@[simp] theorem State.modL_turns (s : State) (l : Nat) (f : Launch → Launch) : (s.modL l f).turns = s.turns := rfl
@[simp] theorem State.modL_free (s : State) (l : Nat) (f : Launch → Launch) : (s.modL l f).free = s.free := rfl
@[simp] theorem State.modL_nextId (s : State) (l : Nat) (f : Launch → Launch) : (s.modL l f).nextId = s.nextId := rfl
@[simp] theorem State.modL_cur (s : State) (l : Nat) (f : Launch → Launch) : (s.modL l f).cur = s.cur := rfl
@[simp] theorem State.modL_threads (s : State) (l : Nat) (f : Launch → Launch) : (s.modL l f).threads = s.threads := rfl
@[simp] theorem State.modL_crews (s : State) (l : Nat) (f : Launch → Launch) : (s.modL l f).crews = s.crews := rfl
@[simp] theorem State.modL_gangs (s : State) (l : Nat) (f : Launch → Launch) : (s.modL l f).gangs = s.gangs := rfl
@[simp] theorem State.modL_spans (s : State) (l : Nat) (f : Launch → Launch) : (s.modL l f).spans = s.spans := rfl
@[simp] theorem State.modL_launches (s : State) (l : Nat) (f : Launch → Launch) : (s.modL l f).launches = s.launches.modify l f := rfl
@[simp] theorem State.modL_accepted (s : State) (l : Nat) (f : Launch → Launch) : (s.modL l f).accepted = s.accepted := rfl
@[simp] theorem State.modL_counters (s : State) (l : Nat) (f : Launch → Launch) : (s.modL l f).counters = s.counters := rfl
@[simp] theorem State.modL_queues (s : State) (l : Nat) (f : Launch → Launch) : (s.modL l f).queues = s.queues := rfl
@[simp] theorem State.modL_cores (s : State) (l : Nat) (f : Launch → Launch) : (s.modL l f).cores = s.cores := rfl
@[simp] theorem State.modL_averaged (s : State) (l : Nat) (f : Launch → Launch) : (s.modL l f).averaged = s.averaged := rfl
@[simp] theorem State.modL_hbm (s : State) (l : Nat) (f : Launch → Launch) : (s.modL l f).hbm = s.hbm := rfl
@[simp] theorem State.modL_hbmErrs (s : State) (l : Nat) (f : Launch → Launch) : (s.modL l f).hbmErrs = s.hbmErrs := rfl
@[simp] theorem State.modL_tags (s : State) (l : Nat) (f : Launch → Launch) : (s.modL l f).tags = s.tags := rfl
@[simp] theorem State.modL_l2 (s : State) (l : Nat) (f : Launch → Launch) : (s.modL l f).l2 = s.l2 := rfl
@[simp] theorem State.modL_mts (s : State) (l : Nat) (f : Launch → Launch) : (s.modL l f).mts = s.mts := rfl
@[simp] theorem State.modL_wqs (s : State) (l : Nat) (f : Launch → Launch) : (s.modL l f).wqs = s.wqs := rfl
@[simp] theorem State.modL_mslices (s : State) (l : Nat) (f : Launch → Launch) : (s.modL l f).mslices = s.mslices := rfl
@[simp] theorem State.modL_hbmStacks (s : State) (l : Nat) (f : Launch → Launch) : (s.modL l f).hbmStacks = s.hbmStacks := rfl
@[simp] theorem State.modL_codeHist (s : State) (l : Nat) (f : Launch → Launch) : (s.modL l f).codeHist = s.codeHist := rfl
@[simp] theorem State.modL_pool (s : State) (l : Nat) (f : Launch → Launch) : (s.modL l f).pool = s.pool := rfl
@[simp] theorem State.modL_dieTlb (s : State) (l : Nat) (f : Launch → Launch) : (s.modL l f).dieTlb = s.dieTlb := rfl
@[simp] theorem State.modL_oldTlb (s : State) (l : Nat) (f : Launch → Launch) : (s.modL l f).oldTlb = s.oldTlb := rfl
@[simp] theorem State.modL_walkCache (s : State) (l : Nat) (f : Launch → Launch) : (s.modL l f).walkCache = s.walkCache := rfl
@[simp] theorem State.modL_walks (s : State) (l : Nat) (f : Launch → Launch) : (s.modL l f).walks = s.walks := rfl
@[simp] theorem State.modL_faults (s : State) (l : Nat) (f : Launch → Launch) : (s.modL l f).faults = s.faults := rfl
@[simp] theorem State.modL_msgs (s : State) (l : Nat) (f : Launch → Launch) : (s.modL l f).msgs = s.msgs := rfl
@[simp] theorem State.modL_loose (s : State) (l : Nat) (f : Launch → Launch) : (s.modL l f).loose = s.loose := rfl
@[simp] theorem State.modL_replicas (s : State) (l : Nat) (f : Launch → Launch) : (s.modL l f).replicas = s.replicas := rfl
@[simp] theorem State.modL_repMarks (s : State) (l : Nat) (f : Launch → Launch) : (s.modL l f).repMarks = s.repMarks := rfl
@[simp] theorem State.modL_peers (s : State) (l : Nat) (f : Launch → Launch) : (s.modL l f).peers = s.peers := rfl
@[simp] theorem State.modL_peerOut (s : State) (l : Nat) (f : Launch → Launch) : (s.modL l f).peerOut = s.peerOut := rfl
@[simp] theorem State.modL_copies (s : State) (l : Nat) (f : Launch → Launch) : (s.modL l f).copies = s.copies := rfl
@[simp] theorem State.modL_tileOps (s : State) (l : Nat) (f : Launch → Launch) : (s.modL l f).tileOps = s.tileOps := rfl
@[simp] theorem State.modL_images (s : State) (l : Nat) (f : Launch → Launch) : (s.modL l f).images = s.images := rfl
@[simp] theorem State.modL_keys (s : State) (l : Nat) (f : Launch → Launch) : (s.modL l f).keys = s.keys := rfl
@[simp] theorem State.modL_chain (s : State) (l : Nat) (f : Launch → Launch) : (s.modL l f).chain = s.chain := rfl
@[simp] theorem State.modL_chainHalf (s : State) (l : Nat) (f : Launch → Launch) : (s.modL l f).chainHalf = s.chainHalf := rfl
@[simp] theorem State.modL_host (s : State) (l : Nat) (f : Launch → Launch) : (s.modL l f).host = s.host := rfl
@[simp] theorem State.modL_porast (s : State) (l : Nat) (f : Launch → Launch) : (s.modL l f).porast = s.porast := rfl

/-! ## setCore -/

@[simp] theorem State.setCore_stepping (s : State) (c : Nat) (f : Core → Core) : (s.setCore c f).stepping = s.stepping := rfl
@[simp] theorem State.setCore_time (s : State) (c : Nat) (f : Core → Core) : (s.setCore c f).time = s.time := rfl
@[simp] theorem State.setCore_t125 (s : State) (c : Nat) (f : Core → Core) : (s.setCore c f).t125 = s.t125 := rfl
@[simp] theorem State.setCore_halfClock (s : State) (c : Nat) (f : Core → Core) : (s.setCore c f).halfClock = s.halfClock := rfl
@[simp] theorem State.setCore_turns (s : State) (c : Nat) (f : Core → Core) : (s.setCore c f).turns = s.turns := rfl
@[simp] theorem State.setCore_free (s : State) (c : Nat) (f : Core → Core) : (s.setCore c f).free = s.free := rfl
@[simp] theorem State.setCore_nextId (s : State) (c : Nat) (f : Core → Core) : (s.setCore c f).nextId = s.nextId := rfl
@[simp] theorem State.setCore_cur (s : State) (c : Nat) (f : Core → Core) : (s.setCore c f).cur = s.cur := rfl
@[simp] theorem State.setCore_threads (s : State) (c : Nat) (f : Core → Core) : (s.setCore c f).threads = s.threads := rfl
@[simp] theorem State.setCore_crews (s : State) (c : Nat) (f : Core → Core) : (s.setCore c f).crews = s.crews := rfl
@[simp] theorem State.setCore_gangs (s : State) (c : Nat) (f : Core → Core) : (s.setCore c f).gangs = s.gangs := rfl
@[simp] theorem State.setCore_spans (s : State) (c : Nat) (f : Core → Core) : (s.setCore c f).spans = s.spans := rfl
@[simp] theorem State.setCore_launches (s : State) (c : Nat) (f : Core → Core) : (s.setCore c f).launches = s.launches := rfl
@[simp] theorem State.setCore_accepted (s : State) (c : Nat) (f : Core → Core) : (s.setCore c f).accepted = s.accepted := rfl
@[simp] theorem State.setCore_counters (s : State) (c : Nat) (f : Core → Core) : (s.setCore c f).counters = s.counters := rfl
@[simp] theorem State.setCore_queues (s : State) (c : Nat) (f : Core → Core) : (s.setCore c f).queues = s.queues := rfl
@[simp] theorem State.setCore_cores (s : State) (c : Nat) (f : Core → Core) : (s.setCore c f).cores = s.cores.set c (f (s.core c)) := rfl
@[simp] theorem State.setCore_averaged (s : State) (c : Nat) (f : Core → Core) : (s.setCore c f).averaged = s.averaged := rfl
@[simp] theorem State.setCore_hbm (s : State) (c : Nat) (f : Core → Core) : (s.setCore c f).hbm = s.hbm := rfl
@[simp] theorem State.setCore_hbmErrs (s : State) (c : Nat) (f : Core → Core) : (s.setCore c f).hbmErrs = s.hbmErrs := rfl
@[simp] theorem State.setCore_tags (s : State) (c : Nat) (f : Core → Core) : (s.setCore c f).tags = s.tags := rfl
@[simp] theorem State.setCore_l2 (s : State) (c : Nat) (f : Core → Core) : (s.setCore c f).l2 = s.l2 := rfl
@[simp] theorem State.setCore_mts (s : State) (c : Nat) (f : Core → Core) : (s.setCore c f).mts = s.mts := rfl
@[simp] theorem State.setCore_wqs (s : State) (c : Nat) (f : Core → Core) : (s.setCore c f).wqs = s.wqs := rfl
@[simp] theorem State.setCore_mslices (s : State) (c : Nat) (f : Core → Core) : (s.setCore c f).mslices = s.mslices := rfl
@[simp] theorem State.setCore_hbmStacks (s : State) (c : Nat) (f : Core → Core) : (s.setCore c f).hbmStacks = s.hbmStacks := rfl
@[simp] theorem State.setCore_codeHist (s : State) (c : Nat) (f : Core → Core) : (s.setCore c f).codeHist = s.codeHist := rfl
@[simp] theorem State.setCore_pool (s : State) (c : Nat) (f : Core → Core) : (s.setCore c f).pool = s.pool := rfl
@[simp] theorem State.setCore_dieTlb (s : State) (c : Nat) (f : Core → Core) : (s.setCore c f).dieTlb = s.dieTlb := rfl
@[simp] theorem State.setCore_oldTlb (s : State) (c : Nat) (f : Core → Core) : (s.setCore c f).oldTlb = s.oldTlb := rfl
@[simp] theorem State.setCore_walkCache (s : State) (c : Nat) (f : Core → Core) : (s.setCore c f).walkCache = s.walkCache := rfl
@[simp] theorem State.setCore_walks (s : State) (c : Nat) (f : Core → Core) : (s.setCore c f).walks = s.walks := rfl
@[simp] theorem State.setCore_faults (s : State) (c : Nat) (f : Core → Core) : (s.setCore c f).faults = s.faults := rfl
@[simp] theorem State.setCore_msgs (s : State) (c : Nat) (f : Core → Core) : (s.setCore c f).msgs = s.msgs := rfl
@[simp] theorem State.setCore_loose (s : State) (c : Nat) (f : Core → Core) : (s.setCore c f).loose = s.loose := rfl
@[simp] theorem State.setCore_replicas (s : State) (c : Nat) (f : Core → Core) : (s.setCore c f).replicas = s.replicas := rfl
@[simp] theorem State.setCore_repMarks (s : State) (c : Nat) (f : Core → Core) : (s.setCore c f).repMarks = s.repMarks := rfl
@[simp] theorem State.setCore_peers (s : State) (c : Nat) (f : Core → Core) : (s.setCore c f).peers = s.peers := rfl
@[simp] theorem State.setCore_peerOut (s : State) (c : Nat) (f : Core → Core) : (s.setCore c f).peerOut = s.peerOut := rfl
@[simp] theorem State.setCore_copies (s : State) (c : Nat) (f : Core → Core) : (s.setCore c f).copies = s.copies := rfl
@[simp] theorem State.setCore_tileOps (s : State) (c : Nat) (f : Core → Core) : (s.setCore c f).tileOps = s.tileOps := rfl
@[simp] theorem State.setCore_images (s : State) (c : Nat) (f : Core → Core) : (s.setCore c f).images = s.images := rfl
@[simp] theorem State.setCore_keys (s : State) (c : Nat) (f : Core → Core) : (s.setCore c f).keys = s.keys := rfl
@[simp] theorem State.setCore_chain (s : State) (c : Nat) (f : Core → Core) : (s.setCore c f).chain = s.chain := rfl
@[simp] theorem State.setCore_chainHalf (s : State) (c : Nat) (f : Core → Core) : (s.setCore c f).chainHalf = s.chainHalf := rfl
@[simp] theorem State.setCore_host (s : State) (c : Nat) (f : Core → Core) : (s.setCore c f).host = s.host := rfl
@[simp] theorem State.setCore_porast (s : State) (c : Nat) (f : Core → Core) : (s.setCore c f).porast = s.porast := rfl

/-! ## setQueue -/

@[simp] theorem State.setQueue_stepping (s : State) (q : Nat) (f : Queue → Queue) : (s.setQueue q f).stepping = s.stepping := rfl
@[simp] theorem State.setQueue_time (s : State) (q : Nat) (f : Queue → Queue) : (s.setQueue q f).time = s.time := rfl
@[simp] theorem State.setQueue_t125 (s : State) (q : Nat) (f : Queue → Queue) : (s.setQueue q f).t125 = s.t125 := rfl
@[simp] theorem State.setQueue_halfClock (s : State) (q : Nat) (f : Queue → Queue) : (s.setQueue q f).halfClock = s.halfClock := rfl
@[simp] theorem State.setQueue_turns (s : State) (q : Nat) (f : Queue → Queue) : (s.setQueue q f).turns = s.turns := rfl
@[simp] theorem State.setQueue_free (s : State) (q : Nat) (f : Queue → Queue) : (s.setQueue q f).free = s.free := rfl
@[simp] theorem State.setQueue_nextId (s : State) (q : Nat) (f : Queue → Queue) : (s.setQueue q f).nextId = s.nextId := rfl
@[simp] theorem State.setQueue_cur (s : State) (q : Nat) (f : Queue → Queue) : (s.setQueue q f).cur = s.cur := rfl
@[simp] theorem State.setQueue_threads (s : State) (q : Nat) (f : Queue → Queue) : (s.setQueue q f).threads = s.threads := rfl
@[simp] theorem State.setQueue_crews (s : State) (q : Nat) (f : Queue → Queue) : (s.setQueue q f).crews = s.crews := rfl
@[simp] theorem State.setQueue_gangs (s : State) (q : Nat) (f : Queue → Queue) : (s.setQueue q f).gangs = s.gangs := rfl
@[simp] theorem State.setQueue_spans (s : State) (q : Nat) (f : Queue → Queue) : (s.setQueue q f).spans = s.spans := rfl
@[simp] theorem State.setQueue_launches (s : State) (q : Nat) (f : Queue → Queue) : (s.setQueue q f).launches = s.launches := rfl
@[simp] theorem State.setQueue_accepted (s : State) (q : Nat) (f : Queue → Queue) : (s.setQueue q f).accepted = s.accepted := rfl
@[simp] theorem State.setQueue_counters (s : State) (q : Nat) (f : Queue → Queue) : (s.setQueue q f).counters = s.counters := rfl
@[simp] theorem State.setQueue_queues (s : State) (q : Nat) (f : Queue → Queue) : (s.setQueue q f).queues = s.queues.set q (f (s.queue q)) := rfl
@[simp] theorem State.setQueue_cores (s : State) (q : Nat) (f : Queue → Queue) : (s.setQueue q f).cores = s.cores := rfl
@[simp] theorem State.setQueue_averaged (s : State) (q : Nat) (f : Queue → Queue) : (s.setQueue q f).averaged = s.averaged := rfl
@[simp] theorem State.setQueue_hbm (s : State) (q : Nat) (f : Queue → Queue) : (s.setQueue q f).hbm = s.hbm := rfl
@[simp] theorem State.setQueue_hbmErrs (s : State) (q : Nat) (f : Queue → Queue) : (s.setQueue q f).hbmErrs = s.hbmErrs := rfl
@[simp] theorem State.setQueue_tags (s : State) (q : Nat) (f : Queue → Queue) : (s.setQueue q f).tags = s.tags := rfl
@[simp] theorem State.setQueue_l2 (s : State) (q : Nat) (f : Queue → Queue) : (s.setQueue q f).l2 = s.l2 := rfl
@[simp] theorem State.setQueue_mts (s : State) (q : Nat) (f : Queue → Queue) : (s.setQueue q f).mts = s.mts := rfl
@[simp] theorem State.setQueue_wqs (s : State) (q : Nat) (f : Queue → Queue) : (s.setQueue q f).wqs = s.wqs := rfl
@[simp] theorem State.setQueue_mslices (s : State) (q : Nat) (f : Queue → Queue) : (s.setQueue q f).mslices = s.mslices := rfl
@[simp] theorem State.setQueue_hbmStacks (s : State) (q : Nat) (f : Queue → Queue) : (s.setQueue q f).hbmStacks = s.hbmStacks := rfl
@[simp] theorem State.setQueue_codeHist (s : State) (q : Nat) (f : Queue → Queue) : (s.setQueue q f).codeHist = s.codeHist := rfl
@[simp] theorem State.setQueue_pool (s : State) (q : Nat) (f : Queue → Queue) : (s.setQueue q f).pool = s.pool := rfl
@[simp] theorem State.setQueue_dieTlb (s : State) (q : Nat) (f : Queue → Queue) : (s.setQueue q f).dieTlb = s.dieTlb := rfl
@[simp] theorem State.setQueue_oldTlb (s : State) (q : Nat) (f : Queue → Queue) : (s.setQueue q f).oldTlb = s.oldTlb := rfl
@[simp] theorem State.setQueue_walkCache (s : State) (q : Nat) (f : Queue → Queue) : (s.setQueue q f).walkCache = s.walkCache := rfl
@[simp] theorem State.setQueue_walks (s : State) (q : Nat) (f : Queue → Queue) : (s.setQueue q f).walks = s.walks := rfl
@[simp] theorem State.setQueue_faults (s : State) (q : Nat) (f : Queue → Queue) : (s.setQueue q f).faults = s.faults := rfl
@[simp] theorem State.setQueue_msgs (s : State) (q : Nat) (f : Queue → Queue) : (s.setQueue q f).msgs = s.msgs := rfl
@[simp] theorem State.setQueue_loose (s : State) (q : Nat) (f : Queue → Queue) : (s.setQueue q f).loose = s.loose := rfl
@[simp] theorem State.setQueue_replicas (s : State) (q : Nat) (f : Queue → Queue) : (s.setQueue q f).replicas = s.replicas := rfl
@[simp] theorem State.setQueue_repMarks (s : State) (q : Nat) (f : Queue → Queue) : (s.setQueue q f).repMarks = s.repMarks := rfl
@[simp] theorem State.setQueue_peers (s : State) (q : Nat) (f : Queue → Queue) : (s.setQueue q f).peers = s.peers := rfl
@[simp] theorem State.setQueue_peerOut (s : State) (q : Nat) (f : Queue → Queue) : (s.setQueue q f).peerOut = s.peerOut := rfl
@[simp] theorem State.setQueue_copies (s : State) (q : Nat) (f : Queue → Queue) : (s.setQueue q f).copies = s.copies := rfl
@[simp] theorem State.setQueue_tileOps (s : State) (q : Nat) (f : Queue → Queue) : (s.setQueue q f).tileOps = s.tileOps := rfl
@[simp] theorem State.setQueue_images (s : State) (q : Nat) (f : Queue → Queue) : (s.setQueue q f).images = s.images := rfl
@[simp] theorem State.setQueue_keys (s : State) (q : Nat) (f : Queue → Queue) : (s.setQueue q f).keys = s.keys := rfl
@[simp] theorem State.setQueue_chain (s : State) (q : Nat) (f : Queue → Queue) : (s.setQueue q f).chain = s.chain := rfl
@[simp] theorem State.setQueue_chainHalf (s : State) (q : Nat) (f : Queue → Queue) : (s.setQueue q f).chainHalf = s.chainHalf := rfl
@[simp] theorem State.setQueue_host (s : State) (q : Nat) (f : Queue → Queue) : (s.setQueue q f).host = s.host := rfl
@[simp] theorem State.setQueue_porast (s : State) (q : Nat) (f : Queue → Queue) : (s.setQueue q f).porast = s.porast := rfl

/-! ## setPorast -/

@[simp] theorem State.setPorast_stepping (s : State) (f : Porast → Porast) : (s.setPorast f).stepping = s.stepping := rfl
@[simp] theorem State.setPorast_time (s : State) (f : Porast → Porast) : (s.setPorast f).time = s.time := rfl
@[simp] theorem State.setPorast_t125 (s : State) (f : Porast → Porast) : (s.setPorast f).t125 = s.t125 := rfl
@[simp] theorem State.setPorast_halfClock (s : State) (f : Porast → Porast) : (s.setPorast f).halfClock = s.halfClock := rfl
@[simp] theorem State.setPorast_turns (s : State) (f : Porast → Porast) : (s.setPorast f).turns = s.turns := rfl
@[simp] theorem State.setPorast_free (s : State) (f : Porast → Porast) : (s.setPorast f).free = s.free := rfl
@[simp] theorem State.setPorast_nextId (s : State) (f : Porast → Porast) : (s.setPorast f).nextId = s.nextId := rfl
@[simp] theorem State.setPorast_cur (s : State) (f : Porast → Porast) : (s.setPorast f).cur = s.cur := rfl
@[simp] theorem State.setPorast_threads (s : State) (f : Porast → Porast) : (s.setPorast f).threads = s.threads := rfl
@[simp] theorem State.setPorast_crews (s : State) (f : Porast → Porast) : (s.setPorast f).crews = s.crews := rfl
@[simp] theorem State.setPorast_gangs (s : State) (f : Porast → Porast) : (s.setPorast f).gangs = s.gangs := rfl
@[simp] theorem State.setPorast_spans (s : State) (f : Porast → Porast) : (s.setPorast f).spans = s.spans := rfl
@[simp] theorem State.setPorast_launches (s : State) (f : Porast → Porast) : (s.setPorast f).launches = s.launches := rfl
@[simp] theorem State.setPorast_accepted (s : State) (f : Porast → Porast) : (s.setPorast f).accepted = s.accepted := rfl
@[simp] theorem State.setPorast_counters (s : State) (f : Porast → Porast) : (s.setPorast f).counters = s.counters := rfl
@[simp] theorem State.setPorast_queues (s : State) (f : Porast → Porast) : (s.setPorast f).queues = s.queues := rfl
@[simp] theorem State.setPorast_cores (s : State) (f : Porast → Porast) : (s.setPorast f).cores = s.cores := rfl
@[simp] theorem State.setPorast_averaged (s : State) (f : Porast → Porast) : (s.setPorast f).averaged = s.averaged := rfl
@[simp] theorem State.setPorast_hbm (s : State) (f : Porast → Porast) : (s.setPorast f).hbm = s.hbm := rfl
@[simp] theorem State.setPorast_hbmErrs (s : State) (f : Porast → Porast) : (s.setPorast f).hbmErrs = s.hbmErrs := rfl
@[simp] theorem State.setPorast_tags (s : State) (f : Porast → Porast) : (s.setPorast f).tags = s.tags := rfl
@[simp] theorem State.setPorast_l2 (s : State) (f : Porast → Porast) : (s.setPorast f).l2 = s.l2 := rfl
@[simp] theorem State.setPorast_mts (s : State) (f : Porast → Porast) : (s.setPorast f).mts = s.mts := rfl
@[simp] theorem State.setPorast_wqs (s : State) (f : Porast → Porast) : (s.setPorast f).wqs = s.wqs := rfl
@[simp] theorem State.setPorast_mslices (s : State) (f : Porast → Porast) : (s.setPorast f).mslices = s.mslices := rfl
@[simp] theorem State.setPorast_hbmStacks (s : State) (f : Porast → Porast) : (s.setPorast f).hbmStacks = s.hbmStacks := rfl
@[simp] theorem State.setPorast_codeHist (s : State) (f : Porast → Porast) : (s.setPorast f).codeHist = s.codeHist := rfl
@[simp] theorem State.setPorast_pool (s : State) (f : Porast → Porast) : (s.setPorast f).pool = s.pool := rfl
@[simp] theorem State.setPorast_dieTlb (s : State) (f : Porast → Porast) : (s.setPorast f).dieTlb = s.dieTlb := rfl
@[simp] theorem State.setPorast_oldTlb (s : State) (f : Porast → Porast) : (s.setPorast f).oldTlb = s.oldTlb := rfl
@[simp] theorem State.setPorast_walkCache (s : State) (f : Porast → Porast) : (s.setPorast f).walkCache = s.walkCache := rfl
@[simp] theorem State.setPorast_walks (s : State) (f : Porast → Porast) : (s.setPorast f).walks = s.walks := rfl
@[simp] theorem State.setPorast_faults (s : State) (f : Porast → Porast) : (s.setPorast f).faults = s.faults := rfl
@[simp] theorem State.setPorast_msgs (s : State) (f : Porast → Porast) : (s.setPorast f).msgs = s.msgs := rfl
@[simp] theorem State.setPorast_loose (s : State) (f : Porast → Porast) : (s.setPorast f).loose = s.loose := rfl
@[simp] theorem State.setPorast_replicas (s : State) (f : Porast → Porast) : (s.setPorast f).replicas = s.replicas := rfl
@[simp] theorem State.setPorast_repMarks (s : State) (f : Porast → Porast) : (s.setPorast f).repMarks = s.repMarks := rfl
@[simp] theorem State.setPorast_peers (s : State) (f : Porast → Porast) : (s.setPorast f).peers = s.peers := rfl
@[simp] theorem State.setPorast_peerOut (s : State) (f : Porast → Porast) : (s.setPorast f).peerOut = s.peerOut := rfl
@[simp] theorem State.setPorast_copies (s : State) (f : Porast → Porast) : (s.setPorast f).copies = s.copies := rfl
@[simp] theorem State.setPorast_tileOps (s : State) (f : Porast → Porast) : (s.setPorast f).tileOps = s.tileOps := rfl
@[simp] theorem State.setPorast_images (s : State) (f : Porast → Porast) : (s.setPorast f).images = s.images := rfl
@[simp] theorem State.setPorast_keys (s : State) (f : Porast → Porast) : (s.setPorast f).keys = s.keys := rfl
@[simp] theorem State.setPorast_chain (s : State) (f : Porast → Porast) : (s.setPorast f).chain = s.chain := rfl
@[simp] theorem State.setPorast_chainHalf (s : State) (f : Porast → Porast) : (s.setPorast f).chainHalf = s.chainHalf := rfl
@[simp] theorem State.setPorast_host (s : State) (f : Porast → Porast) : (s.setPorast f).host = s.host := rfl
@[simp] theorem State.setPorast_porast (s : State) (f : Porast → Porast) : (s.setPorast f).porast = f s.porast := rfl

/-! ## setMsg -/

@[simp] theorem State.setMsg_stepping (s : State) (m : Nat) (p : MsgPhase) : (s.setMsg m p).stepping = s.stepping := rfl
@[simp] theorem State.setMsg_time (s : State) (m : Nat) (p : MsgPhase) : (s.setMsg m p).time = s.time := rfl
@[simp] theorem State.setMsg_t125 (s : State) (m : Nat) (p : MsgPhase) : (s.setMsg m p).t125 = s.t125 := rfl
@[simp] theorem State.setMsg_halfClock (s : State) (m : Nat) (p : MsgPhase) : (s.setMsg m p).halfClock = s.halfClock := rfl
@[simp] theorem State.setMsg_turns (s : State) (m : Nat) (p : MsgPhase) : (s.setMsg m p).turns = s.turns := rfl
@[simp] theorem State.setMsg_free (s : State) (m : Nat) (p : MsgPhase) : (s.setMsg m p).free = s.free := rfl
@[simp] theorem State.setMsg_nextId (s : State) (m : Nat) (p : MsgPhase) : (s.setMsg m p).nextId = s.nextId := rfl
@[simp] theorem State.setMsg_cur (s : State) (m : Nat) (p : MsgPhase) : (s.setMsg m p).cur = s.cur := rfl
@[simp] theorem State.setMsg_threads (s : State) (m : Nat) (p : MsgPhase) : (s.setMsg m p).threads = s.threads := rfl
@[simp] theorem State.setMsg_crews (s : State) (m : Nat) (p : MsgPhase) : (s.setMsg m p).crews = s.crews := rfl
@[simp] theorem State.setMsg_gangs (s : State) (m : Nat) (p : MsgPhase) : (s.setMsg m p).gangs = s.gangs := rfl
@[simp] theorem State.setMsg_spans (s : State) (m : Nat) (p : MsgPhase) : (s.setMsg m p).spans = s.spans := rfl
@[simp] theorem State.setMsg_launches (s : State) (m : Nat) (p : MsgPhase) : (s.setMsg m p).launches = s.launches := rfl
@[simp] theorem State.setMsg_accepted (s : State) (m : Nat) (p : MsgPhase) : (s.setMsg m p).accepted = s.accepted := rfl
@[simp] theorem State.setMsg_counters (s : State) (m : Nat) (p : MsgPhase) : (s.setMsg m p).counters = s.counters := rfl
@[simp] theorem State.setMsg_queues (s : State) (m : Nat) (p : MsgPhase) : (s.setMsg m p).queues = s.queues := rfl
@[simp] theorem State.setMsg_cores (s : State) (m : Nat) (p : MsgPhase) : (s.setMsg m p).cores = s.cores := rfl
@[simp] theorem State.setMsg_averaged (s : State) (m : Nat) (p : MsgPhase) : (s.setMsg m p).averaged = s.averaged := rfl
@[simp] theorem State.setMsg_hbm (s : State) (m : Nat) (p : MsgPhase) : (s.setMsg m p).hbm = s.hbm := rfl
@[simp] theorem State.setMsg_hbmErrs (s : State) (m : Nat) (p : MsgPhase) : (s.setMsg m p).hbmErrs = s.hbmErrs := rfl
@[simp] theorem State.setMsg_tags (s : State) (m : Nat) (p : MsgPhase) : (s.setMsg m p).tags = s.tags := rfl
@[simp] theorem State.setMsg_l2 (s : State) (m : Nat) (p : MsgPhase) : (s.setMsg m p).l2 = s.l2 := rfl
@[simp] theorem State.setMsg_mts (s : State) (m : Nat) (p : MsgPhase) : (s.setMsg m p).mts = s.mts := rfl
@[simp] theorem State.setMsg_wqs (s : State) (m : Nat) (p : MsgPhase) : (s.setMsg m p).wqs = s.wqs := rfl
@[simp] theorem State.setMsg_mslices (s : State) (m : Nat) (p : MsgPhase) : (s.setMsg m p).mslices = s.mslices := rfl
@[simp] theorem State.setMsg_hbmStacks (s : State) (m : Nat) (p : MsgPhase) : (s.setMsg m p).hbmStacks = s.hbmStacks := rfl
@[simp] theorem State.setMsg_codeHist (s : State) (m : Nat) (p : MsgPhase) : (s.setMsg m p).codeHist = s.codeHist := rfl
@[simp] theorem State.setMsg_pool (s : State) (m : Nat) (p : MsgPhase) : (s.setMsg m p).pool = s.pool := rfl
@[simp] theorem State.setMsg_dieTlb (s : State) (m : Nat) (p : MsgPhase) : (s.setMsg m p).dieTlb = s.dieTlb := rfl
@[simp] theorem State.setMsg_oldTlb (s : State) (m : Nat) (p : MsgPhase) : (s.setMsg m p).oldTlb = s.oldTlb := rfl
@[simp] theorem State.setMsg_walkCache (s : State) (m : Nat) (p : MsgPhase) : (s.setMsg m p).walkCache = s.walkCache := rfl
@[simp] theorem State.setMsg_walks (s : State) (m : Nat) (p : MsgPhase) : (s.setMsg m p).walks = s.walks := rfl
@[simp] theorem State.setMsg_faults (s : State) (m : Nat) (p : MsgPhase) : (s.setMsg m p).faults = s.faults := rfl
@[simp] theorem State.setMsg_msgs (s : State) (m : Nat) (p : MsgPhase) : (s.setMsg m p).msgs = s.msgs.modify m fun x => { x with phase := p } := rfl
@[simp] theorem State.setMsg_loose (s : State) (m : Nat) (p : MsgPhase) : (s.setMsg m p).loose = s.loose := rfl
@[simp] theorem State.setMsg_replicas (s : State) (m : Nat) (p : MsgPhase) : (s.setMsg m p).replicas = s.replicas := rfl
@[simp] theorem State.setMsg_repMarks (s : State) (m : Nat) (p : MsgPhase) : (s.setMsg m p).repMarks = s.repMarks := rfl
@[simp] theorem State.setMsg_peers (s : State) (m : Nat) (p : MsgPhase) : (s.setMsg m p).peers = s.peers := rfl
@[simp] theorem State.setMsg_peerOut (s : State) (m : Nat) (p : MsgPhase) : (s.setMsg m p).peerOut = s.peerOut := rfl
@[simp] theorem State.setMsg_copies (s : State) (m : Nat) (p : MsgPhase) : (s.setMsg m p).copies = s.copies := rfl
@[simp] theorem State.setMsg_tileOps (s : State) (m : Nat) (p : MsgPhase) : (s.setMsg m p).tileOps = s.tileOps := rfl
@[simp] theorem State.setMsg_images (s : State) (m : Nat) (p : MsgPhase) : (s.setMsg m p).images = s.images := rfl
@[simp] theorem State.setMsg_keys (s : State) (m : Nat) (p : MsgPhase) : (s.setMsg m p).keys = s.keys := rfl
@[simp] theorem State.setMsg_chain (s : State) (m : Nat) (p : MsgPhase) : (s.setMsg m p).chain = s.chain := rfl
@[simp] theorem State.setMsg_chainHalf (s : State) (m : Nat) (p : MsgPhase) : (s.setMsg m p).chainHalf = s.chainHalf := rfl
@[simp] theorem State.setMsg_host (s : State) (m : Nat) (p : MsgPhase) : (s.setMsg m p).host = s.host := rfl
@[simp] theorem State.setMsg_porast (s : State) (m : Nat) (p : MsgPhase) : (s.setMsg m p).porast = s.porast := rfl

/-! ## interrupt -/

@[simp] theorem State.interrupt_stepping (s : State) (n : Nat) : (s.interrupt n).stepping = s.stepping := rfl
@[simp] theorem State.interrupt_time (s : State) (n : Nat) : (s.interrupt n).time = s.time := rfl
@[simp] theorem State.interrupt_t125 (s : State) (n : Nat) : (s.interrupt n).t125 = s.t125 := rfl
@[simp] theorem State.interrupt_halfClock (s : State) (n : Nat) : (s.interrupt n).halfClock = s.halfClock := rfl
@[simp] theorem State.interrupt_turns (s : State) (n : Nat) : (s.interrupt n).turns = s.turns := rfl
@[simp] theorem State.interrupt_free (s : State) (n : Nat) : (s.interrupt n).free = s.free := rfl
@[simp] theorem State.interrupt_nextId (s : State) (n : Nat) : (s.interrupt n).nextId = s.nextId := rfl
@[simp] theorem State.interrupt_cur (s : State) (n : Nat) : (s.interrupt n).cur = s.cur := rfl
@[simp] theorem State.interrupt_threads (s : State) (n : Nat) : (s.interrupt n).threads = s.threads := rfl
@[simp] theorem State.interrupt_crews (s : State) (n : Nat) : (s.interrupt n).crews = s.crews := rfl
@[simp] theorem State.interrupt_gangs (s : State) (n : Nat) : (s.interrupt n).gangs = s.gangs := rfl
@[simp] theorem State.interrupt_spans (s : State) (n : Nat) : (s.interrupt n).spans = s.spans := rfl
@[simp] theorem State.interrupt_launches (s : State) (n : Nat) : (s.interrupt n).launches = s.launches := rfl
@[simp] theorem State.interrupt_accepted (s : State) (n : Nat) : (s.interrupt n).accepted = s.accepted := rfl
@[simp] theorem State.interrupt_counters (s : State) (n : Nat) : (s.interrupt n).counters = s.counters := rfl
@[simp] theorem State.interrupt_queues (s : State) (n : Nat) : (s.interrupt n).queues = s.queues := rfl
@[simp] theorem State.interrupt_cores (s : State) (n : Nat) : (s.interrupt n).cores = s.cores := rfl
@[simp] theorem State.interrupt_averaged (s : State) (n : Nat) : (s.interrupt n).averaged = s.averaged := rfl
@[simp] theorem State.interrupt_hbm (s : State) (n : Nat) : (s.interrupt n).hbm = s.hbm := rfl
@[simp] theorem State.interrupt_hbmErrs (s : State) (n : Nat) : (s.interrupt n).hbmErrs = s.hbmErrs := rfl
@[simp] theorem State.interrupt_tags (s : State) (n : Nat) : (s.interrupt n).tags = s.tags := rfl
@[simp] theorem State.interrupt_l2 (s : State) (n : Nat) : (s.interrupt n).l2 = s.l2 := rfl
@[simp] theorem State.interrupt_mts (s : State) (n : Nat) : (s.interrupt n).mts = s.mts := rfl
@[simp] theorem State.interrupt_wqs (s : State) (n : Nat) : (s.interrupt n).wqs = s.wqs := rfl
@[simp] theorem State.interrupt_mslices (s : State) (n : Nat) : (s.interrupt n).mslices = s.mslices := rfl
@[simp] theorem State.interrupt_hbmStacks (s : State) (n : Nat) : (s.interrupt n).hbmStacks = s.hbmStacks := rfl
@[simp] theorem State.interrupt_codeHist (s : State) (n : Nat) : (s.interrupt n).codeHist = s.codeHist := rfl
@[simp] theorem State.interrupt_pool (s : State) (n : Nat) : (s.interrupt n).pool = s.pool := rfl
@[simp] theorem State.interrupt_dieTlb (s : State) (n : Nat) : (s.interrupt n).dieTlb = s.dieTlb := rfl
@[simp] theorem State.interrupt_oldTlb (s : State) (n : Nat) : (s.interrupt n).oldTlb = s.oldTlb := rfl
@[simp] theorem State.interrupt_walkCache (s : State) (n : Nat) : (s.interrupt n).walkCache = s.walkCache := rfl
@[simp] theorem State.interrupt_walks (s : State) (n : Nat) : (s.interrupt n).walks = s.walks := rfl
@[simp] theorem State.interrupt_faults (s : State) (n : Nat) : (s.interrupt n).faults = s.faults := rfl
@[simp] theorem State.interrupt_msgs (s : State) (n : Nat) : (s.interrupt n).msgs = s.msgs := rfl
@[simp] theorem State.interrupt_loose (s : State) (n : Nat) : (s.interrupt n).loose = s.loose := rfl
@[simp] theorem State.interrupt_replicas (s : State) (n : Nat) : (s.interrupt n).replicas = s.replicas := rfl
@[simp] theorem State.interrupt_repMarks (s : State) (n : Nat) : (s.interrupt n).repMarks = s.repMarks := rfl
@[simp] theorem State.interrupt_peers (s : State) (n : Nat) : (s.interrupt n).peers = s.peers := rfl
@[simp] theorem State.interrupt_peerOut (s : State) (n : Nat) : (s.interrupt n).peerOut = s.peerOut := rfl
@[simp] theorem State.interrupt_copies (s : State) (n : Nat) : (s.interrupt n).copies = s.copies := rfl
@[simp] theorem State.interrupt_tileOps (s : State) (n : Nat) : (s.interrupt n).tileOps = s.tileOps := rfl
@[simp] theorem State.interrupt_images (s : State) (n : Nat) : (s.interrupt n).images = s.images := rfl
@[simp] theorem State.interrupt_keys (s : State) (n : Nat) : (s.interrupt n).keys = s.keys := rfl
@[simp] theorem State.interrupt_chain (s : State) (n : Nat) : (s.interrupt n).chain = s.chain := rfl
@[simp] theorem State.interrupt_chainHalf (s : State) (n : Nat) : (s.interrupt n).chainHalf = s.chainHalf := rfl
@[simp] theorem State.interrupt_host (s : State) (n : Nat) : (s.interrupt n).host = { s.host with intstat := s.host.intstat ||| BitVec.ofNat 5 (2 ^ n) } := rfl
@[simp] theorem State.interrupt_porast (s : State) (n : Nat) : (s.interrupt n).porast = s.porast := rfl

end Sys2Proof.Machine
end

