-- ==== Sys2Proof/Tests/Slice0.lean ====
section
/-! SUPPORT. Tests: what the well-formedness checks refuse, words written out from the encoding tables, values from the rules'
own examples, and, for every statement with hypotheses, states that meet them. -/

namespace Sys2Proof.Tests

open Sys2Proof Sys2Proof.Machine Sys2Proof.Claim

set_option Elab.async false

/-! ## A small device

One launch of one gang on core 0, one crew, one live thread on home lane 0 before an instruction of 4 bytes at 0x20_0000. -/

/-- The thread's operand cache holds g0 to g8 and g63. -/
def regs : Tab OcEntry :=
  ((List.range 9).map fun n => (n, ⟨⟨BitVec.ofNat 64 n, false⟩, true, false⟩)) ++ [(63, ⟨⟨0x1000000000200010, false⟩, true, false⟩)]

/-- A key of slot 0 that evaluation can compare. -/
def testKey : KeySlot := ⟨true, 0, 1, 2, none, [(1, 2)]⟩
/-- A device with that key, the words of a bundle, changed threads, gang and crew. -/
def dev (f : Thread → Thread) (g : Gang → Gang) (c : Crew → Crew) : State :=
  ((({ State.reset.placeProgram [] with turns := [], keys := [(0, testKey)], cur := ⟨0, 0, [0], 0x200000, 4, 0⟩ }.modT 0 fun x =>
    f { x with oc := regs }).modG 0 g).modC 0 c)

/-- The device as it is. -/
def base : State := dev id id id

/-- Some unprotected bundle does what `R` says. -/
def Meets (R : LaneStep) : Prop := ∃ s s', s.unprotected ∧ Chain R s.bundleThreads s s'

theorem meets {R : LaneStep} {s s1 : State} (hs : s.unprotected) (hb : s.bundleThreads = [0]) (h : R s 0 s1) : Meets R :=
  ⟨s, s1, hs, by rw [hb]; exact ⟨s1, h, rfl⟩⟩

/-- A bundle of home lane 0 alone, in a gang that is not protected. -/
theorem lane0 {s : State} {g : Gang} (hc : s.cur.crew = 0) (hl : s.cur.lanes = [0]) (hg : s.gangs.get? s.cur.gang = some g)
    (hp : g.kernel.protected_ = false) : s.unprotected :=
  ⟨⟨by simp [hc], by simp [hl], by simp [hl]⟩, g, hg, hp⟩

theorem base_unprotected : base.unprotected := lane0 (g := (base.gangs.get? 0).get (by decide +kernel)) rfl rfl (by simp; rfl) (by decide +kernel)
theorem base_bundle : base.bundleThreads = [0] := rfl

/-- A result that is there, read off by evaluation. -/
theorem ok_of {e : Except ε α} {a : α} (h : e.toOption = some a) : e = .ok a := by
  cases e <;> simp_all [Except.toOption]

/-! ## Registers that are written to the operand cache -/

theorem accsOf_setT {s : State} {t : Nat} {x y : Thread} (hx : s.threads.get? t = some x) (h : y.accs = x.accs) :
    (s.setT t y).accsOf t = s.accsOf t := by
  unfold State.accsOf
  simp only [State.setT_threads, State.setT_gangs, Tab.get?_set_self, hx, h]
  split
  · split
    · rename_i h1
      simp only [Bool.and_eq_true, beq_iff_eq] at h1
      rw [Tab.get?_set_ne _ _ (by omega)]
    · rfl
  · rfl

theorem writeRegs_ok (t : Nat) : ∀ (vs : List Val) (r : Nat) (s : State), s.accsOf t = [] →
    ∃ s2, s.writeRegs t r true vs = .ok s2 := by
  intro vs
  induction vs with
  | nil => intro r s _; exact ⟨s, rfl⟩
  | cons v vs ih =>
    intro r s h
    unfold State.writeRegs
    split
    · exact ⟨s, rfl⟩
    · rename_i x hx
      obtain ⟨s2, h2⟩ : ∃ s2, s.writeSlot t (x.wb + r) v true = .ok s2 ∧ s2.accsOf t = [] := by
        simp only [State.writeSlot, hx, h, slotPending, List.any_nil]
        exact ⟨_, rfl, (accsOf_setT hx (by rfl)).trans h⟩
      obtain ⟨s3, h3⟩ := ih (r + 1) s2 h2.2
      exact ⟨s3, by rw [h2.1]; exact h3⟩

/-- A thread whose sources can be read, and that has no access under way, writes what `f` gives. -/
theorem meets_writes {r : Nat} {srcs : State → Nat → List Src}
    {f : State → Nat → Thread → List Val → Option (List Val × (Thread → Thread))} (s : State) (x : Thread) (vs : List Val)
    (hs : s.unprotected) (hb : s.bundleThreads = [0]) (hx : s.threads.get? 0 = some x) (hl : x.live = true)
    (hr : s.readAll 0 (srcs s 0) = .ok vs) (ha : (s.commit 0 (srcs s 0) vs).accsOf 0 = []) (hf : (f s 0 x vs).isSome) :
    Meets (WritesMany r true srcs f) := by
  obtain ⟨e, he⟩ := Option.isSome_iff_exists.mp hf
  obtain ⟨s2, h2⟩ := writeRegs_ok 0 e.1 r (s.commit 0 (srcs s 0) vs) ha
  exact meets hs hb ⟨x, vs, e, s2, ⟨hx, hl, hr⟩, he, h2, rfl⟩

theorem base_writes (d : Dst) (hd : d.k = true) (srcs : List Src) (vs : List Val) (h : (base.readAll 0 srcs).toOption = some vs)
    (ha : (base.commit 0 srcs vs).accsOf 0 = []) (f : State → Nat → Thread → List Val → Val × Byte) : Meets (Writes d srcs f) := by
  unfold Writes
  rw [hd]
  exact meets_writes base _ vs base_unprotected base_bundle rfl rfl (ok_of h) ha rfl

def d4 : Dst := ⟨4, true⟩
/-- g n as the fixture holds it. -/
def gv (n : Nat) : Val := pt (BitVec.ofNat 64 n)

theorem writes1 (f : State → Nat → Thread → List Val → Val × Byte) : Meets (Writes d4 [.oc 2] f) :=
  base_writes d4 rfl _ [gv 2] (by decide +kernel) (by decide +kernel) f
theorem writes2 (f : State → Nat → Thread → List Val → Val × Byte) : Meets (Writes d4 [.oc 2, .last 3] f) :=
  base_writes d4 rfl _ [gv 2, gv 3] (by decide +kernel) (by decide +kernel) f
theorem writes3 (f : State → Nat → Thread → List Val → Val × Byte) : Meets (Writes d4 [.oc 2, .direct 3, .oc 4] f) :=
  base_writes d4 rfl _ [gv 2, gv 3, gv 4] (by decide +kernel) (by decide +kernel) f
theorem writes16 (f : State → Nat → Thread → List Val → Val × Byte) : Meets (Writes (dst16 4) [.oc 4, src16 5] f) :=
  base_writes (dst16 4) rfl _ [gv 4, gv 5] (by decide +kernel) (by decide +kernel) f
theorem writes0 (f : State → Nat → Thread → List Val → Val × Byte) : Meets (Writes d4 [] f) :=
  base_writes d4 rfl _ [] (by decide +kernel) (by decide +kernel) f

/-! ## Other register shapes -/

/-- A device whose thread holds intervals in the same registers. -/
def ivs : State := dev (fun x => { x with oc := regs.map fun e => (e.1, { e.2 with v := ⟨e.2.v.data * 0x100000001, true⟩ }) }) id id
theorem ivs_unprotected : ivs.unprotected :=
  lane0 (g := (ivs.gangs.get? 0).get (by decide +kernel)) rfl rfl (by simp; rfl) (by decide +kernel)

theorem many {r : Nat} {srcs : State → Nat → List Src} {f : State → Nat → Thread → List Val → Option (List Val × (Thread → Thread))}
    (s : State) (x : Thread) (vs : List Val) (hs : s.unprotected) (hb : s.bundleThreads = [0])
    (hx : s.threads.get? 0 = some x) (hl : x.live = true) (hr : (s.readAll 0 (srcs s 0)).toOption = some vs)
    (ha : (s.commit 0 (srcs s 0) vs).accsOf 0 = []) (hf : (f s 0 x vs).isSome) : Meets (WritesMany r true srcs f) :=
  meets_writes s x vs hs hb hx hl (ok_of hr) ha hf

/-- Two and one point operands, and the operands of ffma. -/
theorem points2 (f : FW) (p : Thread → List Nat → FRes) : Meets (Points f d4 [.oc 2, .oc 3] p) := by
  cases f <;> exact many base _ [gv 2, gv 3] base_unprotected rfl rfl rfl (by decide +kernel) (by decide +kernel) rfl
theorem points1 (f : FW) (p : Thread → List Nat → FRes) : Meets (Points f d4 [.oc 2] p) := by
  cases f <;> exact many base _ [gv 2] base_unprotected rfl rfl rfl (by decide +kernel) (by decide +kernel) rfl
theorem points3 (f : FW) (p : Thread → List Nat → FRes) : Meets (Points f d4 [.oc 2, .oc 3, .oc 4] p) := by
  cases f <;> exact many base _ [gv 2, gv 3, gv 4] base_unprotected rfl rfl rfl (by decide +kernel) (by decide +kernel) rfl
theorem points16 (p : Thread → List Nat → FRes) : Meets (Points .f32 (dst16 4) [.oc 4, src16 5] p) :=
  many base _ [gv 4, gv 5] base_unprotected rfl rfl rfl (by decide +kernel) (by decide +kernel) rfl
theorem packed2 (p : PW) (g : Rm → List FP → FRes) : Meets (Packed p d4 [.oc 2, .oc 3] g) :=
  many base _ [gv 2, gv 3] base_unprotected rfl rfl rfl (by decide +kernel) (by decide +kernel) rfl
theorem packed3 (p : PW) (g : Rm → List FP → FRes) : Meets (Packed p d4 [.oc 2, .oc 3, .oc 4] g) :=
  many base _ [gv 2, gv 3, gv 4] base_unprotected rfl rfl rfl (by decide +kernel) (by decide +kernel) rfl
/-- What FromPoint, FromData and FromOpd say that a thread does. -/
def ByPoint (f : FW) (d : Dst) (a : Src) (p : Thread → Nat → Word × Byte) : LaneStep :=
  WritesMany d.reg.val d.k (ivSrcs f [a]) (convOut f a p)
def ByData (d : Dst) (a : Src) (p : Thread → Nat → Word × Byte) : LaneStep :=
  WritesMany d.reg.val d.k (fun _ _ => [a]) (dataOut p)
def ByOpd (f : FW) (d : Dst) (a : Src) (p : Opd → Option Nat) : LaneStep :=
  WritesMany d.reg.val d.k (ivSrcs f [a]) (opdOut f a p)
theorem fromPoint (f : FW) (p : Thread → Nat → Word × Byte) : Meets (ByPoint f d4 (.oc 2) p) := by
  cases f <;> exact many base _ [gv 2] base_unprotected rfl rfl rfl (by decide +kernel) (by decide +kernel) rfl
theorem fromData (p : Thread → Nat → Word × Byte) : Meets (ByData d4 (.oc 2) p) :=
  many base _ [gv 2] base_unprotected rfl rfl rfl (by decide +kernel) (by decide +kernel) rfl

/-- g n as the interval fixture holds it. -/
def iv (n : Nat) : Val := ⟨BitVec.ofNat 64 (n * 0x100000001), true⟩

/-- Interval operands that are neither empty nor NaI, of an operation that gives bounds for them. -/
theorem ivs2 (f : FW) (g : List (Nat × Nat) → Option (Nat × Nat))
    (hg : ∀ b c, g [b, c] ≠ none) : Meets (Intervals f d4 [.oc 2, .oc 4] g) := by
  cases f
  · refine many ivs _ [iv 2, iv 4] ivs_unprotected rfl rfl rfl (by decide +kernel) (by decide +kernel) ?_
    have h : ∀ o : Option (Nat × Nat), o ≠ none → ∀ k : Nat × Nat → List Val × (Thread → Thread), (o.map k).isSome := by
      intro o ho k; cases o <;> simp_all
    exact h _ (hg _ _) _
  · refine many ivs _ [iv 2, iv 3, iv 4, iv 5] ivs_unprotected rfl rfl rfl (by decide +kernel) (by decide +kernel) ?_
    have h : ∀ o : Option (Nat × Nat), o ≠ none → ∀ k : Nat × Nat → List Val × (Thread → Thread), (o.map k).isSome := by
      intro o ho k; cases o <;> simp_all
    exact h _ (hg _ _) _

theorem writesPred0 (p : PReg) (f : State → Nat → Thread → List Val → Pred × Byte) :
    Meets (WritesPred p (fun _ _ => []) fun s t x vs => some (f s t x vs)) :=
  many base _ [] base_unprotected rfl rfl rfl (by decide +kernel) (by decide +kernel) rfl
theorem writesPred2 (p : PReg) (f : State → Nat → Thread → List Val → Pred × Byte) :
    Meets (WritesPred p (fun _ _ => [.oc 2, .oc 3]) fun s t x vs => some (f s t x vs)) :=
  many base _ [gv 2, gv 3] base_unprotected rfl rfl rfl (by decide +kernel) (by decide +kernel) rfl

/-- A thread whose control state is set: it reads sources, and `f` gives its next state. -/
theorem meets_sets {srcs : List Src} {f : State → Nat → Thread → List Val → Option Thread} (s : State) (x y : Thread) (vs : List Val)
    (hs : s.unprotected) (hb : s.bundleThreads = [0]) (hx : s.threads.get? 0 = some x) (hl : x.live = true)
    (hr : (s.readAll 0 srcs).toOption = some vs) (hf : (f s 0 x vs).isSome)
    (hy : (s.commit 0 srcs vs).threads.get? 0 = some y) (hz : (f s 0 y vs).isSome) : Meets (Sets srcs f) := by
  obtain ⟨z, hz⟩ := Option.isSome_iff_exists.mp hz
  exact meets hs hb ⟨x, vs, y, z, ⟨hx, hl, ok_of hr⟩, hf, hy, hz, rfl⟩
theorem sets0 (f : State → Nat → Thread → List Val → Thread) : Meets (Sets [] fun s t x vs => some (f s t x vs)) :=
  meets_sets base _ _ [] base_unprotected rfl rfl rfl (by decide +kernel) rfl rfl rfl
theorem sets1 (f : State → Nat → Thread → List Val → Thread) : Meets (Sets [.oc 2] fun s t x vs => some (f s t x vs)) :=
  meets_sets base _ _ [gv 2] base_unprotected rfl rfl rfl (by decide +kernel) rfl rfl rfl

/-! ## Witnesses: register instructions and control flow -/

/-- Two sources, three with d, the 16-bit forms. -/
theorem witness_IntegerArithmetic (f : State → Nat → Thread → List Val → Val × Byte) :
    Meets (Writes d4 [.oc 2, .last 3] f) ∧ Meets (Writes d4 [.oc 2, .direct 3, .oc 4] f) ∧
    Meets (Writes (dst16 4) [.oc 4, src16 5] f) := ⟨writes2 f, writes3 f, writes16 f⟩

/-- As above, and the shifts by an immediate at the greatest count of each width. -/
theorem witness_LogicShiftsAndLea (f : State → Nat → Thread → List Val → Val × Byte) :
    Meets (Writes d4 [.oc 2, .last 3] f) ∧ Meets (Writes d4 [.oc 2, .direct 3, .oc 4] f) ∧
    Meets (Writes (dst16 4) [.oc 4, src16 5] f) ∧ countFits .w32 31 ∧ countFits .w64 63 ∧ Meets (Writes d4 [.oc 2] f) :=
  ⟨writes2 f, writes3 f, writes16 f, by simp only [countFits]; decide, trivial, writes1 f⟩

theorem witness_FieldsImmediatesAndUnaryForms (f : State → Nat → Thread → List Val → Val × Byte) :
    Meets (Writes d4 [.oc 2, .last 3] f) ∧ Meets (Writes d4 [.oc 2, .direct 3, .oc 4] f) ∧ Meets (Writes d4 [.oc 2] f) ∧
    Meets (Writes d4 [] f) ∧ Meets (Writes (dst16 4) [src16 5] f) :=
  ⟨writes2 f, writes3 f, writes1 f, writes0 f, base_writes (dst16 4) rfl _ [gv 5] (by decide +kernel) (by decide +kernel) f⟩

theorem witness_CompareAndSelect (f : State → Nat → Thread → List Val → Pred × Byte) (g : State → Nat → Thread → List Val → Val × Byte) :
    Meets (WritesPred 1 (fun _ _ => [.oc 2, .oc 3]) fun s t x vs => some (f s t x vs)) ∧ Meets (Writes d4 [.oc 2, .oc 4] g) :=
  ⟨writesPred2 1 f, base_writes d4 rfl _ [gv 2, gv 4] (by decide +kernel) (by decide +kernel) g⟩

/-- p7, which discards writes, among the destinations; the four functions of Kleene's logic. -/
theorem witness_PredicateInstructions (f : State → Nat → Thread → List Val → Pred × Byte) (g : State → Nat → Thread → List Val → Val × Byte)
    (h : List Val → Thread → Thread) :
    (∀ p : PReg, Meets (WritesPred p (fun _ _ => []) fun s t x vs => some (f s t x vs))) ∧ Meets (Writes d4 [] g) ∧
    Meets (WritesMany 0 true (fun _ _ => [.oc 2]) fun _ _ _ vs => some ([], h vs)) :=
  ⟨fun p => writesPred0 p f, writes0 g,
    many base _ [gv 2] base_unprotected rfl rfl rfl (by decide +kernel) (by decide +kernel) rfl⟩

theorem witness_PointArithmetic (f : FW) (p : PW) (g : Thread → List Nat → FRes) (h : Rm → List FP → FRes) :
    Meets (Points f d4 [.oc 2, .oc 3] g) ∧ Meets (Points f d4 [.oc 2, .oc 3, .oc 4] g) ∧ Meets (Points f d4 [.oc 2] g) ∧
    Meets (Points .f32 (dst16 4) [.oc 4, src16 5] g) ∧ Meets (Packed p d4 [.oc 2, .oc 3] h) ∧
    Meets (Packed p d4 [.oc 2, .oc 3, .oc 4] h) :=
  ⟨points2 f g, points3 f g, points1 f g, points16 g, packed2 p h, packed3 p h⟩

theorem ivs1 (f : FW) (g : List (Nat × Nat) → Option (Nat × Nat)) (hg : (g [match f with
    | .f32 => (4, 4) | .f64 => (4 * 0x100000001, 5 * 0x100000001)]).isSome) : Meets (Intervals f d4 [.oc 4] g) := by
  cases f
  · refine many ivs _ [iv 4] ivs_unprotected rfl rfl rfl (by decide +kernel) (by decide +kernel) ?_
    have h : ∀ o : Option (Nat × Nat), o.isSome → ∀ k : Nat × Nat → List Val × (Thread → Thread), (o.map k).isSome := by
      intro o ho k; cases o <;> simp_all
    exact h _ hg _
  · refine many ivs _ [iv 4, iv 5] ivs_unprotected rfl rfl rfl (by decide +kernel) (by decide +kernel) ?_
    have h : ∀ o : Option (Nat × Nat), o.isSome → ∀ k : Nat × Nat → List Val × (Thread → Thread), (o.map k).isSome := by
      intro o ho k; cases o <;> simp_all
    exact h _ hg _

/-- Points; positive intervals, for which every special function has bounds; conversions. -/
theorem witness_SpecialFunctionsAndConversions (f : FW) (p : Thread → List Nat → FRes) (q : Thread → Nat → Word × Byte)
    (g : (Nat × Nat) → Nat × Nat) (o : Opd → Nat) :
    Meets (Points f d4 [.oc 2] p) ∧ Meets (Intervals f d4 [.oc 4] fun l => some (g (bndAt l 0))) ∧
    Meets (Intervals f d4 [.oc 4] fun l => ivDiv f.fmt (oneBits f.fmt, oneBits f.fmt) (bndAt l 0)) ∧
    Meets (Intervals f d4 [.oc 4] fun l => if f.fmt.key (bndAt l 0).2 ≤ 0 then none else some (g (bndAt l 0))) ∧
    Meets (ByPoint f d4 (.oc 2) q) ∧ Meets (ByData d4 (.oc 2) q) ∧ Meets (ByOpd f d4 (.oc 2) fun v => some (o v)) := by
  refine ⟨points1 f p, ivs1 f _ rfl, ivs1 f _ (by cases f <;> decide +kernel), ivs1 f _ (by cases f <;> rfl), fromPoint f q, fromData q, ?_⟩
  cases f <;> exact many base _ [gv 2] base_unprotected rfl rfl rfl (by decide +kernel) (by decide +kernel) rfl

theorem ivs2' (f : FW) (g : List (Nat × Nat) → Option (Nat × Nat)) (hg : (match f with
    | .f32 => g [(2, 2), (4, 4)]
    | .f64 => g [(2 * 0x100000001, 3 * 0x100000001), (4 * 0x100000001, 5 * 0x100000001)]).isSome) :
    Meets (Intervals f d4 [.oc 2, .oc 4] g) := by
  have h : ∀ o : Option (Nat × Nat), o.isSome → ∀ k : Nat × Nat → List Val × (Thread → Thread), (o.map k).isSome := by
    intro o ho k; cases o <;> simp_all
  cases f
  · exact many ivs _ [iv 2, iv 4] ivs_unprotected rfl rfl rfl (by decide +kernel) (by decide +kernel) (h _ hg _)
  · exact many ivs _ [iv 2, iv 3, iv 4, iv 5] ivs_unprotected rfl rfl rfl (by decide +kernel) (by decide +kernel) (h _ hg _)

/-! ## Reading off results -/

def got (o : Option α) (h : o.isSome = true) : α := o.get h
theorem got_eq {o : Option α} (h : o.isSome = true) : o = some (got o h) := (Option.some_get h).symm
def okd (e : Except ε α) (h : e.toOption.isSome = true) : α := e.toOption.get h
theorem okd_eq {e : Except ε α} (h : e.toOption.isSome = true) : e = .ok (okd e h) := ok_of (Option.some_get h).symm

/-- Bounds from two operands; ivmk of points, hull and intersection of intervals, the .e form of an empty intersection; a bound,
the middle and the width of an interval; compares of points and of intervals. -/
theorem witness_IntervalForms (f : FW) (g : List (Nat × Nat) → Nat × Nat) (l : Rel) (p : PReg) :
    Meets (Intervals f d4 [.oc 2, .oc 4] fun l => some (g l)) ∧
    Meets (Intervals f d4 [.oc 2, .oc 4] fun l => ivDiv f.fmt (bndAt l 0) (bndAt l 1)) ∧
    Meets (Intervals f d4 [.oc 4] fun l => if f.fmt.key (bndAt l 0).2 < 0 then none else some (g l)) ∧
    Meets (Intervals .f32 (dst16 4) [.oc 4, src16 5] fun l => some (g l)) ∧
    Meets (Intervals f d4 [.oc 2, .oc 4, .oc 4] fun l => some (g l)) ∧
    (∀ e, Meets (Builds f d4 (.oc 2) (.oc 3) (ivMake f.fmt e))) ∧
    (∀ e, Meets (Builds f d4 (.oc 2) (.oc 4) (ivSet f.fmt e (hullOf f.fmt)))) ∧
    Meets (Builds f d4 (.oc 4) (.oc 4) (ivSet f.fmt false (isectOf f.fmt))) ∧
    Meets (Builds f d4 (.oc 2) (.oc 6) (ivSet f.fmt true (isectOf f.fmt))) ∧
    Meets (ByOpd f d4 (.oc 4) (ivTake f.fmt id (fun lo _ => lo) (some f.fmt.inf))) ∧
    Meets (ByOpd f d4 (.oc 4) (ivTake f.fmt id (midOf f.fmt) none)) ∧
    Meets (WritesPred p (ivSrcs f [.oc 2, .oc 3]) fun _ _ _ vs => fcmpOf f l (.oc 2) (.oc 3) vs) ∧
    Meets (WritesPred p (ivSrcs f [.oc 2, .oc 4]) fun _ _ _ vs => ivinOf f (.oc 2) (.oc 4) vs) := by
  refine ⟨ivs2' f _ (by cases f <;> rfl), ivs2' f _ (by cases f <;> decide +kernel), ivs1 f _ (by cases f <;> rfl),
    many ivs _ [iv 4, iv 5] ivs_unprotected rfl rfl rfl (by decide +kernel) (by decide +kernel) rfl, ?_, ?_, ?_, ?_, ?_, ?_, ?_, ?_, ?_⟩
  · cases f
    · exact many ivs _ [iv 2, iv 4, iv 4] ivs_unprotected rfl rfl rfl (by decide +kernel) (by decide +kernel) rfl
    · exact many ivs _ [iv 2, iv 3, iv 4, iv 5, iv 4, iv 5] ivs_unprotected rfl rfl rfl (by decide +kernel) (by decide +kernel) rfl
  · intro e
    cases f <;> exact many base _ [gv 2, gv 3] base_unprotected rfl rfl rfl (by decide +kernel) (by decide +kernel) (by cases e <;> rfl)
  · intro e
    cases f
    · exact many ivs _ [iv 2, iv 4] ivs_unprotected rfl rfl rfl (by decide +kernel) (by decide +kernel) (by cases e <;> decide +kernel)
    · exact many ivs _ [iv 2, iv 3, iv 4, iv 5] ivs_unprotected rfl rfl rfl (by decide +kernel) (by decide +kernel)
        (by cases e <;> decide +kernel)
  · cases f
    · exact many ivs _ [iv 4, iv 4] ivs_unprotected rfl rfl rfl (by decide +kernel) (by decide +kernel) (by decide +kernel)
    · exact many ivs _ [iv 4, iv 5, iv 4, iv 5] ivs_unprotected rfl rfl rfl (by decide +kernel) (by decide +kernel) (by decide +kernel)
  · cases f
    · exact many ivs _ [iv 2, iv 6] ivs_unprotected rfl rfl rfl (by decide +kernel) (by decide +kernel) (by decide +kernel)
    · exact many ivs _ [iv 2, iv 3, iv 6, iv 7] ivs_unprotected rfl rfl rfl (by decide +kernel) (by decide +kernel) (by decide +kernel)
  · cases f
    · exact many ivs _ [iv 4] ivs_unprotected rfl rfl rfl (by decide +kernel) (by decide +kernel) (by decide +kernel)
    · exact many ivs _ [iv 4, iv 5] ivs_unprotected rfl rfl rfl (by decide +kernel) (by decide +kernel) (by decide +kernel)
  · cases f
    · exact many ivs _ [iv 4] ivs_unprotected rfl rfl rfl (by decide +kernel) (by decide +kernel) (by decide +kernel)
    · exact many ivs _ [iv 4, iv 5] ivs_unprotected rfl rfl rfl (by decide +kernel) (by decide +kernel) (by decide +kernel)
  · cases f <;> exact many base _ [gv 2, gv 3] base_unprotected rfl rfl rfl (by decide +kernel) (by decide +kernel) rfl
  · cases f
    · exact many ivs _ [iv 2, iv 4] ivs_unprotected rfl rfl rfl (by decide +kernel) (by decide +kernel) (by rw [Option.isSome_map]; decide +kernel)
    · exact many ivs _ [iv 2, iv 3, iv 4, iv 5] ivs_unprotected rfl rfl rfl (by decide +kernel) (by decide +kernel) (by rw [Option.isSome_map]; decide +kernel)

/-- Branches taken to the greatest and least offsets and not taken; a target in a k register. -/
theorem witness_BranchesAndJumps :
    (∀ o : Off19, o ∈ [0, 1, BitVec.ofInt 19 (-1), 0x3FFFF#19, 0x40000#19] → Meets (Sets [] fun s t y _ => branchTo o s t y)) ∧
    (∀ o : Off19, Meets (Sets [] fun s t y _ => if senseHit .f (y.pred 7) then branchTo o s t y else some (seq s t y))) ∧
    Meets (Sets [.special (.k 1)] fun s t y vs =>
      if senseHit .t (y.pred 7) = true ∧ (dataAt vs 0).toNat < 2 ^ 57 then some (goesTo s t y (dataAt vs 0 &&& ~~~1)) else none) ∧
    Meets (Sets [] fun s t y _ => if senseHit .f (y.pred 7) then none else some (seq s t y)) ∧
    (leavesSpace (BitVec.ofInt 19 (-2 ^ 18)) { Thread.init 0 0 with pc := 4 } ∧
      leavesSpace 2 { Thread.init 0 0 with pc := 2 ^ 57 - 4 } ∧ ¬leavesSpace 1 { Thread.init 0 0 with pc := 2 ^ 57 - 4 }) := by
  refine ⟨?_, fun o => ?_, ?_, ?_, by unfold leavesSpace; decide +kernel⟩
  · intro o ho
    simp only [List.mem_cons, List.not_mem_nil, or_false] at ho
    rcases ho with rfl | rfl | rfl | rfl | rfl <;>
      exact meets_sets base _ _ [] base_unprotected rfl rfl rfl (by decide +kernel) (by decide +kernel) rfl (by decide +kernel)
  · exact meets_sets base _ _ [] base_unprotected rfl rfl rfl (by decide +kernel) rfl rfl rfl
  · exact meets_sets base _ _ [gv 0] base_unprotected rfl rfl rfl (by decide +kernel) (by decide +kernel) rfl (by decide +kernel)
  · exact meets_sets base _ _ [] base_unprotected rfl rfl rfl (by decide +kernel) rfl rfl rfl

theorem witness_MeetingPoints (i : Imm16) :
    Meets (WritesMany 5 false (fun _ _ => []) fun _ _ x _ =>
      some ([pt x.mt], fun y => { y.latch (pt x.mt) with mt := y.pc + 2 * i.signExtend 64 })) ∧
    Meets (Sets [.oc 2] fun s t y vs => some (seq s t { y with mt := dataAt vs 0 })) :=
  ⟨meets base_unprotected base_bundle ⟨_, [], _, _, ⟨rfl, rfl, rfl⟩, rfl, rfl, rfl⟩, sets1 _⟩

/-- Counts 0 (g0) and 2 (g2). -/
theorem witness_LoopsAndNops (f : State → Nat → Thread → List Val → Thread) :
    Meets (Sets [.oc 0] fun s t x vs => some (f s t x vs)) ∧ Meets (Sets [.oc 2] fun s t x vs => some (f s t x vs)) ∧
    Meets (Sets [] fun s t x vs => some (f s t x vs)) :=
  ⟨meets_sets base _ _ [gv 0] base_unprotected rfl rfl rfl (by decide +kernel) rfl rfl rfl, sets1 f, sets0 f⟩

/-- A thread at the last instruction of a body of 8 bytes, the loop at level 1, with a count. -/
def inLoop (n : U32) : Thread :=
  { Thread.init 0x20_0000 0 with pc := 0x200004, loops := #v[⟨false, 0, 0, 0⟩, ⟨true, n, 0, 3⟩, ⟨false, 0, 0, 0⟩] }

/-- No level at its end; a level that goes round and one that ends; two levels that end together, the inner one last. -/
def nested : Thread := { inLoop 1 with loops := #v[⟨true, 2, 0, 3⟩, ⟨true, 1, 2, 1⟩, ⟨false, 0, 0, 0⟩] }
theorem witness_EndOfBodyStep :
    (∀ k : Fin 3, ¬bodyEnds (inLoop 2) 0x200000 ((inLoop 2).pc.toNat + 2) k) ∧
    (∀ n : U32, n = 1 ∨ n = 2 → bodyEnds (inLoop n) 0x200000 ((inLoop n).pc.toNat + 4) 1 ∧
      (∀ j : Fin 3, bodyEnds (inLoop n) 0x200000 ((inLoop n).pc.toNat + 4) j → j = 1) ∧
      (n = 1 ↔ (inLoop n).loops[(1 : Fin 3)].count = 1)) ∧
    (bodyEnds nested 0x200000 (nested.pc.toNat + 4) 0 ∧ bodyEnds nested 0x200000 (nested.pc.toNat + 4) 1 ∧
      nested.loops[(0 : Fin 3)].first 0x200000 < nested.loops[(1 : Fin 3)].first 0x200000) := by
  unfold bodyEnds
  refine ⟨by decide +kernel, ?_, by decide +kernel⟩
  rintro n (rfl | rfl) <;> decide +kernel

/-- Some unprotected bundle meets the hypotheses under which `Finishes` says that an instruction completes. -/
def Completable (r : Nat) (k : Bool) (srcs : State → Nat → List Src)
    (f : State → Nat → Thread → List Val → Option (List Val × (Thread → Thread))) : Prop :=
  ∃ s : State, s.unprotected ∧ s.bundleThreads = [0] ∧ ∀ m, ∃ x vs e, Reads { s with free := m } 0 (srcs { s with free := m } 0) x vs ∧
    (∀ q, Src.special (.pop q) ∉ srcs { s with free := m } 0) ∧ f { s with free := m } 0 x vs = some e ∧
    ∀ j, j < e.1.length → slotPending (s.accsOf 0) (x.wb + (r + j)) = false ∧ (k = true ∨ s.resident 0 x (x.wb + (r + j)) = true)

theorem completes {r : Nat} {srcs : State → Nat → List Src}
    {f : State → Nat → Thread → List Val → Option (List Val × (Thread → Thread))} (s : State) (l : List Src) (vs : List Val)
    (hs : s.unprotected) (x : Thread) (hb : s.bundleThreads = [0]) (ha : s.accsOf 0 = [])
    (hx : s.threads.get? 0 = some x) (hv : x.live = true) (hr : ∀ m, ({ s with free := m } : State).readAll 0 l = .ok vs)
    (hl : ∀ m, srcs { s with free := m } 0 = l) (hq : ∀ q, Src.special (.pop q) ∉ l) (hf : ∀ m, (f { s with free := m } 0 x vs).isSome) :
    Completable r true srcs f := by
  refine ⟨s, hs, hb, fun m => ?_⟩
  obtain ⟨e, he⟩ := Option.isSome_iff_exists.mp (hf m)
  refine ⟨x, vs, e, ⟨hx, hv, ?_⟩, ?_, he, fun j _ => ⟨by rw [ha]; rfl, .inl rfl⟩⟩
  · rw [hl]; exact hr m
  · rw [hl]; exact hq

theorem pointCompletes {r : Nat} {srcs : State → Nat → List Src}
    {f : State → Nat → Thread → List Val → Option (List Val × (Thread → Thread))} (hl : ∀ m, srcs { base with free := m } 0 = [.oc 2])
    (x : Thread) (hx : base.threads.get? 0 = some x) (hf : ∀ m, (f { base with free := m } 0 x [gv 2]).isSome) (hv : x.live = true) :
    Completable r true srcs f :=
  completes base [.oc 2] [gv 2] base_unprotected x rfl (by decide +kernel) hx hv (fun _ => rfl) hl (by simp) hf
theorem intervalCompletes (f : FW) (g : List (Nat × Nat) → Option (Nat × Nat)) (hg : (g [match f with
    | .f32 => (4, 4) | .f64 => (4 * 0x100000001, 5 * 0x100000001)]).isSome) :
    Completable d4.reg.val d4.k (ivSrcs f [.oc 4]) (intervalOut f d4 [.oc 4] g) := by
  have h : ∀ o : Option (Nat × Nat), o.isSome → ∀ k : Nat × Nat → List Val × (Thread → Thread), (o.map k).isSome := by
    intro o ho k; cases o <;> simp_all
  cases f
  · exact completes ivs [.oc 4] [iv 4] ivs_unprotected _ rfl (by decide +kernel) rfl rfl (fun _ => rfl) (fun _ => rfl) (by simp) fun _ => h _ hg _
  · exact completes ivs [.oc 4, .oc 5] [iv 4, iv 5] ivs_unprotected _ rfl (by decide +kernel) rfl rfl (fun _ => rfl) (fun _ => rfl) (by simp)
      fun _ => h _ hg _

/-- One operand: a point, a datum, a positive interval. -/
theorem witness_FloatFormsComplete (f : FW) (p : Thread → List Nat → FRes) (q : Thread → Nat → Word × Byte) (o : Opd → Nat)
    (g : Nat × Nat → Nat × Nat) :
    Completable d4.reg.val d4.k (ivSrcs f [.oc 2]) (pointOut f [.oc 2] p) ∧
    Completable d4.reg.val d4.k (ivSrcs f [.oc 4]) (intervalOut f d4 [.oc 4] fun l => some (g (bndAt l 0))) ∧
    Completable d4.reg.val d4.k (ivSrcs f [.oc 4]) (intervalOut f d4 [.oc 4] fun l => ivDiv f.fmt (oneBits f.fmt, oneBits f.fmt) (bndAt l 0)) ∧
    Completable d4.reg.val d4.k (ivSrcs f [.oc 4]) (intervalOut f d4 [.oc 4] fun l =>
      if f.fmt.key (bndAt l 0).2 ≤ 0 then none else some (g (bndAt l 0))) ∧
    Completable d4.reg.val d4.k (ivSrcs f [.oc 2]) (convOut f (.oc 2) q) ∧
    Completable d4.reg.val d4.k (fun _ _ => [.oc 2]) (dataOut q) ∧
    Completable d4.reg.val d4.k (ivSrcs f [.oc 2]) (opdOut f (.oc 2) fun v => some (o v)) ∧
    Completable d4.reg.val d4.k (ivSrcs f [.oc 4]) (opdOut f (.oc 4) (ivTake f.fmt id (midOf f.fmt) none)) := by
  refine ⟨?_, intervalCompletes f _ rfl, intervalCompletes f _ (by cases f <;> decide +kernel), intervalCompletes f _ (by cases f <;> rfl),
    ?_, ?_, ?_, ?_⟩
  · cases f <;> exact pointCompletes (fun _ => rfl) _ rfl (fun _ => rfl) rfl
  · cases f <;> exact pointCompletes (fun _ => rfl) _ rfl (fun _ => rfl) rfl
  · exact pointCompletes (fun _ => rfl) _ rfl (fun _ => rfl) rfl
  · cases f <;> exact pointCompletes (fun _ => rfl) _ rfl (fun _ => rfl) rfl
  · cases f
    · exact completes ivs [.oc 4] [iv 4] ivs_unprotected _ rfl (by decide +kernel) rfl rfl (fun _ => rfl) (fun _ => rfl) (by simp)
        fun _ => (by decide +kernel : (opdOut .f32 (.oc 4) (ivTake FW.f32.fmt id (midOf FW.f32.fmt) none) ivs 0 (Thread.init 0 0) [iv 4]).isSome)
    · exact completes ivs [.oc 4, .oc 5] [iv 4, iv 5] ivs_unprotected _ rfl (by decide +kernel) rfl rfl (fun _ => rfl) (fun _ => rfl) (by simp)
        fun _ => (by decide +kernel : (opdOut .f64 (.oc 4) (ivTake FW.f64.fmt id (midOf FW.f64.fmt) none) ivs 0 (Thread.init 0 0) [iv 4, iv 5]).isSome)

/-! ## Witnesses: calls, traps, system registers -/

/-- The bundle of a state is home lane 0 of crew 0 of gang 0, which is not protected. -/
def atLane0 (s : State) : Bool :=
  s.cur.gang == 0 && s.cur.crew == 0 && s.cur.lanes == [0] && (s.gangs.get? 0).any fun g => !g.kernel.protected_
theorem atLane0_spec {s : State} (h : atLane0 s = true) : s.unprotected ∧ s.bundleThreads = [0] ∧ s.curCrew = 0 := by
  simp only [atLane0, Bool.and_eq_true, beq_iff_eq] at h
  obtain ⟨x, hx, hp⟩ := (Option.any_eq_true _ _).mp h.2
  have hp : x.kernel.protected_ = false := by simpa using hp
  exact ⟨lane0 (g := x) h.1.1.2 h.1.2 (by rw [h.1.1.1]; exact hx) hp,
    by rw [State.bundleThreads, h.1.1.1, h.1.1.2, h.1.2]; decide, by rw [State.curCrew, h.1.1.1, h.1.1.2]; decide⟩

/-- An instruction gives a state. -/
def gives (i : Instr) (s s1 : State) : Bool := match exec i s with | .next t => decide (t = s1) | _ => false
theorem gives_iff {i : Instr} {s s1 : State} (h : gives i s s1 = true) : exec i s = .next s1 := by
  unfold gives at h; split at h <;> simp_all

/-- Some unprotected bundle does what `R` says, and the instruction gives the state that it leaves; so for a due crew. -/
def Runs (i : Instr) (R : LaneStep) : Prop := ∃ s s', s.unprotected ∧ Chain R s.bundleThreads s s' ∧ exec i s = .next s'
def RunsCrew (i : Instr) (R : LaneStep) : Prop :=
  ∃ s s', s.unprotected ∧ s.crewDue s.curCrew = true ∧ R s s.curCrew s' ∧ exec i s = .next s'

theorem runs {R : LaneStep} (i : Instr) (s s1 : State) (hs : atLane0 s = true) (h : R s 0 s1) (hi : gives i s s1 = true) : Runs i R :=
  ⟨s, s1, (atLane0_spec hs).1, by rw [(atLane0_spec hs).2.1]; exact ⟨s1, h, rfl⟩, gives_iff hi⟩
theorem crew {R : LaneStep} (i : Instr) (s s1 : State) (hs : (atLane0 s && s.crewDue 0) = true) (h : R s 0 s1)
    (hi : gives i s s1 = true) : RunsCrew i R := by
  simp only [Bool.and_eq_true] at hs
  have hk := (atLane0_spec hs.1).2.2
  exact ⟨s, s1, (atLane0_spec hs.1).1, by rw [hk]; exact hs.2, by rw [hk]; exact h, gives_iff hi⟩

/-- The same without the instruction, for a step whose state holds free values. -/
def MeetsCrew (R : LaneStep) : Prop := ∃ s s', s.unprotected ∧ s.crewDue s.curCrew = true ∧ R s s.curCrew s'
theorem meetsCrew {R : LaneStep} (s s1 : State) (hs : (atLane0 s && s.crewDue 0) = true) (h : R s 0 s1) : MeetsCrew R := by
  simp only [Bool.and_eq_true] at hs
  have hk := (atLane0_spec hs.1).2.2
  exact ⟨s, s1, (atLane0_spec hs.1).1, by rw [hk]; exact hs.2, by rw [hk]; exact h⟩

/-- The hypotheses of `Traps` hold on some bundle, and the instruction leaves what `Traps` says there. -/
def TrapsHere (i : Instr) (srcs : List Src) (p : State → Nat → Thread → List Val → Prop) (c : Byte)
    (v : State → Nat → Thread → List Val → Word) : Prop := ∃ (s : State) (x : Nat → Thread) (vs : Nat → List Val), s.unprotected ∧
  (∀ t ∈ s.bundleThreads, Reads s t srcs (x t) (vs t) ∧ p s t (x t) (vs t)) ∧
  exec i s = .next (takeAll s c (s.bundleThreads.map fun t => (t, v s t (x t) (vs t))))
theorem trapsHere {i : Instr} {srcs : List Src} {p : State → Nat → Thread → List Val → Prop} {c : Byte}
    {v : State → Nat → Thread → List Val → Word} (s : State) (x : Thread) (vs : List Val) (hs : atLane0 s = true)
    (hx : s.threads.get? 0 = some x) (hl : x.live = true) (hr : s.readAll 0 srcs = .ok vs) (hp : p s 0 x vs)
    (hi : gives i s (takeAll s c [(0, v s 0 x vs)]) = true) : TrapsHere i srcs p c v :=
  ⟨s, fun _ => x, fun _ => vs, (atLane0_spec hs).1, by rw [(atLane0_spec hs).2.1]; simpa using ⟨⟨hx, hl, hr⟩, hp⟩,
    by rw [(atLane0_spec hs).2.1]; exact gives_iff hi⟩

/-- The line of PA 0, which takes thread 0's trap record too, stands in its slice. -/
def inL2 (s : State) : State := { s with l2 := [(0, ⟨State.reset.belowLine 0 0, 0, 0, 0, none, .none, false, false, false⟩)] }
def lined : State := inL2 base

/-- A window at 8 with a link in g63; a handler; a thread in its handler. -/
def called (x : Thread) : Thread := { x with wb := 8, oc := [(71, ⟨⟨0x1000000000200010, false⟩, true, false⟩)] }
def handler (x : Thread) : Thread := { x with xvec := 8 }
/-- A crew of two live threads. -/
def two : State := { base with threads := base.threads.set 1 (Thread.init 0x20_0000 0) }
def handling (x : Thread) : Thread := { x with xvec := 8, xdepth := true, wb := 64, xpc := 0x200004 }

/-- The greatest slide that a call of a 192-entry stack has room for; a return. -/
theorem witness_CallAndReturn : Runs (.call 0x3FFFF 7) (Calls 0x3FFFF 7) ∧ Runs .ret Rets ∧
    TrapsHere (.call 0 7) [] (fun s t x _ => s.stackN t < x.wb + 8 * (7 : N8).val + 64) 0x22 (fun _ _ x _ =>
      BitVec.ofNat 64 ((x.wb + 8 * (7 : N8).val) % 2 ^ 32 * 2 ^ 32 + 1)) ∧
    ∃ s x vs, s.unprotected ∧ s.bundleThreads = [0] ∧ Reads s 0 [.oc 63] x vs ∧
      x.wb < 8 * ((dataAt vs 0).extractLsb' 60 3).toNat ∧ exec .ret s = .next (takeAll s 0x22 [(0, 0xFFFFFFF800000002)]) :=
  ⟨runs _ base _ (by decide +kernel) ⟨_, _, _, got_eq (by decide +kernel), by decide +kernel, by decide +kernel,
    Prod.ext rfl (by decide +kernel), okd_eq (by decide +kernel), rfl⟩ (by decide +kernel),
  runs _ (dev called id id) _ (by decide +kernel) ⟨_, _, ⟨got_eq (by decide +kernel), by decide +kernel, okd_eq (by decide +kernel)⟩,
    by decide +kernel, by decide +kernel, by decide +kernel, by decide +kernel, by decide +kernel, Prod.ext rfl (by decide +kernel)⟩
    (by decide +kernel),
  trapsHere (inL2 (dev (fun x => { x with wb := 80 }) id id)) _ _ (by decide +kernel) (got_eq (by decide +kernel))
    (by decide +kernel) (okd_eq (by decide +kernel)) (by decide +kernel) (by decide +kernel),
  ⟨lined, _, _, (atLane0_spec (by decide +kernel)).1, (atLane0_spec (by decide +kernel)).2.1,
    ⟨got_eq (by decide +kernel), by decide +kernel, okd_eq (by decide +kernel)⟩, by decide +kernel, gives_iff (by decide +kernel)⟩⟩

theorem witness_OperandCacheControl :
    Runs .ocflush Flushes ∧ Runs (.ockeep 63 true) (Keeps 63) ∧ Runs (.ockeep 63 false) (Unkeeps 63) :=
  ⟨runs _ base _ (by decide +kernel) ⟨_, _, got_eq (by decide +kernel), by decide +kernel, okd_eq (by decide +kernel), rfl⟩
    (by decide +kernel),
  runs _ base _ (by decide +kernel) ⟨_, _, ⟨got_eq (by decide +kernel), by decide +kernel, okd_eq (by decide +kernel)⟩, rfl⟩
    (by decide +kernel),
  runs _ base _ (by decide +kernel) ⟨_, got_eq (by decide +kernel), by decide +kernel, rfl⟩ (by decide +kernel)⟩

/-- A live thread of a crew of two ends; the last thread of a gang ends. -/
theorem witness_ThreadExit : Runs .exit Exits ∧ (∃ s s', s.unprotected ∧ Exits s 0 s' ∧ exec .exit s = .next s' ∧ s.threads.length = 2) :=
  ⟨runs _ base _ (by decide +kernel) ⟨_, got_eq (by decide +kernel), by decide +kernel, by decide +kernel, rfl⟩ (by decide +kernel),
  two, _, (atLane0_spec (by decide +kernel)).1, ⟨_, got_eq (by decide +kernel), by decide +kernel, by decide +kernel, rfl⟩,
    gives_iff (by decide +kernel), rfl⟩

/-- Branches out of the address space from PC 4, by offset and by k1 = 2^57. -/
def lowDev : State := inL2 (dev (fun x => { x with pc := 4 }) id fun c => { c with k := c.k.set 1 0x200000000000000 })
theorem witness_BranchesOutside :
    TrapsHere (.bra (BitVec.ofInt 19 (-3)) .f 1) [] (fun _ _ y _ => senseHit .f (y.pred 1) = true ∧ leavesSpace (BitVec.ofInt 19 (-3)) y)
      0x08 (fun _ _ y _ => y.pc + 2 * (BitVec.ofInt 19 (-3)).signExtend 64) ∧
    TrapsHere (.jmp (BitVec.ofInt 19 (-3))) [] (fun _ _ y _ => leavesSpace (BitVec.ofInt 19 (-3)) y) 0x08
      (fun _ _ y _ => y.pc + 2 * (BitVec.ofInt 19 (-3)).signExtend 64) ∧
    TrapsHere (.jmpk 7 .t 1) [.special (.k 1)] (fun _ _ y vs => senseHit .t (y.pred 7) = true ∧ 2 ^ 57 ≤ (dataAt vs 0).toNat) 0x08
      (fun _ _ _ vs => dataAt vs 0) := by
  unfold leavesSpace
  refine ⟨trapsHere lowDev _ _ ?_ (got_eq (by decide +kernel)) ?_ (okd_eq (by decide +kernel)) ?_ ?_,
    trapsHere lowDev _ _ ?_ (got_eq (by decide +kernel)) ?_ (okd_eq (by decide +kernel)) ?_ ?_,
    trapsHere lowDev _ _ ?_ (got_eq (by decide +kernel)) ?_ (okd_eq (by decide +kernel)) ?_ ?_⟩ <;> decide +kernel

/-- Both traps; a thread with a handler, one without, one in its handler; a data trigger; a return, and one outside a handler. -/
theorem witness_TrapsAndReturns :
    TrapsHere .brk [] (fun _ _ _ _ => True) 0x28 (fun _ _ _ _ => 0) ∧
    TrapsHere (.trap (.oc 3)) [.oc 3] (fun _ _ _ _ => True) 0x29 (fun _ _ _ vs => dataAt vs 0) ∧
    (∃ s x s1, s.threads.get? 0 = some x ∧ Handled s 0 x 0x28 5 x.pc s1 ∧ decide (s.trapT 0 0x28 5 none = s1) = true) ∧
    (∃ s x s1, s.threads.get? 0 = some x ∧ Unhandled s 0 x 0x28 5 s1 ∧ decide (s.trapT 0 0x28 5 none = s1) = true) ∧
    (∃ s x s1, s.threads.get? 0 = some x ∧ x.xdepth = true ∧ Unhandled s 0 x 0x29 5 s1 ∧ decide (s.trapT 0 0x29 5 none = s1) = true) ∧
    (∃ (s : State) (x : Thread) (g : Gang), s.threads.get? 0 = some x ∧ s.gangs.get? (gangOf 0) = some g ∧ x.xvec ≠ 0 ∧
      decide (s.trapT 0 0x31 5 none = (s.recordTrap g 0 5 0x31).contain g.slot 0x31 g.detail false) = true) ∧
    Runs .tret ReturnsFromTrap ∧
    TrapsHere .tret [] (fun _ _ x _ => x.xdepth = false) 0x01 (fun s _ _ _ => s.cur.word) :=
  ⟨trapsHere (inL2 (dev handler id id)) _ _ (by decide +kernel) (got_eq (by decide +kernel)) (by decide +kernel) (okd_eq (by decide +kernel))
    trivial (by decide +kernel),
  trapsHere lined _ _ (by decide +kernel) (got_eq (by decide +kernel)) (by decide +kernel) (okd_eq (by decide +kernel))
    trivial (by decide +kernel),
  ⟨inL2 (dev handler id id), _, _, got_eq (by decide +kernel), ⟨_, got_eq (by decide +kernel), by decide +kernel, by decide +kernel,
    by decide +kernel, rfl⟩, by decide +kernel⟩,
  ⟨lined, _, _, got_eq (by decide +kernel), ⟨_, got_eq (by decide +kernel), by decide +kernel, rfl⟩, by decide +kernel⟩,
  ⟨inL2 (dev handling id id), _, _, got_eq (by decide +kernel), by decide +kernel, ⟨_, got_eq (by decide +kernel), by decide +kernel, rfl⟩,
    by decide +kernel⟩,
  ⟨inL2 (dev handler id id), _, _, got_eq (by decide +kernel), got_eq (by decide +kernel), by decide +kernel, by decide +kernel⟩,
  runs _ (dev handling id id) _ (by decide +kernel) ⟨_, got_eq (by decide +kernel), by decide +kernel, by decide +kernel, rfl⟩
    (by decide +kernel),
  trapsHere lined _ _ (by decide +kernel) (got_eq (by decide +kernel)) (by decide +kernel) (okd_eq (by decide +kernel))
    (by decide +kernel) (by decide +kernel)⟩

/-- The clause over the registers' values holds its hypotheses in the small device. -/
theorem witness_SystemRegisters (f : Val) (h : State → Nat → Thread → List Val → Thread) :
    Meets (WritesMany 4 true (fun _ _ => []) fun _ _ _ _ => some ([f], id)) ∧ Meets (Sets [.oc 2] fun s t y vs => some (h s t y vs)) ∧
    (∃ x g, base.threads.get? 0 = some x ∧ base.gangs.get? (gangOf 0) = some g ∧ g.kernel.protected_ = false ∧ x.xvec.toNat < 2 ^ 32) :=
  ⟨many base _ [] base_unprotected rfl rfl rfl (by decide +kernel) (by decide +kernel) rfl, sets1 h,
    ⟨_, _, got_eq (by decide +kernel), got_eq (by decide +kernel), by decide +kernel, by decide +kernel⟩⟩

/-! ## Witnesses: loads, stores, atomics -/

/-- Virtual addresses 0 to 2 MiB - 1 lie in the peer window. -/
def peerDev : State := base.setCore 0 fun c => { c with tlb := [⟨0, 0, 21, 0xB + 2 ^ 51⟩] }

/-- Every form at the greatest immediate, ld.iv, and loads from the peer window. -/
theorem witness_LoadsIssue :
    Runs (.ldN8 d4 (.oc 0) 255) (Issues .zx 1 1 d4 (.oc 0) 255) ∧ Runs (.ldS8 d4 (.oc 0) 0) (Issues .sx 1 1 d4 (.oc 0) 0) ∧
    Runs (.ldN16 d4 (.oc 0) 255) (Issues .zx 2 2 d4 (.oc 0) 255) ∧ Runs (.ldS16 d4 (.oc 0) 1) (Issues .sx 2 2 d4 (.oc 0) 1) ∧
    Runs (.ldN32 d4 (.oc 0) 255) (Issues .zx 4 4 d4 (.oc 0) 255) ∧ Runs (.ldS32 d4 (.oc 0) 1) (Issues .sx 4 4 d4 (.oc 0) 1) ∧
    Runs (.ldB64 d4 (.oc 0) 255) (Issues .zx 8 8 d4 (.oc 0) 255) ∧ Runs (.ldB64x2 d4 (.oc 0) 254) (Issues .pair 16 8 d4 (.oc 0) 254) ∧
    Runs (.ldB64x4 d4 (.oc 0) 252) (Issues .quad 32 8 d4 (.oc 0) 252) ∧
    (∀ f, Runs (.ldIv f d4 (.oc 0)) (IvIssues f d4 (.oc 0))) ∧
    Runs (.ldS16 d4 (.oc 0) 0) (FromPeer .sx 2 2 d4 (.oc 0) 0) ∧ Runs (.ldB64x4 d4 (.oc 0) 0) (FromPeer .quad 32 8 d4 (.oc 0) 0) := by
  refine ⟨?_, ?_, ?_, ?_, ?_, ?_, ?_, ?_, ?_, ?_, ?_, ?_⟩
  iterate 9
    exact runs _ base _ (by decide +kernel) ⟨_, _, _, ⟨got_eq (by decide +kernel), by decide +kernel, okd_eq (by decide +kernel)⟩,
      okd_eq (by decide +kernel), by decide +kernel, by decide +kernel, by decide +kernel, rfl⟩ (by decide +kernel)
  · intro f
    cases f <;>
      exact runs _ base _ (by decide +kernel) ⟨_, _, _, ⟨got_eq (by decide +kernel), by decide +kernel, okd_eq (by decide +kernel)⟩,
        okd_eq (by decide +kernel), by decide +kernel, by decide +kernel, by decide +kernel, rfl⟩ (by decide +kernel)
  iterate 2
    exact runs _ peerDev _ (by decide +kernel) ⟨_, _, _, 2 ^ 51, ⟨got_eq (by decide +kernel), by decide +kernel, okd_eq (by decide +kernel)⟩,
      okd_eq (by decide +kernel), by decide +kernel, by decide +kernel, by decide +kernel, rfl⟩ (by decide +kernel)

/-- A store: as `Runs`, but then the full entries are sent. -/
def RunsStore (i : Instr) (R : LaneStep) : Prop := ∃ s s', s.unprotected ∧ Chain R s.bundleThreads s s' ∧
  exec i s = .next (s'.sendFull (s'.whereCrew s.curCrew).1 (s'.whereCrew s.curCrew).2)
theorem stored {R : LaneStep} (i : Instr) (s s1 : State) (hs : atLane0 s = true) (h : R s 0 s1)
    (hi : gives i s (s1.sendFull (s1.whereCrew s.curCrew).1 (s1.whereCrew s.curCrew).2) = true) : RunsStore i R :=
  ⟨s, s1, (atLane0_spec hs).1, by rw [(atLane0_spec hs).2.1]; exact ⟨s1, h, rfl⟩, gives_iff hi⟩

theorem witness_StoresEnterTheCoalescer :
    RunsStore (.stB8 4 (.oc 0) 255) (Coalesces 1 1 1 4 (.oc 0) 255) ∧ RunsStore (.stB16 4 (.oc 0) 255) (Coalesces 2 2 1 4 (.oc 0) 255) ∧
    RunsStore (.stB32 4 (.oc 0) 255) (Coalesces 4 4 1 4 (.oc 0) 255) ∧ RunsStore (.stB64 4 (.oc 0) 255) (Coalesces 8 8 1 4 (.oc 0) 255) ∧
    RunsStore (.stB64x2 4 (.oc 0) 254) (Coalesces 16 8 2 4 (.oc 0) 254) ∧
    RunsStore (.stB64x4 4 (.oc 0) 252) (Coalesces 32 8 4 4 (.oc 0) 252) ∧
    ∀ f, RunsStore (.stIv f 4 (.oc 0)) (IvCoalesces f 4 (.oc 0)) := by
  refine ⟨?_, ?_, ?_, ?_, ?_, ?_, ?_⟩
  iterate 6
    exact stored _ base _ (by decide +kernel) ⟨_, _, _, ⟨got_eq (by decide +kernel), by decide +kernel, okd_eq (by decide +kernel)⟩,
      okd_eq (by decide +kernel), by decide +kernel, rfl⟩ (by decide +kernel)
  intro f
  cases f <;>
    exact stored _ base _ (by decide +kernel) ⟨_, _, _, ⟨got_eq (by decide +kernel), by decide +kernel, okd_eq (by decide +kernel)⟩,
      okd_eq (by decide +kernel), by decide +kernel, rfl⟩ (by decide +kernel)

/-- Of the forms of StoresLeaveMemoryAndRegisters, the first and the last meet its hypotheses. -/
theorem witness_StoresLeaveMemoryAndRegisters (j : Instr) (R : LaneStep)
    (h : (j, R) ∈ [(Instr.stB8 4 (.oc 0) 255, Coalesces 1 1 1 4 (.oc 0) 255), (.stIv .f64 4 (.oc 0), IvCoalesces .f64 4 (.oc 0))]) :
    ∃ s s1 s', s.unprotected ∧ Chain R s.bundleThreads s s1 ∧ exec j s = .next s' := by
  have w := witness_StoresEnterTheCoalescer
  simp only [List.mem_cons, Prod.mk.injEq, List.not_mem_nil, or_false] at h
  obtain ⟨rfl, rfl⟩ | ⟨rfl, rfl⟩ := h
  · obtain ⟨s, s1, h1, h2, h3⟩ := w.1
    exact ⟨s, s1, _, h1, h2, h3⟩
  · obtain ⟨s, s1, h1, h2, h3⟩ := w.2.2.2.2.2.2 .f64
    exact ⟨s, s1, _, h1, h2, h3⟩

/-- The thread's g0 names offset 0 of its gang's pad. -/
def padAt (x : Thread) : Thread := { x with oc := regs.set 0 ⟨pt (BitVec.ofNat 64 windowBase), true, false⟩ }

/-- Each scope; a pad; the peer window; a compare and swap. -/
theorem witness_AtomsPerformOrWait :
    Runs (.atom .w64 .add .gang d4 (.oc 0)) (Atoms .w64 .add .gang d4 (.oc 0)) ∧
    Runs (.atom .w32 .cas .span d4 (.oc 0)) (Atoms .w32 .cas .span d4 (.oc 0)) ∧
    Runs (.atom .w32 .incw .gang d4 (.oc 0)) (Atoms .w32 .incw .gang d4 (.oc 0)) ∧
    Runs (.atom .w64 .xchg .dev d4 (.oc 0)) (Atoms .w64 .xchg .dev d4 (.oc 0)) ∧
    Runs (.atom .w64 .maxS .sys d4 (.oc 0)) (Atoms .w64 .maxS .sys d4 (.oc 0)) ∧
    Runs (.atom .w64 .maxS .gang d4 (.oc 0)) (Atoms .w64 .maxS .gang d4 (.oc 0)) := by
  refine ⟨?_, ?_, ?_, ?_, ?_, ?_⟩
  iterate 2
    exact runs _ lined _ (by decide +kernel) ⟨_, _, ⟨.dev 0 0, 0, false, false⟩, _, ⟨got_eq (by decide +kernel), by decide +kernel, okd_eq (by decide +kernel)⟩,
      got_eq (by decide +kernel), ok_of (by decide +kernel), by decide +kernel, by decide +kernel,
      ⟨_, okd_eq (by decide +kernel), _, okd_eq (by decide +kernel), rfl⟩⟩ (by decide +kernel)
  · exact runs _ (dev padAt id id) _ (by decide +kernel) ⟨_, _, ⟨.pad 0 0, 0, false, false⟩, _, ⟨got_eq (by decide +kernel), by decide +kernel, okd_eq (by decide +kernel)⟩,
      got_eq (by decide +kernel), ok_of (by decide +kernel), by decide +kernel, by decide +kernel,
      ⟨_, okd_eq (by decide +kernel), _, okd_eq (by decide +kernel), rfl⟩⟩ (by decide +kernel)
  iterate 2
    exact runs _ lined _ (by decide +kernel) ⟨_, _, ⟨.dev 0 0, 0, false, false⟩, _, ⟨got_eq (by decide +kernel), by decide +kernel, okd_eq (by decide +kernel)⟩,
      got_eq (by decide +kernel), ok_of (by decide +kernel), by decide +kernel, by decide +kernel, rfl⟩ (by decide +kernel)
  · exact runs _ peerDev _ (by decide +kernel) ⟨_, _, ⟨.peer (2 ^ 51), 0, false, false⟩, _, ⟨got_eq (by decide +kernel), by decide +kernel, okd_eq (by decide +kernel)⟩,
      got_eq (by decide +kernel), ok_of (by decide +kernel), by decide +kernel, by decide +kernel, rfl⟩ (by decide +kernel)

/-! ## Witnesses: fences, queues, barriers, nodes, sleep -/

theorem witness_FencesPrefetchAndWait :
    Runs (.scopeDrop (.oc 0)) (DropsScope (.oc 0)) ∧ Runs .fenceRep FencesReplicas ∧ Runs (.pf (.oc 0)) (Prefetches (.oc 0)) ∧
    Runs (.wait 0 15) (Waits 0 15) := by
  refine ⟨?_, ?_, ?_, ?_⟩
  · exact runs _ lined _ (by decide +kernel) ⟨_, _, ⟨got_eq (by decide +kernel), by decide +kernel, okd_eq (by decide +kernel)⟩,
      by decide +kernel, by decide +kernel, .inr ⟨by decide +kernel, _, okd_eq (by decide +kernel), rfl⟩⟩ (by decide +kernel)
  · exact runs _ base _ (by decide +kernel) ⟨_, got_eq (by decide +kernel), by decide +kernel, by decide +kernel, by decide +kernel, rfl⟩
      (by decide +kernel)
  · exact runs _ lined _ (by decide +kernel) ⟨_, _, _, ⟨got_eq (by decide +kernel), by decide +kernel, okd_eq (by decide +kernel)⟩,
      got_eq (by decide +kernel), rfl⟩ (by decide +kernel)
  · exact runs _ base _ (by decide +kernel) ⟨_, got_eq (by decide +kernel), by decide +kernel, by decide +kernel, by decide +kernel,
      by decide +kernel, by decide +kernel, rfl⟩ (by decide +kernel)

/-- A gang whose queue q7 holds one entry, or has three queues. -/
def queued : State := dev id (fun g => { g with queues := g.queues.set 7 [⟨9, 5⟩] }) id
def threeQueues : State := inL2 (dev id (fun g => { g with kernel := { g.kernel with queues := 3 } }) id)

/-- The hypotheses of `TrapsIf` hold in a state, and the instruction leaves what `TrapsIf` says there. -/
def TrapsIfHere (q : Gang → Prop) (i : Instr) (c : Byte) (v : State → Word) : Prop := ∃ s : State, s.unprotected ∧ s.gangHas q ∧
  (∀ t ∈ s.bundleThreads, ∃ x, s.threads.get? t = some x ∧ x.live = true) ∧
  exec i s = .next (takeAll s c (s.bundleThreads.map fun t => (t, v s)))
theorem trapsIfHere {q : Gang → Prop} {i : Instr} {c : Byte} {v : State → Word} (s : State) (g : Gang) (x : Thread)
    (hs : atLane0 s = true) (hg : s.gangs.get? s.cur.gang = some g) (hq : q g) (hx : s.threads.get? 0 = some x) (hl : x.live = true)
    (hi : gives i s (takeAll s c [(0, v s)]) = true) : TrapsIfHere q i c v :=
  ⟨s, (atLane0_spec hs).1, ⟨g, hg, hq⟩, by rw [(atLane0_spec hs).2.1]; simpa using ⟨x, hx, hl⟩,
    by rw [(atLane0_spec hs).2.1]; exact gives_iff hi⟩

/-- The queues up to the last; the first that the gang does not have; a sleep of no cycle, of the greatest immediate, and one that is
resumed. -/
theorem witness_QueueRegistersAndSleep :
    Runs (.sleep (.oc 0) 0) (Sleeps (.oc 0) 0) ∧ Runs (.sleep (.oc 2) 511) (Sleeps (.oc 2) 511) ∧
    Runs (.sleep (.oc 2) 1) (SleepsOn (.oc 2)) ∧
    Runs (.qput 7 (.oc 2)) (Pushes 7 (.oc 2)) ∧
    (queued.gangHas fun g => (7 : QReg).val < g.kernel.queues) ∧
    Runs (.qget d4 7) (Writes d4 [.special (.pop 7)] fun _ _ _ vs => (pt (dataAt vs 0), 0)) ∧
    Runs (.qlen d4 7) (Writes d4 [] fun s t _ _ => (pt (BitVec.ofNat 64 ((s.queuesOf (gangOf t))[(7 : QReg)]).length), 0)) ∧
    TrapsIfHere (fun g => g.kernel.queues ≤ (3 : QReg).val) (.qput 3 (.oc 2)) 0x01 (fun s => s.cur.word) ∧
    TrapsIfHere (fun g => g.kernel.queues ≤ (3 : QReg).val) (.qget d4 3) 0x01 (fun s => s.cur.word) ∧
    TrapsIfHere (fun g => g.kernel.queues ≤ (3 : QReg).val) (.qlen d4 3) 0x01 (fun s => s.cur.word) := by
  refine ⟨?_, ?_, ?_, ?_, ⟨_, got_eq (by decide +kernel), by decide +kernel⟩, ?_, ?_, ?_, ?_, ?_⟩
  iterate 2
    exact runs _ base _ (by decide +kernel) ⟨_, _, ⟨got_eq (by decide +kernel), by decide +kernel, okd_eq (by decide +kernel)⟩,
      by decide +kernel, rfl⟩ (by decide +kernel)
  · exact runs _ (dev (fun x => { x with sleepLeft := some (x.pc, 7) }) id id) _ (by decide +kernel)
      ⟨_, 7, got_eq (by decide +kernel), by decide +kernel, by decide +kernel, rfl⟩ (by decide +kernel)
  · exact runs _ base _ (by decide +kernel) ⟨_, _, _, by decide +kernel, ⟨got_eq (by decide +kernel), by decide +kernel, okd_eq (by decide +kernel)⟩,
      by decide +kernel, got_eq (by decide +kernel), by decide +kernel, by decide +kernel, rfl⟩ (by decide +kernel)
  · exact runs _ queued _ (by decide +kernel) ⟨_, _, _, _, ⟨got_eq (by decide +kernel), by decide +kernel, okd_eq (by decide +kernel)⟩,
      rfl, okd_eq (by decide +kernel), rfl⟩ (by decide +kernel)
  · exact runs _ queued _ (by decide +kernel) ⟨_, _, _, _, ⟨got_eq (by decide +kernel), by decide +kernel, okd_eq (by decide +kernel)⟩,
      rfl, okd_eq (by decide +kernel), rfl⟩ (by decide +kernel)
  iterate 3
    exact trapsIfHere threeQueues _ _ (by decide +kernel) (got_eq (by decide +kernel)) (by decide +kernel) (got_eq (by decide +kernel))
      (by decide +kernel) (by decide +kernel)

/-- A crew whose collective instruction is due. -/
def due (x : Thread) : Thread := { x with wait := .coll, due := true }
def crewDev : State := dev due id id

/-- The last barrier of a gang and of a span; bar.wait at a phase that has not completed; k7 = 0 as an expected count. -/
theorem witness_Barriers :
    (crewDev.gangHas (hasBar 15)) ∧ RunsCrew (.barArr 15) (BarArr 15) ∧ RunsCrew (.barWait 15) (Awaits false 15) ∧
    RunsCrew (.barSync 15) (BarSync 15) ∧ RunsCrew (.barExp 15 7) (BarExp 15 7) ∧ RunsCrew (.sbar 3) (SpanBarrier 3) := by
  refine ⟨⟨_, got_eq (by decide +kernel), by simp only [hasBar]; decide +kernel⟩, ?_, ?_, ?_, ?_, ?_⟩
  · exact crew _ crewDev _ (by decide +kernel) ⟨by decide +kernel, _, _, got_eq (by decide +kernel), rfl⟩ (by decide +kernel)
  · exact crew _ crewDev _ (by decide +kernel) ⟨_, _, got_eq (by decide +kernel), rfl⟩ (by decide +kernel)
  · exact crew _ crewDev _ (by decide +kernel) ⟨by decide +kernel, _, _, got_eq (by decide +kernel), _, _, got_eq (by decide +kernel), rfl⟩
      (by decide +kernel)
  · exact crew _ crewDev _ (by decide +kernel) ⟨by decide +kernel, rfl⟩ (by decide +kernel)
  · exact crew _ crewDev _ (by decide +kernel) ⟨by decide +kernel, _, _, _, _, _, got_eq (by decide +kernel), got_eq (by decide +kernel),
      rfl, got_eq (by decide +kernel), got_eq (by decide +kernel), rfl⟩ (by decide +kernel)

/-- The launch has a node with a bin of four records at 0x1000. -/
def noded : State := (dev (fun x => { x with oc := regs.set 2 ⟨⟨0x300000001, true⟩, true, false⟩ }) id id).modL 0 fun l =>
  { l with nodes := [⟨.placed, 0x1000, 4, 0, 3, 0, []⟩] }
/-- The same with a proper .f64 interval in g2, g3. -/
def nodedWide : State := noded.modT 0 fun x => { x with oc := (x.oc.set 2 ⟨⟨0, true⟩, true, false⟩).set 3 ⟨⟨0x3FF0000000000000, true⟩, true, false⟩ }

/-- The last free slot of a bin; an .f32 point, which does not split; an .f64 interval, which does. -/
theorem witness_NodeRecords :
    Runs (.nput (.oc 1) (.oc 0)) (NodePuts (.oc 1) (.oc 0)) ∧ Runs (.ibsp .f32 d4 (.oc 1) (.oc 0)) (Bisects .f32 d4 (.oc 1) (.oc 0)) ∧
    Runs (.ibsp .f64 d4 (.oc 2) (.oc 0)) (Bisects .f64 d4 (.oc 2) (.oc 0)) := by
  refine ⟨?_, ?_, ?_⟩
  · exact runs _ noded _ (by decide +kernel) ⟨_, _, _, ⟨got_eq (by decide +kernel), by decide +kernel, okd_eq (by decide +kernel)⟩,
      ⟨_, _, _, _, _, got_eq (by decide +kernel), got_eq (by decide +kernel), got_eq (by decide +kernel), got_eq (by decide +kernel),
        by decide +kernel, by decide +kernel, by decide +kernel, by decide +kernel, got_eq (by decide +kernel), rfl⟩, rfl⟩ (by decide +kernel)
  · exact runs _ noded _ (by decide +kernel) ⟨_, _, [gv 1], none, _, _, ⟨got_eq (by decide +kernel), by decide +kernel, okd_eq (by decide +kernel)⟩,
      ok_of (by decide +kernel), rfl, okd_eq (by decide +kernel), rfl⟩ (by decide +kernel)
  · exact runs _ nodedWide _ (by decide +kernel) ⟨_, _, [⟨0, true⟩, ⟨0x3FE0000000000000, true⟩],
      some (0x3FE0000000000000, some 0x3FF0000000000000), _, _,
      ⟨got_eq (by decide +kernel), by decide +kernel, okd_eq (by decide +kernel)⟩, ok_of (by decide +kernel),
      ⟨_, _, _, _, _, got_eq (by decide +kernel), got_eq (by decide +kernel), got_eq (by decide +kernel), got_eq (by decide +kernel),
        by decide +kernel, by decide +kernel, by decide +kernel, by decide +kernel, got_eq (by decide +kernel), rfl⟩, okd_eq (by decide +kernel), rfl⟩
      (by decide +kernel)

/-- One of two live members has reached the instruction. -/
theorem witness_CollectivesHoldTheirMembers :
    two.unprotected ∧ two.gangHas (fun g => (15 : BReg).val < g.kernel.barriers) ∧ two.crewDue two.curCrew = false ∧
    (∀ srcs ∈ [[], [Src.oc 2], [.oc 2, .oc 3]], ∀ t ∈ two.bundleThreads, two.badSource t srcs = none) :=
  ⟨(atLane0_spec (by decide +kernel)).1, ⟨_, got_eq (by decide +kernel), by decide +kernel⟩, by decide +kernel, by decide +kernel⟩

/-- k31, and a call through a k register of a crew with room. -/
theorem witness_CrewRegisters :
    RunsCrew (.movk 31 (.oc 2)) (MovesToK 31 (.oc 2)) ∧ RunsCrew (.kmov 31 0) (CopiesK 31 0) ∧ RunsCrew (.callk 31 7) (CallsK 31 7) ∧
    RunsCrew (.ldk 31 (.oc 0)) (LoadsK 31 (.oc 0)) := by
  refine ⟨?_, ?_, ?_, ?_⟩
  · exact crew _ crewDev _ (by decide +kernel) ⟨_, _, _, okd_eq (by decide +kernel), okd_eq (by decide +kernel), by decide +kernel, rfl⟩
      (by decide +kernel)
  · exact crew _ crewDev _ (by decide +kernel) ⟨_, got_eq (by decide +kernel), by decide +kernel, by decide +kernel, rfl⟩ (by decide +kernel)
  · exact crew _ crewDev _ (by decide +kernel) ⟨_, got_eq (by decide +kernel), by decide +kernel, by decide +kernel,
      fun t ht => by
        obtain rfl : t = 0 := List.mem_singleton.mp (show t ∈ [0] from ht)
        exact ⟨_, got_eq (by decide +kernel), by decide +kernel⟩,
      ⟨_, okd_eq (by decide +kernel), rfl⟩⟩ (by decide +kernel)
  · exact crew _ crewDev _ (by decide +kernel) ⟨_, _, _, ⟨.dev 0 0, 0, false, false⟩, okd_eq (by decide +kernel), okd_eq (by decide +kernel),
      ok_of (by decide +kernel), by decide +kernel, by decide +kernel, rfl⟩ (by decide +kernel)

/-! ## Witnesses: lane instructions -/

/-- Two members, on home lanes 0 and 1, of a group that has been found due. -/
def group : State :=
  let x : Thread := { Thread.init 0x20_0000 0 with oc := regs, due := true, wait := .lane 3 }
  { base with threads := [(0, x), (1, { x with oc := regs.set 2 ⟨⟨7, false⟩, true, false⟩ })], cur := { base.cur with lanes := [0, 1] } }

theorem group_unprotected : group.unprotected :=
  ⟨⟨by decide, by decide, by decide⟩, _, got_eq (by decide +kernel), by decide +kernel⟩

/-- A lane instruction gives the state that the members' writes leave. -/
def RunsGroup (i : Instr) (srcs : List Src) (d : Dst) (f : State → (Nat → Option (List Val)) → Nat → Val × Byte) : Prop :=
  ∃ s s' s1 : State, ∃ vals, s.unprotected ∧ (∀ t ∈ s.bundleThreads, ∃ x, s.threads.get? t = some x ∧ x.due = true) ∧
    laneReads srcs s.bundleThreads s = .ok (vals, s1) ∧
    Chain (fun s2 t s3 => ∃ s4,
      s2.writeRegs t d.reg.val d.k [(f s (member vals) (laneOf t)).1] = .ok s4 ∧
      s3 = s4.modT t fun y => ((y.raise (f s (member vals) (laneOf t)).2).latch (f s (member vals) (laneOf t)).1).finish
        (s2.codeBase t) s2.cur.len) s.bundleThreads s1 s' ∧
    exec i s = .next s'

theorem group_due : ∀ t ∈ group.bundleThreads, ∃ x, group.threads.get? t = some x ∧ x.due = true := by
  intro t ht
  have : t = 0 ∨ t = 1 := by simpa using (show t ∈ [0, 1] from ht)
  rcases this with rfl | rfl <;> exact ⟨_, got_eq (by decide +kernel), by decide +kernel⟩

/-- Sources read by both, then two writes in order. -/
theorem runsGroup {srcs : List Src} {d : Dst} {f : State → (Nat → Option (List Val)) → Nat → Val × Byte} (i : Instr)
    (p : List (Nat × List Val) × State) (s2 s3 : State) (hr : laneReads srcs [0, 1] group = .ok p)
    (h0 : p.2.writeRegs 0 d.reg.val d.k [(f group (member p.1) 0).1] = .ok s2)
    (h1 : (s2.modT 0 fun y => ((y.raise (f group (member p.1) 0).2).latch (f group (member p.1) 0).1).finish
        (p.2.codeBase 0) p.2.cur.len).writeRegs 1 d.reg.val d.k [(f group (member p.1) 1).1] = .ok s3)
    (hi : gives i group (s3.modT 1 fun y => ((y.raise (f group (member p.1) 1).2).latch (f group (member p.1) 1).1).finish
        ((s2.modT 0 fun y => ((y.raise (f group (member p.1) 0).2).latch (f group (member p.1) 0).1).finish
          (p.2.codeBase 0) p.2.cur.len).codeBase 1)
        (s2.modT 0 fun y => ((y.raise (f group (member p.1) 0).2).latch (f group (member p.1) 0).1).finish
          (p.2.codeBase 0) p.2.cur.len).cur.len) = true) :
    RunsGroup i srcs d f :=
  ⟨group, _, p.2, p.1, group_unprotected, group_due, hr, ⟨_, ⟨s2, h0, rfl⟩, ⟨_, ⟨s3, h1, rfl⟩, rfl⟩⟩, gives_iff hi⟩

/-- Exchanges between two members, and with lanes that are no members. -/
theorem witness_LaneExchanges :
    RunsGroup (.shfl .idx d4 (.oc 2) (.special .ones)) [.oc 2, .oc 4, .special .ones] d4 (fun _ m l =>
      (pt (dataOf m ((dataOf m l 1 0).toNat % 32) 0 (dataOf m l 0 0)), 0)) ∧
    RunsGroup (.shfl .xor d4 (.oc 2) (.special .ones)) [.oc 2, .oc 4, .special .ones] d4 (fun _ m l =>
      (pt (dataOf m (l ^^^ ((dataOf m l 1 0).toNat % 32)) 0 (dataOf m l 0 0)), 0)) ∧
    RunsGroup (.lsh .up d4 (.oc 2) (.special .ones)) [.oc 2, .oc 4, .special .ones] d4 (fun _ m l =>
      (pt (if l = 0 then dataOf m l 1 0 else dataOf m (l - 1) 0 (dataOf m l 1 0)), 0)) ∧
    RunsGroup (.lsh .dn d4 (.oc 2) (.special .ones)) [.oc 2, .oc 4, .special .ones] d4
      (fun _ m l => (pt (dataOf m (l + 1) 0 (dataOf m l 1 0)), 0)) ∧
    RunsGroup (.matchLane d4 (.oc 2) (.special .ones)) [.oc 2, .special .ones] d4 (fun _ m l =>
      (pt (BitVec.ofNat 64 ((List.range 32).foldl
        (fun n j => if (m j).isSome && dataOf m j 0 0 == dataOf m l 0 0 then n + 2 ^ j else n) 0)), 0)) ∧
    RunsGroup (.vote .ballot d4 7 .t (.special .ones)) [.special .ones] d4 (fun _ m _ =>
      (pt (BitVec.ofNat 64 ((List.range 32).foldl (fun n j => if (m j).isSome then n + 2 ^ j else n) 0)), 0)) ∧
    (∃ p, laneReads [.oc 2, .special .ones] [0, 1] group = .ok p ∧ group.kPending group.curCrew 31 = false ∧
      gives (.bcastFirst 31 (.oc 2) (.special .ones)) group
        (((p.2.modC 0 fun c => { c with k := c.k.set 31 (dataOf (member p.1) 0 0 0), ktok := c.ktok.erase 31 }).modT 0
          fun y => y.finish 0x200000 4).modT 1 fun y => y.finish 0x200000 4) = true) := by
  refine ⟨?_, ?_, ?_, ?_, ?_, ?_, _, okd_eq (by decide +kernel), by decide +kernel, by decide +kernel⟩
  all_goals
    exact runsGroup _ _ _ _ (okd_eq (by decide +kernel)) (okd_eq (by decide +kernel)) (okd_eq (by decide +kernel)) (by decide +kernel)

/-- Sums over both members and over those up to the own lane; the tree of a float sum with 30 leaves at its identity. -/
theorem witness_Reductions :
    RunsGroup (.reduxAdd .w64 d4 (.oc 2) (.special .ones)) [.oc 2, .special .ones] d4
      (fun _ m _ => (pt (overLanes (· + ·) 0 m 32), 0)) ∧
    RunsGroup (.reduxMax .s d4 (.oc 2) (.special .ones)) [.oc 2, .special .ones] d4
      (fun _ m _ => (pt (overLanes (fun x y => if leq .s y x then x else y) 0x8000000000000000#64 m 32), 0)) ∧
    RunsGroup (.scanAdd .w32 d4 (.oc 2) (.special .ones)) [.oc 2, .special .ones] d4
      (fun _ m l => (pt (up (lo (overLanes (· + ·) 0 m (l + 1)))), 0)) ∧
    RunsGroup (.freduxMin .f32 d4 (.oc 2) (.special .ones)) [.oc 2, .special .ones] d4 (fun _ m _ =>
      (pt (BitVec.ofNat 64 (fmt32.minmax false ((dataOf m 0 0 0).toNat % 2 ^ 32) ((dataOf m 1 0 0).toNat % 2 ^ 32)).1), 0)) := by
  refine ⟨?_, ?_, ?_, ?_⟩
  all_goals
    exact runsGroup _ _ _ _ (okd_eq (by decide +kernel)) (okd_eq (by decide +kernel)) (okd_eq (by decide +kernel)) (by decide +kernel)

/-- The members of that group meet the conditions under which a lane instruction completes, with every kind of source list. -/
theorem witness_LaneInstructionsComplete :
    group.unprotected ∧ group.bundleThreads ≠ [] ∧ group.kPending group.curCrew 31 = false ∧
    (∀ srcs ∈ [[Src.oc 2, .oc 4, .special .ones], [.oc 2, .special .ones], [.special .ones]],
      (∀ q, Src.special (.pop q) ∉ srcs) ∧
      ∀ t ∈ group.bundleThreads, ∃ x, group.threads.get? t = some x ∧ x.live = true ∧ x.due = true ∧
        slotPending (group.accsOf t) (x.wb + d4.reg.val) = false ∧ (d4.k = true ∨ group.resident t x (x.wb + d4.reg.val) = true) ∧
        ∀ m, ∃ vs, ({ group with free := m } : State).readAll t srcs = .ok vs) := by
  refine ⟨group_unprotected, by decide +kernel, by decide +kernel, fun srcs hs => ⟨fun q hq => ?_, fun t ht => ?_⟩⟩
  · simp only [List.mem_cons, List.not_mem_nil, or_false] at hs
    rcases hs with rfl | rfl | rfl <;> simp at hq
  · have ht : t = 0 ∨ t = 1 := by simpa using (show t ∈ [0, 1] from ht)
    simp only [List.mem_cons, List.not_mem_nil, or_false] at hs
    rcases ht with rfl | rfl <;> rcases hs with rfl | rfl | rfl <;>
      exact ⟨_, got_eq (by decide +kernel), by decide +kernel, by decide +kernel, by decide +kernel, .inl rfl, fun _ => ⟨_, rfl⟩⟩

/-! ## Witnesses: the pool, copies and tiles -/

/-- The crew's gang has slack and a pot; g2 = 2 perches are asked for, or g8 = 8, or none. -/
def slackDev : State := inL2 (dev due (fun g => { g with slack := [64, 65, 66], pot := [67, 68] }) fun c =>
  { c with quota := 64, perchMap := List.range 64 })

/-- grow by slack, at the allocator, not at all, and beyond 256; shrink and release by what leaves at least 8; a claim that waits. -/
theorem witness_QuotasAndPerches :
    RunsCrew (.grow (.oc 2)) (Grows (.oc 2)) ∧ RunsCrew (.grow (.oc 4)) (Grows (.oc 4)) ∧ RunsCrew (.grow (.oc 0)) (Grows (.oc 0)) ∧
    RunsCrew (.grow (.special .ones)) (Grows (.special .ones)) ∧ RunsCrew (.shrink (.oc 8)) (Shrinks (.oc 8)) ∧
    RunsCrew (.shrink (.special .ones)) (Shrinks (.special .ones)) ∧
    RunsCrew (.claim (.oc 2)) (ClaimsPerches (.oc 2)) ∧ RunsCrew (.release (.oc 8)) (Releases (.oc 8)) ∧
    Meets (WritesMany 4 true (fun _ _ => []) fun s t _ _ => some ([pt (s.poolWord t)], id)) := by
  have reads {s : State} {a : Src} (h1 : (s.crewRead 0 [a]).toOption.isSome) (h2 : (s.crews.get? 0).isSome) (h3 : (s.gangs.get? 0).isSome) :
      ReadsCount a s 0 (okd _ h1).1 (okd _ h1).2 (got _ h2) (got _ h3) (dataAt (okd _ h1).1 0).toNat :=
    ⟨okd_eq h1, got_eq h2, got_eq h3, rfl⟩
  refine ⟨?_, ?_, ?_, ?_, ?_, ?_, ?_, ?_, ?_⟩
  · exact crew _ slackDev _ (by decide +kernel) ⟨_, _, _, _, _, reads (by decide +kernel) (by decide +kernel) (by decide +kernel),
      .inr (.inr (.inr (.inl ⟨by decide +kernel, by decide +kernel, by decide +kernel, by decide +kernel, rfl⟩)))⟩ (by decide +kernel)
  · exact crew _ slackDev _ (by decide +kernel) ⟨_, _, _, _, _, reads (by decide +kernel) (by decide +kernel) (by decide +kernel),
      .inr (.inr (.inr (.inr ⟨by decide +kernel, by decide +kernel, by decide +kernel, rfl⟩)))⟩ (by decide +kernel)
  · exact crew _ slackDev _ (by decide +kernel) ⟨_, _, _, _, _, reads (by decide +kernel) (by decide +kernel) (by decide +kernel),
      .inl ⟨by decide +kernel, rfl⟩⟩ (by decide +kernel)
  · exact crew _ slackDev _ (by decide +kernel) ⟨_, _, _, _, _, reads (by decide +kernel) (by decide +kernel) (by decide +kernel),
      .inr (.inl ⟨by decide +kernel, by decide +kernel, rfl⟩)⟩ (by decide +kernel)
  · exact crew _ slackDev _ (by decide +kernel) ⟨_, _, _, _, _, reads (by decide +kernel) (by decide +kernel) (by decide +kernel),
      .inr (.inr ⟨by decide +kernel, by decide +kernel, _, _, okd_eq (by decide +kernel), rfl⟩)⟩ (by decide +kernel)
  · exact crew _ slackDev _ (by decide +kernel) ⟨_, _, _, _, _, reads (by decide +kernel) (by decide +kernel) (by decide +kernel),
      .inr (.inl ⟨by decide +kernel, by decide +kernel, rfl⟩)⟩ (by decide +kernel)
  · exact crew _ slackDev _ (by decide +kernel) ⟨_, _, _, _, _, reads (by decide +kernel) (by decide +kernel) (by decide +kernel),
      .inr (.inr ⟨by decide +kernel, by decide +kernel, rfl⟩)⟩ (by decide +kernel)
  · exact crew _ slackDev _ (by decide +kernel) ⟨_, _, _, _, _, reads (by decide +kernel) (by decide +kernel) (by decide +kernel),
      .inr (.inr ⟨by decide +kernel, by decide +kernel, _, _, okd_eq (by decide +kernel), rfl⟩)⟩ (by decide +kernel)
  · exact many base _ [] base_unprotected rfl rfl rfl (by decide +kernel) (by decide +kernel) rfl

/-- Handles of 1 KiB each: m0 and m1 .n1 plane tiles of one row (column) and K = 32 for A and B, m2 a one-element .s32 tile, m3 and
m4 of .f32, m6 of two .f32 columns; m5 is unbound. Their headers stand in the pool. A plan for m0 and m1 is loaded. -/
def tiled : State :=
  { inL2 (dev due (fun g => { g with
      handles := [0, 1, 2, 3, 4, 6].map fun n => (n, ⟨1024 * n, 1, none, some 6⟩), tileAcres := 2, grows := 16, gcols := 256
      fit := true, plan := [[0xD7, 0x15, 2, 0, 0x10, 0, 0, 0]] }) id) with
    pool := {
      bytes := [(4096, 0xA7), (4097, 0x57), (4099, 0x06), (4101, 0x1F), (4102, 0x10), (4110, 0x5B), (4111, 0x92),
        (5120, 0xA7), (5121, 0x57), (5123, 0xFA), (5124, 0x01), (5126, 0x10), (5134, 0x45), (5135, 0xF7),
        (6144, 0xA7), (6145, 0x10), (6147, 0x0C), (6150, 0x10), (6158, 0x14), (6159, 0xCB),
        (7168, 0xA7), (7169, 0x01), (7174, 0x10), (7182, 0x0A), (7183, 0x6B),
        (8192, 0xA7), (8193, 0x01), (8198, 0x10), (8206, 0x0A), (8207, 0x6B),
        (10240, 0xA7), (10241, 0x01), (10245, 0x01), (10246, 0x10), (10254, 0x29), (10255, 0x80)]
      grains := [(512, 0x51), (513, 0xD4), (640, 0xB4), (641, 0xDF), (768, 0x89), (769, 0x30), (896, 0x05), (897, 0xB5),
        (1024, 0xB4), (1025, 0x04),
        (1280, 0xEB), (1281, 0x5B)]
      poison := [] } }

theorem freeHandle {o : Option Handle} (h : (o.all fun h => h.owner.isNone) = true) : ∀ h, o = some h → h.owner = none := by
  rintro x rfl
  simpa using h

/-- A gang in which another talloc waits. -/
def tallocWaits : State := tiled.modG 0 fun g => { g with tallocs := [(1, 7, 5, .oc 1)] }

/-- An unbound handle with room, with acres to ask for, and beyond 760; behind a talloc that waits; a count of 0; a bound handle;
tfree. -/
theorem witness_TileHandles :
    MeetsCrew (Allocates 5 (.oc 1)) ∧ RunsCrew (.talloc 5 (.oc 2)) (Allocates 5 (.oc 2)) ∧
    RunsCrew (.talloc 5 (.oc 3)) (Allocates 5 (.oc 3)) ∧ RunsCrew (.talloc 5 (.oc 1)) (Allocates 5 (.oc 1)) ∧
    RunsCrew (.talloc 5 (.oc 0)) (Allocates 5 (.oc 0)) ∧ RunsCrew (.talloc 4 (.oc 1)) (Allocates 4 (.oc 1)) ∧
    RunsCrew (.tfree 4) (FreesTile 4) := by
  refine ⟨?_, ?_, ?_, ?_, ?_, ?_, ?_⟩
  · exact meetsCrew tiled _ (by decide +kernel) ⟨_, _, _, _, okd_eq (by decide +kernel), got_eq (by decide +kernel), rfl,
      freeHandle (by decide +kernel), .inr (.inr (.inr ⟨by decide +kernel, by decide +kernel, by decide +kernel, by decide +kernel,
        .inl ⟨by decide +kernel, rfl⟩⟩))⟩
  · exact crew _ (tiled.modT 0 fun x => { x with oc := regs.set 2 ⟨gv 8192, true, false⟩ }) _ (by decide +kernel)
      ⟨_, _, _, _, okd_eq (by decide +kernel), got_eq (by decide +kernel), rfl,
      freeHandle (by decide +kernel), .inr (.inr (.inr ⟨by decide +kernel, by decide +kernel, by decide +kernel, by decide +kernel,
        .inr (.inr ⟨by decide +kernel, by decide +kernel, rfl⟩)⟩))⟩ (by decide +kernel)
  · exact crew _ ((tiled.modT 0 fun x => { x with oc := regs.set 3 ⟨gv 262144, true, false⟩ }).modG 0 fun g => { g with frameAcres := 700 }) _
      (by decide +kernel) ⟨_, _, _, _, okd_eq (by decide +kernel), got_eq (by decide +kernel), rfl,
      freeHandle (by decide +kernel), .inr (.inr (.inr ⟨by decide +kernel, by decide +kernel, by decide +kernel, by decide +kernel,
        .inr (.inl ⟨by decide +kernel, by decide +kernel, rfl⟩)⟩))⟩ (by decide +kernel)
  · exact crew _ tallocWaits _ (by decide +kernel) ⟨_, _, _, _, okd_eq (by decide +kernel), got_eq (by decide +kernel), rfl,
      freeHandle (by decide +kernel), .inr (.inl ⟨by decide +kernel, by decide +kernel, by decide +kernel, rfl⟩)⟩ (by decide +kernel)
  · exact crew _ tiled _ (by decide +kernel) ⟨_, _, _, _, okd_eq (by decide +kernel), got_eq (by decide +kernel), rfl,
      freeHandle (by decide +kernel), .inl ⟨by decide +kernel, rfl⟩⟩ (by decide +kernel)
  · exact crew _ tiled _ (by decide +kernel) ⟨_, _, _, _, okd_eq (by decide +kernel), got_eq (by decide +kernel), rfl,
      freeHandle (by decide +kernel), .inr (.inr (.inl ⟨by decide +kernel, by decide +kernel, by decide +kernel, by decide +kernel, rfl⟩))⟩
      (by decide +kernel)
  · exact crew _ tiled _ (by decide +kernel) ⟨by decide +kernel, by decide +kernel, rfl⟩ (by decide +kernel)

theorem got_eq2 {o : Option (α × β)} (h : o.isSome = true) : o = some ((got o h).1, (got o h).2) := got_eq h
theorem okd_eq2 {e : Except ε (α × β)} (h : e.toOption.isSome = true) : e = .ok ((okd e h).1, (okd e h).2) := okd_eq h
theorem okd_eq3 {e : Except ε (α × β × γ)} (h : e.toOption.isSome = true) :
    e = .ok ((okd e h).1, (okd e h).2.1, (okd e h).2.2) := okd_eq h

theorem entersSlot (i : Instr) (f : CopyForm) (s1 : State) (h : EntersSlot f tiled 0 s1) (hi : gives i tiled s1 = true) :
    RunsCrew i (EntersSlot f) := crew i tiled s1 (by decide +kernel) h hi

/-- Every form, the drains of the accumulator tile m2; a crew exists for the second clause. -/
theorem witness_CopiesEnterTheQueue :
    RunsCrew (.cpIn 31 4 0 1) (EntersSlot ⟨.cpIn, 31, some 4, some 0, some 1, none⟩) ∧
    RunsCrew (.cpOut 31 4 0 1) (EntersSlot ⟨.cpOut, 31, some 4, some 0, some 1, none⟩) ∧
    RunsCrew (.cpOutAdd 31 4 0 1) (EntersSlot ⟨.cpOutAdd, 31, some 4, some 0, some 1, none⟩) ∧
    RunsCrew (.cpMc 31 5 0 1 2) (EntersSlot ⟨.cpMc, 31, some 5, some 0, some 1, some 2⟩) ∧
    RunsCrew (.cpPad 31 0 1 2) (EntersSlot ⟨.cpPad, 31, none, some 1, some 2, some 0⟩) ∧
    RunsCrew (.cpPadOut 31 0 1 2) (EntersSlot ⟨.cpPadOut, 31, none, some 1, some 2, some 0⟩) ∧
    RunsCrew (.cpFill 31 4 15) (EntersSlot ⟨.cpFill, 31, some 4, none, none, some 15⟩) ∧
    RunsCrew (.mdrain 31 2 0 1) (EntersSlot ⟨.mdrain, 31, some 2, some 0, some 1, none⟩) ∧
    RunsCrew (.mdrainAdd 31 2 0 1) (EntersSlot ⟨.mdrainAdd, 31, some 2, some 0, some 1, none⟩) ∧
    (tiled.crews.get? 0).isSome := by
  refine ⟨?_, ?_, ?_, ?_, ?_, ?_, ?_, ?_, ?_, by decide +kernel⟩
  all_goals
    exact entersSlot _ _ _ ⟨_, got_eq (by decide +kernel), by decide +kernel, by decide +kernel, by decide +kernel,
      ok_of (by decide +kernel), by decide +kernel, rfl⟩ (by decide +kernel)

/-- A record at 0 that is translated; a tile that the crew owns; an unbound handle. -/
theorem witness_RecordCacheAndOwnership :
    RunsCrew .recFence FencesRecords ∧ RunsCrew (.recPf 15) (PrefetchesRecord 15) ∧ RunsCrew (.own 4) (Owns 4) ∧
    RunsCrew (.own 15) (OwnsNothing 15) := by
  refine ⟨?_, ?_, ?_, ?_⟩
  · exact crew _ tiled _ (by decide +kernel) ⟨by decide +kernel, _, got_eq (by decide +kernel), rfl⟩ (by decide +kernel)
  · exact crew _ tiled _ (by decide +kernel) ⟨by decide +kernel, by decide +kernel, _, got_eq (by decide +kernel), rfl⟩ (by decide +kernel)
  · exact crew _ tiled _ (by decide +kernel) ⟨by decide +kernel, _, got_eq (by decide +kernel), by decide +kernel, rfl⟩ (by decide +kernel)
  · exact crew _ tiled _ (by decide +kernel) ⟨by decide +kernel, rfl⟩ (by decide +kernel)

/-- A plan table of one entry in the line of VA 0, PA 0; registers with a header for mhdr.set. -/
def planDev : State :=
  { tiled with l2 := [(0, ⟨([0x10001, 0, 0, 0, 0x10000215D7, 0x10100, 0, 0x1ECB000000000000] : List Word).zipIdx.map fun w =>
    Gran.mk' w.1 (8 * w.2), 0, 0, 0, none, .none, false, false, false⟩)] }
def headerRegs : State := tiled.modT 0 fun x =>
  { x with oc := (regs.set 2 ⟨⟨0x00100000000001A7, false⟩, true, false⟩).set 3 ⟨⟨0, false⟩, true, false⟩ }

/-- mma whose checks pass and whose plan is loaded, one without a plan, one with a wrong format; the operations on .f32 tiles; header
and elements; tshape of one element. -/
theorem witness_TileInstructions :
    RunsCrew (.mma 255 2 0 1) (Multiplies 255 2 0 1 false) ∧ RunsCrew (.mmaSat 0 2 0 1) (Multiplies 0 2 0 1 true) ∧
    RunsCrew (.mma 0 4 0 1) (Multiplies 0 4 0 1 false) ∧ RunsCrew (.mcvt .f32 0 4 3) (Converts .f32 0 4 3) ∧
    RunsCrew (.mrmax 6 3) (StartsRowOp 6 3 .mrmax true) ∧ RunsCrew (.mrsum 4 3) (StartsRowOp 4 3 .mrsum false) ∧
    RunsCrew (.mexp2 4 3) (StartsRowOp 4 3 .mexp2 false) ∧ RunsCrew (.mrscale 4 3 3) (Scales 4 3 3) ∧
    RunsCrew (.mmask 4 15) (Masks 4 15) ∧ RunsCrew (.mhdrGet d4 3) (GetsHeader d4 3) ∧ RunsCrew (.mhdrSet 2 4) (SetsHeader 2 4) ∧
    RunsCrew (.mget d4 3 (.oc 0)) (GetsElements d4 3 (.oc 0)) ∧ RunsCrew (.mput 4 3 (.oc 0)) (PutsElements 4 3 (.oc 0)) ∧
    RunsCrew (.mzero 3) (Zeroes 3) ∧ RunsCrew (.tshape 15) (Shapes 15) ∧
    RunsCrew (.mplan 15) (LoadsPlan 15) := by
  refine ⟨?_, ?_, ?_, ?_, ?_, ?_, ?_, ?_, ?_, ?_, ?_, ?_, ?_, ?_, ?_, ?_⟩
  · exact crew _ tiled _ (by decide +kernel) ⟨_, _, okd_eq (by decide +kernel), got_eq (by decide +kernel),
      .inr (.inr ⟨by decide +kernel, by decide +kernel, ok_of (by decide +kernel), rfl⟩)⟩ (by decide +kernel)
  · exact crew _ tiled _ (by decide +kernel) ⟨_, _, okd_eq (by decide +kernel), got_eq (by decide +kernel),
      .inr (.inl ⟨by decide +kernel, by decide +kernel, rfl⟩)⟩ (by decide +kernel)
  · exact crew _ tiled _ (by decide +kernel) ⟨_, _, okd_eq (by decide +kernel), got_eq (by decide +kernel),
      .inl ⟨_, _, got_eq2 (by decide +kernel), rfl⟩⟩ (by decide +kernel)
  · exact crew _ tiled _ (by decide +kernel) ⟨_, _, okd_eq (by decide +kernel), got_eq (by decide +kernel),
      by decide +kernel, by decide +kernel, by decide +kernel, ok_of (by decide +kernel), rfl⟩ (by decide +kernel)
  · exact crew _ tiled _ (by decide +kernel) ⟨⟨3, ⟨3072, 1, none, some 6⟩, 0x6B0A00000000000000100000000001A7⟩,
      ⟨6, ⟨6144, 1, none, some 6⟩, 0x802900000000000000100100000001A7⟩, _, ok_of (by decide +kernel), got_eq (by decide +kernel),
      ⟨by decide +kernel, ok_of (by decide +kernel)⟩, by decide +kernel, by decide +kernel, rfl⟩ (by decide +kernel)
  iterate 2
    exact crew _ tiled _ (by decide +kernel) ⟨⟨3, ⟨3072, 1, none, some 6⟩, 0x6B0A00000000000000100000000001A7⟩,
      ⟨4, ⟨4096, 1, none, some 6⟩, 0x6B0A00000000000000100000000001A7⟩, _, ok_of (by decide +kernel), got_eq (by decide +kernel),
      ⟨by decide +kernel, ok_of (by decide +kernel)⟩, by decide +kernel, by decide +kernel, rfl⟩ (by decide +kernel)
  · exact crew _ tiled _ (by decide +kernel) ⟨⟨3, ⟨3072, 1, none, some 6⟩, 0x6B0A00000000000000100000000001A7⟩,
      ⟨3, ⟨3072, 1, none, some 6⟩, 0x6B0A00000000000000100000000001A7⟩,
      ⟨4, ⟨4096, 1, none, some 6⟩, 0x6B0A00000000000000100000000001A7⟩, _, ok_of (by decide +kernel), got_eq (by decide +kernel),
      ⟨by decide +kernel, ok_of (by decide +kernel)⟩, by decide +kernel, by decide +kernel, by decide +kernel, rfl⟩ (by decide +kernel)
  · exact crew _ tiled _ (by decide +kernel) ⟨⟨4, ⟨4096, 1, none, some 6⟩, 0x6B0A00000000000000100000000001A7⟩, _, by decide +kernel,
      ok_of (by decide +kernel), got_eq (by decide +kernel), ⟨by decide +kernel, ok_of (by decide +kernel)⟩, rfl⟩ (by decide +kernel)
  · exact crew _ tiled _ (by decide +kernel) ⟨⟨3, ⟨3072, 1, none, some 6⟩, 0x6B0A00000000000000100000000001A7⟩,
      ok_of (by decide +kernel), okd_eq (by decide +kernel)⟩ (by decide +kernel)
  · exact crew _ headerRegs _ (by decide +kernel) ⟨⟨4, ⟨4096, 1, none, some 6⟩, 0x6B0A00000000000000100000000001A7⟩, _, _, _,
      ok_of (by decide +kernel), got_eq (by decide +kernel), okd_eq2 (by decide +kernel), by decide +kernel, by decide +kernel, rfl⟩
      (by decide +kernel)
  · exact crew _ tiled _ (by decide +kernel) ⟨⟨3, ⟨3072, 1, none, some 6⟩, 0x6B0A00000000000000100000000001A7⟩, _,
      ok_of (by decide +kernel), got_eq (by decide +kernel), by decide +kernel, _,
      ⟨_, _, _, ⟨got_eq (by decide +kernel), by decide +kernel, okd_eq (by decide +kernel)⟩, by decide +kernel, by decide +kernel,
        ok_of (by decide +kernel), okd_eq (by decide +kernel), rfl⟩, rfl⟩ (by decide +kernel)
  · exact crew _ tiled _ (by decide +kernel) ⟨⟨3, ⟨3072, 1, none, some 6⟩, 0x6B0A00000000000000100000000001A7⟩, _, fun _ => (0, 0),
      ok_of (by decide +kernel), got_eq (by decide +kernel), by decide +kernel, by decide +kernel, by decide +kernel, by decide +kernel, _,
      ⟨_, _, ⟨got_eq (by decide +kernel), by decide +kernel, okd_eq (by decide +kernel)⟩, by decide +kernel, by decide +kernel,
        by decide +kernel, ok_of (by decide +kernel), rfl⟩, rfl⟩ (by decide +kernel)
  · exact crew _ tiled _ (by decide +kernel) ⟨⟨3, ⟨3072, 1, none, some 6⟩, 0x6B0A00000000000000100000000001A7⟩, _,
      ok_of (by decide +kernel), got_eq (by decide +kernel), by decide +kernel, ok_of (by decide +kernel), rfl⟩ (by decide +kernel)
  · exact crew _ tiled _ (by decide +kernel) ⟨by decide +kernel, by
      intro o ho; exact absurd ho (by rw [show tiled.tileOps = [] from rfl]; simp), rfl⟩ (by decide +kernel)
  · exact crew _ planDev _ (by decide +kernel) ⟨_, _, _, _, _, _, by decide +kernel, by decide +kernel, by decide +kernel,
      okd_eq3 (by decide +kernel), by decide +kernel, okd_eq3 (by decide +kernel), by decide +kernel, rfl⟩ (by decide +kernel)

/-! ## Witnesses: events of the memory system -/

/-- An event goes on to a next state. -/
def goes (i : Instr) (s : State) : Bool := match exec i s with | .next _ => true | _ => false

/-- Line 0 in its slice, and message 5 with the bytes of a store of thread 0 to it. -/
def lineOf : L2Line := ⟨State.reset.belowLine 0 0, 0, 3, 9, none, .none, false, false, false⟩
def sentEntry (bytes : List (Nat × Byte)) : StoreEntry :=
  { launch := 0, core := 0, slot := 0, place := .dev 0 0, key := 0, rep := false, comp := false, bytes, b := 4
    feeders := [(0, 0, 0)], opened := 0, node := none }
def sentDev (bytes : List (Nat × Byte)) : State :=
  { dev (fun x => { x with accs := [Acc.store 5 0 8] }) id id with
    l2 := [(0, lineOf)], msgs := [(5, ⟨sentEntry bytes, .sent, 5⟩)], nextId := 6 }
/-- The first granule whole; its first and last bytes. -/
def whole : List (Nat × Byte) := (List.range 8).map fun i => (i, BitVec.ofNat 8 (i + 1))
def edges : List (Nat × Byte) := [(0, 1), (7, 2)]

theorem witness_StoresReachTheirBytes : ∀ bytes ∈ [whole, edges],
    (sentDev bytes).msgs.get? 5 = some ⟨sentEntry bytes, .sent, 5⟩ ∧ (sentDev bytes).msgReady 5 (sentEntry bytes) = true ∧
    (sentEntry bytes).rep = false ∧
    entryOrdered (sentEntry bytes) ∧ standsAt (sentDev bytes) (0 / 64) 0 0 lineOf ∧ (sentEntry bytes).bytes ≠ [] ∧
    ((sentEntry bytes).part = [] ∧ goes (.sliceWrite 5) (sentDev bytes) = true ∨
      (sentEntry bytes).part ≠ [] ∧ (∀ k ∈ (sentEntry bytes).part, (lineOf.gr.getD k ⟨0, 0, true⟩).check (0 + 8 * k) = none) ∧
      goes (.laneMerge 5) (sentDev bytes) = true) := by
  unfold entryOrdered standsAt
  decide +kernel

/-- A load of line 1 by thread 0, that waits for the line, or whose request may go; write queue 0 holds line 0. -/
def loading (l2 : Tab L2Line) : State :=
  { dev (fun x => { x with accs := [Acc.load 64 (.dev 64 64) 8 0 .zx 4 true none none none], wait := .regs }) id id with l2 }
def drainable : State := { base with wqs := [(msliceOf 0, [⟨0, lineOf.gr, 0, false⟩])] }

theorem mem_of_getD {t : Tab (List α)} {m : Nat} {a : α} (h : a ∈ t.getD m []) : ∃ l, (m, l) ∈ t ∧ a ∈ l := by
  induction t with
  | nil => simp [Tab.getD, Tab.get?] at h
  | cons e r ih =>
    by_cases hk : e.1 = m
    · exact ⟨e.2, by simp [← hk], by simpa [Tab.getD, Tab.get?, hk] using h⟩
    · obtain ⟨l, h1, h2⟩ := ih (by simpa [Tab.getD, Tab.get?, hk] using h)
      exact ⟨l, List.mem_cons_of_mem _ h1, h2⟩
/-- The queues of the fixtures are ordered, as evaluation shows entry by entry. -/
theorem queues_ordered {s : State} (h : Memory.wf s = true ∧ ∀ q ∈ s.wqs, ∀ e ∈ q.2, e.gr.length = 8 ∧ msliceOf e.line = q.1) :
    queuesOrdered s := by
  refine ⟨h.1, fun m e he => ?_⟩
  obtain ⟨l, h1, h2⟩ := mem_of_getD he
  exact h.2 _ h1 _ h2

theorem witness_MovingLinesKeepsTheirBytes :
    (∀ s ∈ [loading [], loading [(1, lineOf)], lined, drainable, { lined with l2 := [(0, { lineOf with recalled := true, holder := .core 0 })] }],
      queuesOrdered s) ∧
    ((loading []).l2.get? 1 = none ∧ (loading []).lineWanted 1 0 = true ∧ (loading []).wqLine 1 = none ∧ (loading []).hbmErrs = [] ∧
      ((loading []).mslices.getD (msliceOf 1) .init).writing = false ∧
      (((loading []).l2.filter fun e => l2Set e.1 == l2Set 1).length < 16)) ∧
    (∀ err ∈ [PhysErr.none, .corrected, .uncorrectable], goes (.hbmRead 1 0 err) (loading []) = true) ∧
    drainable.wqs.getD (msliceOf 0) [] ≠ [] ∧ drainable.readsWait (msliceOf 0) = false ∧ goes (.writeQueueDrain (msliceOf 0)) drainable = true ∧
    goes (.recallReturn 0) { lined with l2 := [(0, { lineOf with recalled := true, holder := .core 0 })] } = true ∧
    goes (.loadRequest 0) (loading [(1, lineOf)]) = true ∧ ((loading [(1, lineOf)]).threads.get? 0).any ((loading [(1, lineOf)]).mayBind 0) = true ∧
    goes (.refresh 6143) base = true ∧
    goes (.patrolScrub (2 * dieBytes / 64 - 1) .uncorrectable) base = true ∧ (lineOf.dirty = true ∨ lineOf.gr = lined.belowLine 0 lineOf.key) ∧
    ∃ s : State, Config.rfmThreshold ≤ (s.mslices.getD 6143 .init).acts.getD 3 0 := by
  refine ⟨fun s hs => queues_ordered ?_, ?_, ?_, ?_, ?_, ?_, ?_, ?_, ?_, ?_, ?_, ?_, { base with mslices := [(6143, ⟨0, [(3, Config.rfmThreshold)], false⟩)] }, Nat.le_refl _⟩
  · revert s; decide +kernel
  all_goals decide +kernel

/-- The same load with its answer at hand, whose lease reaches to `rts`; an atom of scope .sys before line 1, which nobody holds. -/
def answered (rts : Nat) (mixed : Bool) : State :=
  { dev (fun x => { x with lt := 9, accs := [Acc.load 64 (.dev 64 64) 8 0 .zx 4 true none none (some ⟨lineOf.gr, 3, rts, 0, mixed⟩)] }) id id with
    l2 := [(1, lineOf)] }
def atomic : State :=
  { dev (fun x => { x with
      accs := [Acc.atom 64 (.dev 64 64) .w64 .add .sys 0 4 true 5 0 [.oc 0, .oc 4]], wait := .regs }) id id with
    l2 := [(1, { lineOf with gr := State.reset.belowLine 1 0 })] }

theorem witness_LoadsAndAtomsAtTheirSlice :
    (∃ x g, (loading [(1, lineOf)]).threads.get? 0 = some x ∧ (loading [(1, lineOf)]).gangs.get? (gangOf 0) = some g ∧
      x.accs = Acc.load 64 (.dev 64 64) 8 0 .zx 4 true none none none :: [] ∧ (loading [(1, lineOf)]).l2.get? (64 / 64) = some lineOf ∧
      (loading [(1, lineOf)]).mayBind 0 x = true ∧ lineOf.holder.open (some g.core) = true ∧ goes (.loadRequest 0) (loading [(1, lineOf)]) = true) ∧
    (∀ e ∈ [(70, false), (9, true), (8, false)], ∃ x g, (answered e.1 e.2).threads.get? 0 = some x ∧
      (answered e.1 e.2).gangs.get? (gangOf 0) = some g ∧
      x.accs = Acc.load 64 (.dev 64 64) 8 0 .zx 4 true none none (some ⟨lineOf.gr, 3, e.1, 0, e.2⟩) :: [] ∧
      (answered e.1 e.2).mayBind 0 x = true ∧
      (answered e.1 e.2).boundOf 0 x (.load 64 (.dev 64 64) 8 0 .zx 4 true none none (some ⟨lineOf.gr, 3, e.1, 0, e.2⟩)) = 9 ∧
      goes (.loadDataReturn 0) (answered e.1 e.2) = true) ∧
    (∃ x g l p s2, atomic.threads.get? 0 = some x ∧ atomic.gangs.get? (gangOf 0) = some g ∧
      x.accs = Acc.atom 64 (.dev 64 64) .w64 .add .sys 0 4 true 5 0 [.oc 0, .oc 4] :: [] ∧ atomic.loose.get? 0 = none ∧ atomic.frameBusy 0 = false ∧
      atomic.l2.get? (64 / 64) = some l ∧ l.holder = .none ∧
      atomic.atomLine 64 64 0 .w64 (fun old => atomNew .add .w64 old 5 0) .sys (atomic.scopeInst 0 .sys) .none
        (atomic.boundOf 0 x (.atom 64 (.dev 64 64) .w64 .add .sys 0 4 true 5 0 [.oc 0, .oc 4])) = .ok p ∧
      State.writeFor [atomResult .add .w64 p.1] 4 true (atomic.pairOf 0)
        (State.commitAll [.oc 0, .oc 4] (atomic.queuesOf (gangOf 0)) (atomic.pairOf 0) (p.2.2.popAcc 0)) = .ok s2 ∧
      goes (.l2Atomic 0) atomic = true) := by
  refine ⟨⟨_, _, got_eq (by decide +kernel), got_eq (by decide +kernel), ?_, ?_, ?_, ?_, ?_⟩, fun e he => ?_,
    ⟨_, _, _, _, _, got_eq (by decide +kernel), got_eq (by decide +kernel), ?_, ?_, ?_, got_eq (by decide +kernel), ?_,
      okd_eq (by decide +kernel), okd_eq (by decide +kernel), ?_⟩⟩
  case refine_6 =>
    simp only [List.mem_cons, List.not_mem_nil, or_false] at he
    rcases he with rfl | rfl | rfl <;>
      exact ⟨_, _, got_eq (by decide +kernel), got_eq (by decide +kernel), by decide +kernel, by decide +kernel, by decide +kernel,
        by decide +kernel⟩
  all_goals decide +kernel

/-- An entry that has been open for 32 cycles; a performed message; a replica update before and after its copy has applied it; a
device whose timestamps have reached the threshold; a lane group after 16 failures, with spares and without. -/
def openEntry : State :=
  ({ base with time := 32 }).setCore 0 fun c => { c with coal := [(0, [(7, sentEntry edges)])] }
def performed : State :=
  { dev (fun x => { x with accs := [Acc.store 5 0 8] }) id id with msgs := [(5, ⟨sentEntry whole, .performed 9 [], 5⟩)] }
def updating (ts2 : Option Nat) : State :=
  { lined with replicas := [(3, ⟨0, 0, [(0, ⟨0, 0, false⟩)], 0, false, 12, ts2, [0], none⟩)] }
def lateDev : State := { lined with mts := [(0, 2 ^ 40 - 1)] }
def failing (spares : Nat) : State := { base with chain := [(1 + 2 * 2, ⟨16, spares⟩)] }

theorem witness_MemoryHousekeeping :
    (((7, sentEntry edges) ∈ (openEntry.core 0).coal.getD 0 []) ∧ (sentEntry edges).opened + 32 ≤ openEntry.time ∧
      goes (.coalescerTimeout 0 0) openEntry = true) ∧
    (performed.msgs.get? 5 = some ⟨sentEntry whole, .performed 9 [], 5⟩ ∧ (sentEntry whole).node = none ∧ goes (.storeAck 5) performed = true) ∧
    (∃ r, (updating none).replicas.get? 3 = some r ∧ r.ts2 = none ∧ (updating none).replicaWaits 3 r = false ∧
      (updating none).repMarks = [] ∧
      goes (.replicaUpdate 3) (updating none) = true) ∧
    (∃ r, (updating (some 20)).replicas.get? 3 = some r ∧ r.ts2 = some 20 ∧ r.copy = none ∧ r.threads = [0] ∧ goes (.replicaAck 3) (updating (some 20)) = true) ∧
    (lateDev.rebaseDue = true ∧ lateDev.storesBound = true ∧ lateDev.imaged = [] ∧ goes .rebase lateDev = true) ∧
    goes (.chainFlitCrcFail 1 2) base = true ∧
    (∀ n ∈ [0, 1], 16 ≤ ((failing n).laneGroup 1 2).fails ∧ ((failing n).laneGroup 1 2).spares = n ∧ goes (.chainLaneRepair 1 2) (failing n) = true) := by
  refine ⟨by decide +kernel, by decide +kernel, ⟨_, got_eq (by decide +kernel), by decide +kernel⟩,
    ⟨_, got_eq (by decide +kernel), by decide +kernel⟩, by decide +kernel, by decide +kernel, by decide +kernel⟩

/-- Address space 0 has its root table at PA 0; a 1 GiB leaf maps VA 0x4000_0000. Thread 0 waits on a walk to it. -/
def walking : State :=
  { base with
    hbm := { bytes := [(0, 0x01), (3, 0x02), (131080, 0x0B), (131083, 0x40)], grains := [(0, 0xD4), (16385, 0xEE)], poison := [] }
    host := { base.host with aspaces := [(0, 1)] }, walks := [(3, ⟨0, 0, 0, 0x4000, [.thread 0 0x40000000 .load], []⟩)] }
/-- The device after the loads of the walk's entries. -/
def walked : State := walking.walkLoads [] 0 (65536 * 0x4000)
/-- A walk whose waiter found the fault buffer full; a fault-buffer entry that thread 0 waits on; code at 0 translated. -/
def heldWalk : State := { base with walks := [(3, ⟨0, 0, 0, 0x4000, [], [(.thread 0 0x40000000 .load, 0)]⟩)] }
def faulted : State :=
  { dev (fun x => { x with wait := .fault 1 4095 }) id id with
    faults := [(fkey 1 4095, ⟨0, 0, 0, 0, 0, .load, 2 ^ 41 - 1, [(.thread 0 0x1FFFFFFFFFF0000 .load, 0)]⟩)] }
def codeAt0 : State := base.setCore 0 fun c => { c with tlb := [⟨0, 0, 21, 0x13⟩] }
/-- A walk without an address-space entry; a code line that is not translated, and one that is, with a parity error. -/
def failedWalk : State :=
  { dev (fun x => { x with wait := .walk 3 }) id id with walks := [(3, ⟨0, 0, 0, 0x4000, [.thread 0 0x40000000 .load], []⟩)] }
def unmapped : State := base.setCore 0 fun c => { c with tlb := [] }
def codeLined : State := codeAt0.setCore 0 fun c => { c with icache := [⟨0, 0, List.replicate 64 0, false, false⟩] }

theorem witness_TranslationAndFetchEvents :
    (∃ k e, walking.walks.get? 3 = some k ∧ k.waiters = [.thread 0 0x40000000 .load] ∧ k.held = [] ∧
      walking.inWalkers 3 k = true ∧ walked.sameWalks 3 k = [3] ∧ walked.waiterSlot (.thread 0 0x40000000 .load) = none ∧
      walked.walk (walking.walkCache.getD k.die []) k.aspace (0x40000000 : Word).toNat .load none = .ok e ∧ goes (.pageWalk 3) walking = true) ∧
    (∃ k, heldWalk.walks.get? 3 = some k ∧ k.waiters = [] ∧ k.held = [(.thread 0 0x40000000 .load, 0)] ∧ heldWalk.faultRoom k = true ∧
      goes (.faultEntryRetry 3) heldWalk = true) ∧
    (codeAt0.icLine 0 0 0 = none ∧ codeAt0.oldCode 0 0 = [] ∧ (∃ e, codeAt0.tlbLook 0 none 0 (64 * 0) .fetch none = some e ∧ e.place (64 * 0) 0 = .dev 0 0) ∧
      goes (.instructionFetch 0 0 0 false) codeAt0 = true) ∧
    ((∃ l, base.icLine 0 0 0x8000 = some l) ∧ goes (.instructionFetch 0 0 0x8000 true) base = true) ∧
    (∃ f x, faulted.faults.get? (fkey 1 4095) = some f ∧ f.vpn = 2 ^ 41 - 1 ∧ f.waiters = [(.thread 0 0x1FFFFFFFFFF0000 .load, 0)] ∧
      faulted.host.recovery = false ∧ faulted.pairOf 0 = [0] ∧ faulted.threads.get? 0 = some x ∧ x.wait = .fault 1 4095 ∧
      goes (.resolveRetry 1 4095 (2 ^ 41 - 1)) faulted = true ∧ goes (.resolveFail 1 4095 (2 ^ 41 - 1)) faulted = true) ∧
    (∃ k x, failedWalk.walks.get? 3 = some k ∧ k.waiters = [.thread 0 0x40000000 .load] ∧ k.held = [] ∧ failedWalk.inWalkers 3 k = true ∧
      failedWalk.threads.get? 0 = some x ∧ x.wait = .walk 3 ∧ failedWalk.faultRoom k = true ∧
      (failedWalk.walkLoads [] 0 (65536 * 0x4000)).sameWalks 3 k = [3] ∧
      (failedWalk.walkLoads [] 0 (65536 * 0x4000)).walk (failedWalk.walkCache.getD k.die []) k.aspace 0x40000000 .load
        ((failedWalk.walkLoads [] 0 (65536 * 0x4000)).waiterSlot (.thread 0 0x40000000 .load)) = .fail 0 ∧
      goes (.pageWalk 3) failedWalk = true) ∧
    ((∃ l, unmapped.icLine 0 0 0x8000 = some l) ∧ unmapped.tlbLook 0 none 0 (64 * 0x8000) .fetch none = none ∧
      goes (.instructionFetch 0 0 0x8000 true) unmapped = true) ∧
    ((∃ l, codeLined.icLine 0 0 0 = some l) ∧ (∃ e, codeLined.tlbLook 0 none 0 (64 * 0) .fetch none = some e ∧ e.place (64 * 0) 0 = .dev 0 0) ∧
      goes (.instructionFetch 0 0 0 true) codeLined = true) := by
  refine ⟨⟨_, ⟨0, 0x40000000, 30, 0x4000000B⟩, got_eq (by decide +kernel), ?_, ?_, ?_, ?_, ?_, ?_, ?_⟩, ⟨_, got_eq (by decide +kernel), ?_, ?_, ?_, ?_⟩,
    ⟨?_, ?_, ⟨_, got_eq (by decide +kernel), ?_⟩, ?_⟩, ⟨⟨_, got_eq (by decide +kernel)⟩, ?_⟩,
    ⟨_, _, got_eq (by decide +kernel), ?_, ?_, ?_, ?_, got_eq (by decide +kernel), ?_, ?_, ?_⟩,
    ⟨_, _, got_eq (by decide +kernel), ?_, ?_, ?_, got_eq (by decide +kernel), ?_, ?_, ?_, ?_, ?_⟩, ⟨⟨_, got_eq (by decide +kernel)⟩, ?_, ?_⟩,
    ⟨⟨_, got_eq (by decide +kernel)⟩, ⟨_, got_eq (by decide +kernel), ?_⟩, ?_⟩⟩ <;> decide +kernel

/-! ## Witnesses: events of copies, tile units and the pool -/

/-- A copy of thread 0's crew in a state of its life, from a record at `va`. -/
def copyOf (va : Word) (phase : CopyPhase) (orphan : Bool) (env : Option Gang) : Copy :=
  { gang := 0, crew := 0, core := 0, op := .cpIn, tok := 31, handle := 4, recVa := va, origin := 0, aux := 0, tsi := 3, tsc := 8
    phase, xfer := .init, orphan, prologue := false, env }
def copying (va : Word) (phase : CopyPhase) (orphan : Bool) (env : Option Gang) : State :=
  { tiled with copies := [(9, copyOf va phase orphan env)] }
def operating : State := { tiled with tileOps := [(9, ⟨0, 0, .mrsum, 4, 3, 4, 0x6B0A00000000000000100000000001A7,
  0x6B0A00000000000000100000000001A7, 0x6B0A00000000000000100000000001A7⟩)] }

/-- Queued, landed, and landed after its gang was killed. -/
def queuedCopy (va : Word) : State := copying va .queued false none
def landedCopy : State := copying 0 (.landed 1) false none
def orphanCopy : State := copying 0 (.landed 1) true (some (.placed 0 1 0 0))
/-- A multicast to its own tile alone; a copy that met poison, of a gang that runs and of a killed one; a killed gang's that waits. -/
def castCopy : Copy := { copyOf 0 .queued false none with op := .cpMc, aux := 1, handle := 5 }
def casting : State := { tiled with
  gangs := tiled.gangs.modify 0 fun g => { g with handles := g.handles.set 5 ⟨5120, 1, none, some 6⟩ }, copies := [(9, castCopy)] }
def spoiledCopy : State := copying 0 (.landed 0x3100000001) false none
def spoiledOrphan : State := copying 0 (.landed 0x3100000001) true (some (.placed 0 1 0 0))
def waitingOrphan : State := copying 0 (.faulted 0 7 4) true (some (.placed 0 1 0 0))

theorem witness_CopiesAndTileInstructionsComplete :
    ((queuedCopy 63).nextCopy 0 = some (9, copyOf 63 .queued false none) ∧ (queuedCopy 63).canAccept 0 = true ∧
      (copyOf 63 .queued false none).xfer.record = none ∧
      (queuedCopy 63).copies.get? 9 = some (copyOf 63 .queued false none) ∧
      ((queuedCopy 63).copyGang (copyOf 63 .queued false none)).isSome ∧ goes (.copyAccept 0) (queuedCopy 63) = true) ∧
    (landedCopy.copies.get? 9 = some (copyOf 0 (.landed 1) false none) ∧ (landedCopy.gangs.get? 0).isSome ∧
      (∀ r ∈ landedCopy.replicas, r.2.copy ≠ some 9) ∧ copyTrigger 1 = none ∧ (landedCopy.crews.get? (ckey 0 0)).isSome ∧
      goes (.copyComplete 9) landedCopy = true) ∧
    ((∀ r ∈ orphanCopy.replicas, r.2.copy ≠ some 9) ∧ goes (.copyComplete 9) orphanCopy = true) ∧
    ((operating.tileOps.get? 9).isSome ∧ goes (.tileInstructionComplete 9) operating = true) ∧
    (casting.rebaseDue = false ∧ casting.nextCopy 0 = some (9, castCopy) ∧ casting.engineHolds 0 < 8 ∧ casting.mcBusy castCopy = false ∧
      casting.copies.get? 9 = some castCopy ∧
      ((casting.gangs.get? 0).any fun g => ((casting.mcDests g 0 9 5 1).1.map (·.1)) == [0]) = true ∧ goes (.copyAccept 0) casting = true) ∧
    (copyTrigger 0x3100000001 = some 0x31 ∧ (spoiledCopy.gangs.get? 0).isSome ∧ goes (.copyComplete 9) spoiledCopy = true) ∧
    goes (.copyComplete 9) spoiledOrphan = true ∧ goes (.copyComplete 9) waitingOrphan = true := by
  refine ⟨⟨?_, ?_, ?_, ?_, ?_, ?_⟩, ⟨?_, ?_, ?_, ?_, ?_, ?_⟩, ⟨?_, ?_⟩, ⟨?_, ?_⟩, ⟨?_, ?_, ?_, ?_, ?_, ?_, ?_⟩, ⟨?_, ?_, ?_⟩, ?_, ?_⟩
  all_goals decide +kernel

/-- A request for two acres, `frame` of them for a frame area, at the allocator of core 0 in a phase; acres on their way out; gangs
that wait for the pool. -/
def requesting (phase : ReqPhase) (frame : Nat) : State :=
  (dev (fun x => { x with wait := .grow }) (fun g => { g with slack := [64, 65], drawn := [(0, [66])] }) id).setCore 0 fun c =>
    { c with reqs := [⟨.grow 0 0 32 (.oc 2), 2, frame, phase⟩], outs := [(0, 2)] }
def starved : State := { requesting .waiting 2 with time := 4096 }
def benched : State := dev id (fun g => { g with phase := .stopping .bench }) id
/-- An admission of a second gang, whose context area is mapped, at the head of the requests. -/
def admitting : State :=
  (({ walking with walks := [], gangs := walking.gangs.set 2 { Gang.placed 0 3 0 0 with phase := .admitting } }.modL 0 fun l =>
    { l with record := { l.record with ctxVa := 0x40010000 }, sets := [] }).setCore 0 fun c =>
      { c with reqs := [⟨.admission 2, 5, 4, .waiting⟩] })

theorem pres_of {p : Except ε α × State} {a : α} (h : p.1.toOption = some a) : p = (.ok a, p.2) := Prod.ext (ok_of h) rfl

theorem witness_TheAllocatorServes :
    (((requesting .waiting 2).core 0).reqs = [⟨.grow 0 0 32 (.oc 2), 2, 2, .waiting⟩] ∧ 2 + 8 ≤ ((requesting .waiting 2).core 0).loan ∧
      goes (.allocatorServe 0) (requesting .waiting 2) = true) ∧
    (∃ g l v, (admitting.core 0).reqs = [⟨.admission 2, 5, 4, .waiting⟩] ∧ 5 + 8 ≤ (admitting.core 0).loan ∧
      admitting.gangs.get? 2 = some g ∧ admitting.canPlace 0 g = true ∧ admitting.launches.get? g.slot = some l ∧
      admitting.placeGang 0 2 g l = (.ok (), v)) ∧
    (∀ frame ∈ [1, 2], goes (.acreDrained 0) (requesting .drain frame) = true) ∧
    goes (.acreFilled 0) (requesting .fill 0) = true ∧
    (((requesting .waiting 2).core 0).outs = [(0, 2)] ∧ goes (.acreWriteoutAck 0) (requesting .waiting 2) = true) ∧
    (starved.readyStop 0 .bench = none ∧ starved.residents 0 ≠ [] ∧ (∀ gk ∈ starved.residents 0, starved.inPoolWait gk = true) ∧
      (starved.core 0).lastReturn + 4096 ≤ starved.time ∧ goes (.bench 0) starved = true) ∧
    ((benched.readyStop 0 .bench).isSome ∧ goes (.bench 0) benched = true) ∧
    ((requesting .fill 2).gangs.get? (0 / 32)).any (fun g => g.drawn.getD 0 [] == [66] && g.slack == [64, 65]) = true ∧
    ((requesting .fill 2).crews.get? 0).isSome := by
  refine ⟨?_, ⟨_, _, _, ?_, ?_, got_eq (by decide +kernel), ?_, got_eq (by decide +kernel), pres_of (by decide +kernel)⟩,
    ?_, ?_, ?_, ?_, ?_, ?_, ?_⟩
  all_goals decide +kernel

/-! ## Witnesses: what tile instructions write -/

/-- The tiles with data: planes in m0 and m1, 1.0 in m3, 2.0 in m4, minus infinity before 0.0 in m6; and an instruction on them. -/
def toWrite (kind : TileOpKind) (d a b : Nat) (hd ha hb : BitVec 128) : State := { tiled with
  pool := { tiled.pool with
    bytes := ([(4128, 0xF5), (5152, 0x3F), (6176, 7), (7202, 0x80), (7203, 0x3F), (8227, 0x40), (10274, 0x80), (10275, 0xFF)] :
      List (Nat × Byte)).foldl (fun t e => cellSet t 0 e.1 e.2) tiled.pool.bytes }
  tileOps := [(9, ⟨0, 0, kind, d, a, b, hd, ha, hb⟩)] }
def hA : BitVec 128 := 0x925B00000000000000101F00060057A7
def hB : BitVec 128 := 0xF74500000000000000100001FA0057A7
def hS32 : BitVec 128 := 0xCB14000000000000001000000C0010A7
def hF32 : BitVec 128 := 0x6B0A00000000000000100000000001A7
def hTwo : BitVec 128 := 0x802900000000000000100100000001A7
/-- A row of 32 .f32 elements. -/
def hRow : BitVec 128 := (mkHdr 0 31 .f32 0 0 0 false).bits

/-- The granules of a tile's first `n` bytes lie apart, by evaluation. -/
def apart (x : Gang) (h : Handle) (n : Nat) : Bool :=
  let l := List.range ((n + 7) / 8)
  l.all fun i => x.tilePa (h.off + 8 * i) % 8 == 0 && l.all fun j => x.tilePa (h.off + 8 * i) != x.tilePa (h.off + 8 * j) || i == j
theorem apart_of {x : Gang} {h : Handle} {n : Nat} (H : apart x h n = true) : tileApart x h n := by
  intro i j hi hj
  simp only [apart, List.all_eq_true, List.mem_range, Bool.and_eq_true, Bool.or_eq_true, beq_iff_eq, bne_iff_ne] at H
  obtain ⟨h1, h2⟩ := H i (by omega)
  exact ⟨h1, fun h3 => (h2 j (by omega)).resolve_left fun h4 => h4 h3⟩

/-- A tile instruction in progress whose tile's bytes lie apart, and what it writes where the statement says so. -/
def Written (s : State) (d a b : Nat) (el : Gang → Handle → Handle → Handle → Nat → Nat → Nat) : Prop :=
  ∃ o x hd ha hb, TileInProgress s 9 o x hd ha hb ∧ Memory.wf s = true ∧ o.d = d ∧ o.a = a ∧ o.b = b ∧
    tileApart x hd (32 + 32 * (Hdr.ofBits o.hd).pitch * ((Hdr.ofBits o.hd).rows + 1)) ∧
    4 * ((Hdr.ofBits o.hd).cols + 1) ≤ 32 * (Hdr.ofBits o.hd).pitch ∧
    (match exec (.tileInstructionComplete 9) s with
      | .next u => (List.range ((Hdr.ofBits o.hd).cols + 1)).all fun j =>
          u.el32 x hd (Hdr.ofBits o.hd) 0 j == el x hd ha hb 0 j % 2 ^ 32
      | _ => false) = true

theorem witness_TileInstructionsWriteTheirTiles :
    Written (toWrite (.mma false 7) 2 0 1 hS32 hA hB) 2 0 1 (fun x d a b i j =>
      mmaInt (toWrite (.mma false 7) 2 0 1 hS32 hA hB) x a b (Hdr.ofBits hA).asA (Hdr.ofBits hB).asB false i j
        ((toWrite (.mma false 7) 2 0 1 hS32 hA hB).el32 x d (Hdr.ofBits hS32) i j)) ∧
    Written (toWrite .mrmax 6 3 6 hTwo hF32 hTwo) 6 3 6 (fun _ _ _ _ _ j => if j = 0 then 0x3F800000 else 0) ∧
    Written (toWrite .mrsum 4 3 4 hF32 hF32 hF32) 4 3 4 (fun _ _ _ _ _ _ => 0x40400000) ∧
    Written (toWrite .mexp2 4 6 4 hF32 hTwo hF32) 4 6 4 (fun _ _ _ _ _ _ => 0) ∧
    Written (toWrite .mrscale 4 3 4 hF32 hF32 hF32) 4 3 4 (fun _ _ _ _ _ _ => 0x40000000) ∧
    Written (toWrite (.mmask 0) 4 4 4 hF32 hF32 hF32) 4 4 4 (fun _ _ _ _ _ _ => 0xFF800000) ∧
    ∀ p ∈ [0, 8], ∃ o x d a b, TileInProgress (toWrite (.mcvt .f32 p) 4 3 4 hF32 hRow hF32) 9 o x d a b ∧
      hdrOk o.ha = true ∧ mcvtOk (Hdr.ofBits o.ha) .f32 p = true ∧ tileApart x d (mcvtHdr (Hdr.ofBits o.ha) .f32 p).size ∧
      goes (.tileInstructionComplete 9) (toWrite (.mcvt .f32 p) 4 3 4 hF32 hRow hF32) = true := by
  refine ⟨?_, ?_, ?_, ?_, ?_, ?_, fun p hp => ?_⟩
  iterate 6
    exact ⟨_, _, _, _, _, ⟨got_eq (by decide +kernel), got_eq (by decide +kernel), got_eq (by decide +kernel), got_eq (by decide +kernel),
      got_eq (by decide +kernel)⟩, by decide +kernel, by decide +kernel, by decide +kernel, by decide +kernel, apart_of (by decide +kernel),
      by decide +kernel, by decide +kernel⟩
  simp only [List.mem_cons, List.not_mem_nil, or_false] at hp
  rcases hp with rfl | rfl <;>
    exact ⟨_, _, _, _, _, ⟨got_eq (by decide +kernel), got_eq (by decide +kernel), got_eq (by decide +kernel), got_eq (by decide +kernel),
      got_eq (by decide +kernel)⟩, by decide +kernel, by decide +kernel, apart_of (by decide +kernel), by decide +kernel⟩

/-! ## Witnesses: events of scheduling -/

/-- The launch of the small device with one gang still to dispatch. -/
def dispatching : State := base.modL 0 fun l => { l with nextIndex := 0, sets := [] }
/-- The gang of the small device on the list of its core; with its acres granted; pre-empted and listed again. -/
def listing : State := (dev id (fun g => { g with phase := .preempted, resume := some 0 }) id).setCore 0 fun c => { c with glist := [0] }
def granted : State := (dev id (fun g => { g with phase := .ready false }) id).setCore 0 fun c => { c with glist := [0] }
/-- A span of two gangs that reserves in cluster 0, late enough to age. -/
def spanning : State :=
  { base with
    time := 65536, gangs := base.gangs.set 2 { Gang.placed 0 3 0 0 with phase := .listed }
    spans := base.spans.set 3 ⟨0, 0, [2, 4], Vector.replicate 4 ⟨0, 2, 0, 0⟩, some 0, 0, [], false⟩ }
/-- The same once it has aged, and gang 0 is granted acres for another span. -/
def excluding : State :=
  { spanning with
    gangs := spanning.gangs.modify 0 fun g => { g with phase := .ready false }
    spans := spanning.spans.modify 3 fun p => { p with aged := true } }
/-- A listed gang of queue 1 that has waited; its priority, and the slice of the resident gang's queue. -/
def contending (prio : Nat) : State :=
  let l : Launch := { Launch.placed .placed with queue := 1, nextAdmit := 0, sets := [0] }
  ({ base with
    time := 8 * 235000, launches := base.launches.set 1 l, gangs := base.gangs.set 2 { Gang.placed 1 3 0 0 with phase := .listed, prio }
    queues := [(0, { Queue.init with slice := 8 })] }).setCore 0 fun c => { c with glist := [2] }
def preempting : State := dev id (fun g => { g with phase := .stopping .preempt }) id
def draining : State := { base with time := 9400000 }.setCore 0 fun c => { c with drained := true }
def sleeper : State := dev (fun x => { x with wait := .sleep 0 (.special .zero) }) id id

theorem witness_GangsAreScheduled :
    ((∃ l core, dispatching.dispatchOrder = [(0, l)] ∧ dispatching.launches.get? 0 = some l ∧ l.nodeQueue = [] ∧ l.kernel.span ≤ 1 ∧
      dispatching.listCore ((dispatching.queue l.queue).onDies l.queue) = some core) ∧ goes .dispatch dispatching = true) ∧
    (granted.rebaseDue = false ∧ granted.excludedHere 0 = [] ∧ granted.grantedSpan 0 = some [0] ∧ goes (.admitGang 0) granted = true) ∧
    (excluding.rebaseDue = false ∧ excluding.excludedHere 0 = [0] ∧ goes (.admitGang 0) excluding = true) ∧
    (listing.rebaseDue = false ∧ listing.excludedHere 0 = [] ∧ listing.grantedSpan 0 = none ∧ (∀ e ∈ listing.gangs, e.2.core = 0 → e.2.phase ≠ .prologue) ∧ listing.spanHere 0 = none ∧
      listing.nextListed 0 = some 0 ∧ (listing.tryListed 0 0).isSome ∧ goes (.admitGang 0) listing = true) ∧
    ((base.gangs.get? 0).isSome ∧ (base.gangs.get? 0).any (fun g => 31 < 32 * g.kernel.crews)) ∧
    (∀ c ∈ [0, 19], spanning.averaged.getD c 0 < spanning.time / 256 ∧
      (∀ i < 8, ∀ j < 8, (spanning.averageable (8 * c + i)).length < (spanning.averageable (8 * c + j)).length + 4) ∧ goes (.listAveraging c) spanning = true) ∧
    (∃ k p, spanning.reserving 0 = some (k, p) ∧ p.aged = false ∧ p.chosenAt + 65536 ≤ spanning.time ∧ spanning.spans.get? k = some p ∧
      goes (.spanAge 0) spanning = true) ∧
    (∀ p ∈ [0, 1], (contending p).readyStop 0 .preempt = none ∧ (contending p).stoppingOn 0 = false) ∧
    ((contending 1).prioVictim 0 = some 0 ∧ goes (.preemptPriority 0) (contending 1) = true ∧
      (contending 0).sliceVictim 0 = some 0 ∧ goes (.preemptSlice 0) (contending 0) = true) ∧
    ((∃ gk g, preempting.readyStop 0 .preempt = some (gk, g)) ∧ goes (.preemptPriority 0) preempting = true ∧
      goes (.preemptSlice 0) preempting = true) ∧
    ((draining.core 0).drained = true ∧ (draining.core 0).drainedAt + 9400000 ≤ draining.time ∧ draining.readyStop 0 .drain = none ∧
      draining.running 0 ≠ [] ∧ goes (.drainedCorePreemption 0) draining = true) ∧
    (∃ x, sleeper.threads.get? 0 = some x ∧ x.wait = .sleep 0 (.special .zero) ∧ 0 ≤ sleeper.time ∧ sleeper.isShadow 0 = false ∧ sleeper.pairOf 0 = [0] ∧ goes (.sleepEnd 0) sleeper = true) := by
  refine ⟨⟨⟨got (dispatching.launches.get? 0) (by decide +kernel), 0, ?_, got_eq (by decide +kernel), ?_, ?_, ?_⟩, ?_⟩, ⟨?_, ?_, ?_, ?_⟩, ⟨?_, ?_, ?_⟩, ⟨?_, ?_, ?_, ?_, ?_, ?_, ?_, ?_⟩, ?_, ?_,
    ⟨3, got (spanning.spans.get? 3) (by decide +kernel), ?_, ?_, ?_, got_eq (by decide +kernel), ?_⟩, ?_, ?_,
    ⟨⟨_, _, got_eq (by decide +kernel)⟩, ?_, ?_⟩, ?_, ⟨_, got_eq (by decide +kernel), ?_, ?_, ?_, ?_, ?_⟩⟩ <;> decide +kernel

/-- Eight gangs on the list of core 0, none on its neighbours'. -/
def uneven : State :=
  { base with
    time := 256, gangs := (List.range 8).foldl (fun t i => t.set (2 + i) { Gang.placed 0 3 0 0 with phase := .listed }) base.gangs
    cores := [(0, { Core.init with glist := (List.range 8).map (2 + ·) })] }
theorem witness_ListsAverage : listsAgree uneven ∧ uneven.averaged.getD 0 0 < uneven.time / 256 ∧
    (uneven.averageable 0).length = 8 ∧ ∀ i ∈ [1, 7], (uneven.averageable i).length = 0 := by
  refine ⟨fun c => ?_, by decide +kernel, by decide +kernel, by decide +kernel⟩
  by_cases h : c = 0
  · subst h
    have w : (uneven.core 0).glist.Nodup ∧ ∀ gk ∈ (uneven.core 0).glist, (uneven.gangs.get? gk).any fun g => g.core == 0 := by decide +kernel
    refine ⟨w.1, fun gk hg => ?_⟩
    obtain ⟨g, h1, h2⟩ := (Option.any_eq_true _ _).mp (w.2 gk hg)
    exact ⟨g, h1, beq_iff_eq.mp h2⟩
  · have w : uneven.core c = Core.init := by
      simp only [State.core, uneven, Tab.getD, Tab.get?, if_neg (Ne.symm h), Option.getD]
    rw [w]
    exact ⟨by decide +kernel, by intro gk hg; exact absurd hg (by simp [Core.init])⟩

/-! ## Witnesses: the ends of launches -/

/-- The launch of the small device without its gang. -/
def alone (f : Launch → Launch) : State := { base.modL 0 f with gangs := [], crews := [], threads := [] }
def ending : State := alone fun l => { l with status := .finishing, ct := 5 }
def replaying : State := alone fun l =>
  { l with status := .killed, replays := 1, kernel := { l.kernel with replayable := true } }
/-- Two nodes; the bin of node 1 holds two records and its timer has run out. -/
def binNode (count : Nat) : Node :=
  { kernel := { Kernel.placed with node := true, nodeCount := 3, nodeTimer := 1 }, binVa := 0, binCap := 8, head := 0, count
    since := 0, times := List.replicate count (some 4) }
def binned : State := { alone fun l => { l with nodes := [binNode 0, binNode 2] } with t125 := 94 * 1250 }
/-- The one live thread waits in a pop of queue register 3. -/
def popping : State := dev (fun x => { x with wait := .pop 3 }) (fun g => { g with pops := [(3, 0)] }) id

theorem witness_LaunchesEnd :
    (∃ l, ending.rebaseDue = false ∧ ending.launches.get? 0 = some l ∧ ending.finished 0 l = true ∧ l.replaysAgain = false ∧ goes (.launchComplete 0) ending = true) ∧
    (∃ l, replaying.rebaseDue = false ∧ replaying.launches.get? 0 = some l ∧ replaying.finished 0 l = true ∧ l.status = .killed ∧ l.kernel.replayable = true ∧
      l.fatal = false ∧ l.replays < 2 ∧ goes (.launchReplay 0) replaying = true) ∧
    (∃ l d, binned.launches.get? 0 = some l ∧ binned.nodeOf 0 1 = some d ∧ l.status = .ready ∧ d.kernel.nodeTimer ≠ 0 ∧
      binned.unclaimed 0 1 ≠ 0 ∧ d.since + 1250 * d.kernel.nodeTimer ≤ binned.count125 ∧ goes (.binTimer 0 1) binned = true ∧
      binned.quiet 0 = true ∧ (∀ m ∈ binned.msgs, m.2.e.launch = 0 → m.2.e.node = none) ∧
      (List.range l.nodes.length).filter (fun n => binned.unclaimed 0 n != 0) = [1] ∧ binned.unclaimed 0 1 < d.kernel.nodeCount ∧
      goes (.binDrain 0) binned = true) ∧
    (∃ x y, popping.gangs.get? 0 = some x ∧ popping.stuckWith 0 x = [0] ∧ popping.stuck 0 x = true ∧
      (popping.gangThreads 0).filter (fun u => match popping.threads.get? u with
        | some z => z.live && (popping.internalWait u z x).isSome
        | none => false) = [0] ∧
      popping.threads.get? 0 = some y ∧ y.wait = .pop 3 ∧ goes (.deadlockDetect 0) popping = true) := by
  refine ⟨⟨_, ?_, got_eq (by decide +kernel), ?_, ?_, ?_⟩, ⟨_, ?_, got_eq (by decide +kernel), ?_, ?_, ?_, ?_, ?_, ?_⟩,
    ⟨_, _, got_eq (by decide +kernel), got_eq (by decide +kernel), ?_, ?_, ?_, ?_, ?_, ?_, ?_, ?_, ?_, ?_⟩,
    ⟨_, _, got_eq (by decide +kernel), ?_, ?_, ?_, got_eq (by decide +kernel), ?_, ?_⟩⟩ <;> decide +kernel

/-! ## Witnesses: the launch queues -/

/-- HBM with the granules of a list, made for their addresses. -/
def hbmOf (l : List (Nat × Nat)) : Store :=
  l.foldl (fun h e => h.setGran (e.1 / 8) (Gran.mk' (BitVec.ofNat 64 e.2) e.1)) Store.empty

/-- A root table at PA 0 and its table at PA 0x2_0000: a 1 GiB leaf, W, maps VA 0x4000_0000 to the same PA. There: a launch record, its
entry record at 0x400, argument words of 0 at 0x800. -/
def tables : List (Nat × Nat) := [(0, 0x2000001), (131080, 0x4000000B)]
def launchWords : List (Nat × Nat) :=
  [(0x40000000, 0x40000400), (0x40000008, 0x40000800), (0x40000010, 0x40001000), (0x40000018, 0x40010000), (0x40000020, 0x40002000),
    (0x40000028, 0x40003000), (0x40000040, 1 + 2 ^ 32 + 16 * 2 ^ 48), (0x40000408, 64 + 64 * 2 ^ 32 + 2 ^ 48 + 2 ^ 56)]
def blk (kind : Nat) (arg0 arg1 : Word) : Block :=
  { kind, test := false, top := 4, onfail := 0, link := false, after := false, resv := 0, next := 0x40000400, alt := 0, taddr := 0x40000000
    tval := 0, tmask := 0xFFFF_FFFF_FFFF_FFFF, arg0, arg1 }
/-- Queue 2 with a block in hand; queue 2 has no launch, queue 0 has one. -/
def queueOf (b : Block) : Queue := { Queue.init with block := some b, enable := true, state := 1, passed := true }
def handDev (q : Nat) (b : Block) : State :=
  { base with hbm := hbmOf (tables ++ launchWords), host := { base.host with aspaces := [(0, 1)] }, queues := [(q, queueOf b)] }
def inHand (s : State) (q : Nat) (b : Block) : Bool :=
  !s.rebaseDue && (s.queue q).block == some b && (s.queue q).enable && (s.queue q).state == 1 && (s.queue q).passed && !b.after

theorem inHand_ok {s : State} {q : Nat} {b : Block} (h : inHand s q b = true) : BlockInHand s q b := by
  simp only [inHand, Bool.and_eq_true, beq_iff_eq, Bool.not_eq_true'] at h
  exact ⟨h.1.1.1.1.1, h.1.1.1.1.2, h.1.1.1.2, h.1.1.2, h.1.2, fun ha => by simp [h.2] at ha⟩

def signalDev : State := handDev 2 (blk 3 0x40000000 5)
theorem witness_CommandBlocksPerform :
    (∀ e ∈ [(blk 2 0 0, Instr.waitBlock 2), (blk 4 0 0, .branchOn 2), (blk 3 0x40000000 5, .signalAdd 2),
        (blk 3 (2 ^ 62 + 7) 5, .signalSetCounter 2), (blk 5 3 0, .skip 2), (blk 6 0 0, .fence 2), (blk 8 0x40000000 5, .writeBlock 2),
        (blk 9 0x40000008 0, .timestamp 2), ({ blk 2 0 0 with link := true }, .waitBlock 2)],
      inHand (handDev 2 e.1) 2 e.1 = true ∧ goes e.2 (handDev 2 e.1) = true) ∧ signalDev.earlier 2 = false ∧
    (inHand (handDev 0 (blk 6 0 0)) 0 (blk 6 0 0) = true ∧ (handDev 0 (blk 6 0 0)).earlier 0 = true ∧
      goes (.fence 0) (handDev 0 (blk 6 0 0)) = true) ∧
    (∃ t pa gpa r, (signalDev.procAt (qDie 2) 0 0x40000000 .atomic).1 = .ok t ∧ t.rep = false ∧ t.place = .dev pa gpa ∧
      ((signalDev.fillLine (pa / 64)).recallLine (pa / 64)).atomLine pa gpa t.key .w64 (fun old => (old + (5 : Word)).toNat) .sys 0 .none 0 =
        .ok r) ∧
    ((signalDev.qStore 2 0x40000000 5).1.toOption.isSome ∧ (signalDev.qStore 2 0x40000008 0).1.toOption.isSome) ∧
    (∃ w, (signalDev.qWord 2 0x40000000).1 = .ok w ∧ (blk 3 0x40000000 5).holds w = true) := by
  refine ⟨?_, ?_, ?_, ⟨⟨.dev 0x40000000 0x40000000, 0, false, false⟩, 0x40000000, 0x40000000, _, ok_of (by decide +kernel), ?_, ?_, okd_eq (by decide +kernel)⟩, ?_,
    ⟨0x40000400, ok_of (by decide +kernel), ?_⟩⟩ <;> decide +kernel

/-- A MAP block over `n` pages from VA 0x4000_0000, with its OP; its device. -/
def mapBlk (op n : Nat) : Block := { blk 7 0x40000000 (BitVec.ofNat 64 (op * 2 ^ 32 + n)) with tval := 0x40010000 }
def mapDev (op n : Nat) : State := handDev 2 (mapBlk op n)
/-- The leaves of a page, and the state after they are read. -/
def leavesOf (op n : Nat) : Except Nat (List Nat) × State := (mapDev op n).rangeLeaves 0 0 0x40000000 n
/-- A LAUNCH of the record at VA 0x4000_0000, on queue 2; the parts of its reading. -/
def launchDev : State := handDev 2 (blk 1 0x40000000 0)
def launchRec : Except Nat Nat × State := launchDev.qNat 2 0x40000000 16
def launchR : LaunchRec := LaunchRec.ofNat (launchRec.1.toOption.getD 0)
def launchEntry : Except Nat Nat × State := launchRec.2.qNat 2 launchR.entryVa 16
def launchK : Kernel := Kernel.ofNat (launchEntry.1.toOption.getD 0)
/-- Every launch slot is taken; a test that waits. -/
def taken : State := { handDev 2 (blk 1 0x40000000 0) with launches := (List.range 127).map fun i => (i, .placed .placed) }
def waitDev (mask : Word) : State :=
  { base with
    hbm := hbmOf (tables ++ launchWords), host := { base.host with aspaces := [(0, 1)] }
    queues := [(2, { queueOf { blk 2 0 0 with test := true, tmask := mask } with passed := false, state := 2 })] }

theorem witness_MapAndLaunchBlocksPerform :
    (∀ e ∈ [(0, 1), (1, 1), (2, 1), (3, 0)], inHand (mapDev e.1 e.2) 2 (mapBlk e.1 e.2) = true ∧ (mapBlk e.1 e.2).op = e.1 ∧
      (mapDev e.1 e.2).usesRange 0 (mapBlk e.1 e.2) = false ∧ (leavesOf e.1 e.2).1.toOption.isSome) ∧
    ((leavesOf 1 1).1 = .ok [131080] ∧
      (((leavesOf 1 1).2.oldLines ((leavesOf 1 1).2.rangeLines (qDie 2) ((leavesOf 1 1).2.queue 2).aspace 0x40000000 1)).editLeaves 2 false true [131080]).1.toOption.isSome ∧
      ((leavesOf 2 1).2.editLeaves 2 true false [131080]).1.toOption.isSome ∧
      ((leavesOf 3 0).2.copyWords 2 0x40010000 0x40000000 (8192 * 0)).1.toOption.isSome) ∧
    (goes (.invalidate 2) (mapDev 0 1) = true ∧ goes (.unmapX 2) (mapDev 1 1) = true ∧ goes (.mapX 2) (mapDev 2 1) = true ∧
      goes (.writeCode 2) (mapDev 3 0) = true) ∧
    (inHand launchDev 2 (blk 1 0x40000000 0) = true ∧ launchDev.freeSlot = some 1 ∧ launchRec.1.toOption.isSome ∧
      recReserved (launchRec.1.toOption.getD 0) launchR = false ∧ launchR.badAddr = false ∧ launchEntry.1.toOption.isSome ∧
      entryOk .b1 (launchEntry.1.toOption.getD 0) false = true ∧ launchK.span ≤ launchR.gsets ∧ launchR.gsets ≠ 0 ∧ launchR.gangs ≠ 0 ∧
      launchR.stackWords ≠ 0 ∧ launchR.stackWords ≤ 16384 ∧ launchR.nodesN = 0 ∧ launchR.planVa = 0 ∧
      (qReads (fun s a => s.qWord 2 a) launchR.argVa 16 launchEntry.2).1.toOption.isSome ∧ goes (.launch 2) launchDev = true) ∧
    (inHand taken 2 (blk 1 0x40000000 0) = true ∧ taken.freeSlot = none ∧ goes (.launch 2) taken = true) ∧
    (∀ mask ∈ [0xFFFFFFFFFFFFFFFF, 0], let s := waitDev mask
      (s.queue 2).enable = true ∧ (s.queue 2).state = 2 ∧ (s.queue 2).passed = false ∧ s.rebaseDue = false ∧
      (s.qWord 2 0x40000000).1 = .ok 0x40000400 ∧ goes (.blockTestRetry 2) s = true) := by
  refine ⟨?_, ⟨ok_of (by decide +kernel), ?_⟩, ?_, ?_, ?_, ?_⟩
  · decide +kernel
  · decide +kernel
  · decide +kernel
  · decide +kernel
  · decide +kernel
  · simp only [List.forall_mem_cons, List.not_mem_nil, false_implies, implies_true, and_true]
    refine ⟨⟨?_, ?_, ?_, ?_, ok_of ?_, ?_⟩, ?_, ?_, ?_, ?_, ok_of ?_, ?_⟩ <;> decide +kernel

/-! ## Witnesses: BAR0 and Porast -/

/-- Queue 63 enabled; halted with two error bits. -/
def enabledQ : State := { base with queues := [(63, { Queue.init with enable := true, state := 1 })] }
def haltedQ : State := { base with queues := [(63, { Queue.init with enable := true, state := 3, err := 3 })] }

theorem witness_HostWritesRegisters :
    (base.host.recovery = false ∧ goes (.qwptrWrite 63 5) base = true) ∧
    ((0x1 : Word).getLsbD 0 = true ∧ (base.queue 63).enable = false ∧ (base.queue 63).state = 0 ∧ goes (.qcfgEnable 63 0x1) base = true) ∧
    ((enabledQ.queue 63).enable = true ∧ (enabledQ.queue 63).state ≠ 3 ∧ goes (.qcfgDisable 63 0) enabledQ = true) ∧
    (fld (1 + 2 ^ 40) 40 8 ≠ 0 ∧ (haltedQ.queue 63).enable = true ∧ (haltedQ.queue 63).state = 3 ∧
      (haltedQ.queue 63).err &&& ~~~(BitVec.ofNat 8 (fld (1 + 2 ^ 40) 40 8)) ≠ 0 ∧
      goes (.qcfgErrClear 63 (BitVec.ofNat 64 (1 + 2 ^ 40))) haltedQ = true) ∧
    (goes (.registerWrite (0x2000 + 8 * 255) true 1) base = true ∧ goes (.registerWrite 3 false 1) base = true ∧
      goes (.intstatClear 0x1F) base = true ∧ goes (.intstatClear 0x20) base = true ∧ goes (.gstatClear 3) base = true) ∧
    (base.reserved (0x3FFF8 / 8 * 8) = none ∧ goes (.bar0UndocumentedAccess ⟨0x3FFF8, 8⟩) base = true ∧
      goes (.bar0UndocumentedAccess ⟨1, 4⟩) base = true ∧ goes (.bar0UndocumentedAccess ⟨0x1004, 8⟩) base = true ∧
      goes (.bar0UndocumentedAccess ⟨0x1000, 16⟩) base = true) := by
  decide +kernel

/-- GSTAT after power-on of a B1 reads its stepping code, QCFG its reset fields, and an offset of no register zero (19 R403,
15 R324). -/
theorem test_bar0_reads : State.reset.barRead 0 true = some 0x11_0000_0000 ∧
    State.reset.barRead 4 false = some 0x11 ∧ State.reset.barRead 0x1008 true = some 0x3_0804_0000 ∧
    State.reset.barRead 0x3FFF8 true = some 0 := by
  decide +kernel

/-- Porast holds a request: an opcode, then bytes at offsets. -/
def asking (op : Byte) (s : State) : State :=
  { s with porast := { s.porast with busy := true, run := op :: List.replicate 63 0 } }
def asking8 (op b8 b9 : Byte) : State :=
  { base with porast := { base.porast with busy := true, run := [op, 0, 0, 0, 0, 0, 0, 0, b8, b9] ++ List.replicate 54 0 } }
def halfLoaded : State := { asking8 1 127 1 with keys := [(0, .device 0), (127, { KeySlot.empty with pend := some 9 })] }
/-- The gang of the small device, halted; listed; its crew halted; in memory, an image of it written. -/
def haltedGang : State := dev id (fun g => { g with phase := .halted }) id
def listedGang : State := (dev id (fun g => { g with phase := .listed }) id).setCore 0 fun c => { c with glist := [0] }
def haltedCrew : State := dev id id fun c => { c with halted := true }

theorem witness_MailboxKeysAndDebugger :
    (∀ half ∈ [0, 1], (asking8 1 127 half).commanded 1 ∧ (asking8 1 127 half).cmdByte 8 = 127 ∧
      (asking8 1 127 half).cmdByte 9 = half.toNat ∧
      BitVec.ofNat 256 (leNat (((asking8 1 127 half).porast.run.drop 16).take 32)) = 0) ∧
    ((halfLoaded.keys.getD 127 .empty).pend = some 9 ∧ goes (.keyLoad 127 1 0) halfLoaded = true) ∧
    goes (.keyLoad 127 0 0) (asking8 1 127 0) = true ∧
    ((asking8 2 127 0).commanded 2 ∧ (asking8 2 127 0).cmdByte 8 = 127 ∧ goes (.keyClear 127) (asking8 2 127 0) = true) ∧
    (∀ op ∈ ([3, 4, 5, 6] : List Byte), (asking op base).commanded op.toNat ∧ (asking op base).named 1 0 = [] ∧
      (∃ gk g, (asking op base).named 0 0 = [(gk, g)] ∧ (asking op base).gangs.get? gk = some g ∧ g.phase = .resident ∧
        (asking op base).namedCrews gk 0 = [0])) ∧
    (∃ gk g, (asking 3 haltedGang).named 0 0 = [(gk, g)] ∧ (asking 3 haltedGang).gangs.get? gk = some g ∧ g.phase = .halted) ∧
    (∃ gk g, (asking 3 listedGang).named 0 0 = [(gk, g)] ∧ (asking 3 listedGang).gangs.get? gk = some g ∧ g.phase = .listed ∧ g.held = false ∧
      goes (.halt 0 0 0xFF) (asking 3 listedGang) = true) ∧
    ((base.crews.get? (ckOf 0)).map (·.halted) = some false ∧ (haltedCrew.crews.get? (ckOf 0)).map (·.halted) = some true) ∧
    (goes (.halt 0 0 0xFF) (asking 3 base) = true ∧ goes (.halt 0 0xFFFF_FFFF 0xFF) (asking 3 haltedGang) = true ∧
      (asking 3 haltedGang).slotOfLid 0 = some 0 ∧ goes (.halt 0 0 0xFF) (asking 3 haltedGang) = true ∧
      goes (.resume 0 0 0) (asking 4 base) = true ∧ goes (.kill 0 0 0xFF) (asking 5 base) = true ∧
      goes (.breakReq 0 0 0) (asking 6 base) = true) := by
  unfold State.commanded
  refine ⟨?_, ?_, ?_, ?_, ?_, ⟨0, got (haltedGang.gangs.get? 0) (by decide +kernel), ?_, got_eq (by decide +kernel), ?_⟩,
    ⟨0, got (listedGang.gangs.get? 0) (by decide +kernel), ?_, got_eq (by decide +kernel), ?_, ?_, ?_⟩, ?_, ?_⟩
  · decide +kernel
  · decide +kernel
  · decide +kernel
  · decide +kernel
  · intro op h
    have : op = 3 ∨ op = 4 ∨ op = 5 ∨ op = 6 := by simpa using h
    obtain rfl | rfl | rfl | rfl := this <;>
      refine ⟨?_, ?_, 0, got (base.gangs.get? 0) (by decide +kernel), ?_, got_eq (by decide +kernel), ?_, ?_⟩ <;> decide +kernel
  all_goals decide +kernel

/-- The kernel of the small device's gang has one safe point, its first instruction, listed at VA 0x4000_0500. -/
def safeGang (p : Phase) (g : Gang) : Gang := { g with phase := p, kernel := { g.kernel with safeVa := some 0x40000500 } }
def safeDev (f : Thread → Thread) (p : Phase) (m : Option Migration) : State :=
  { dev f (safeGang p) id with
    hbm := hbmOf (tables ++ [(0x40000500, 1)]), host := { base.host with aspaces := [(0, 1)] }, time := 9400000
    porast := { base.porast with busy := true, run := 7 :: List.replicate 63 0, migrating := m } }
/-- Its launch has its context area in mapped memory. -/
def hosting : State :=
  (asking 8 (safeDev id .resident none)).modL 0 fun l => { l with record := { l.record with ctxVa := 0x40010000 }, sets := [] }
def stood (x : Thread) : Thread := { x with armed := true, wait := .safePoint }

/-- A migration whose threads have all stopped; one that halts; one whose 10 ms are over. -/
def armedDev : State := safeDev stood .resident (some ⟨0, 9400000, [], false⟩)
def haltingDev (p : Phase) : State := safeDev stood p (some ⟨0, 0, [], true⟩)
def lateArm : State := safeDev id .resident (some ⟨0, 0, [], false⟩)

theorem witness_Migration :
    (∃ g, (safeDev id .resident none).commanded 7 ∧ (safeDev id .resident none).porast.migrating = none ∧
      (safeDev id .resident none).named 0 0 = [(0, g)] ∧ ((safeDev id .resident none).safePoints g).1.isSome = true ∧ g.phase.canEnd = true ∧
      goes (.migrate 0 0) (safeDev id .resident none) = true) ∧
    (∃ g, (asking 7 base).commanded 7 ∧ (asking 7 base).porast.migrating = none ∧ (asking 7 base).named 0 0 = [(0, g)] ∧
      ((asking 7 base).safePoints g).1.isNone = true ∧ g.phase.canEnd = true ∧ goes (.migrate 0 0) (asking 7 base) = true) ∧
    (∃ g, armedDev.porast.migrating = some ⟨0, 9400000, [], false⟩ ∧ armedDev.gangs.get? 0 = some g ∧ armedDev.spanMembers g = [0] ∧
      g.phase = .resident ∧ armedDev.time ≤ 9400000 ∧ (∀ t ∈ armedDev.spanThreads 0, t = 0) ∧
      (armedDev.threads.get? 0).map (·.wait) = some .safePoint) ∧
    (∃ g, (haltingDev (.stopping .halt)).migratingGang 0 0 = some (⟨0, 0, [], true⟩, g) ∧ (haltingDev (.stopping .halt)).spanMembers g = [0] ∧
      (haltingDev (.stopping .halt)).gangs.get? 0 = some g ∧ g.phase = .stopping .halt ∧ (haltingDev (.stopping .halt)).stopped 0 = true) ∧
    (∃ g, (haltingDev .halted).migratingGang 0 0 = some (⟨0, 0, [], true⟩, g) ∧ (haltingDev .halted).spanMembers g = [0] ∧
      (haltingDev .halted).gangs.get? 0 = some g ∧ g.phase = .halted ∧ goes (.migrateReady 0 0) (haltingDev .halted) = true) ∧
    (∃ g, lateArm.porast.migrating = some ⟨0, 0, [], false⟩ ∧ lateArm.gangs.get? 0 = some g ∧ g.lid = 0 ∧ g.index = 0 ∧ 0 < lateArm.time ∧
      goes (.migrateTimeout 0 0) lateArm = true) ∧
    (∃ l, hosting.commanded 8 ∧ hosting.slotOfLid 0 = some 0 ∧ hosting.launches.get? 0 = some l ∧ l.kernel.step = 0 ∧ l.record.gsets = 1 ∧
      l.sets = [] ∧ (hosting.ctxPages l (hosting.newGang 0 l l.kernel 1 none 0) 0 64).1.toOption.isSome = true ∧
      (hosting.migrateCore 0 1 l).isSome = true ∧ goes (.migrateIn 0 1 false) hosting = true ∧
      goes (.migrateIn 0 1 true) hosting = true) := by
  unfold State.commanded
  refine ⟨⟨got ((safeDev id .resident none).gangs.get? 0) (by decide +kernel), ?_, ?_, ?_, ?_, ?_, ?_⟩,
    ⟨got (base.gangs.get? 0) (by decide +kernel), ?_, ?_, ?_, ?_, ?_, ?_⟩,
    ⟨got (armedDev.gangs.get? 0) (by decide +kernel), ?_, got_eq (by decide +kernel), ?_, ?_, ?_, ?_, ?_⟩,
    ⟨got ((haltingDev (.stopping .halt)).gangs.get? 0) (by decide +kernel), ?_, ?_, ?_, ?_, ?_⟩,
    ⟨got ((haltingDev .halted).gangs.get? 0) (by decide +kernel), ?_, ?_, ?_, ?_, ?_⟩,
    ⟨got (lateArm.gangs.get? 0) (by decide +kernel), ?_, got_eq (by decide +kernel), ?_, ?_, ?_, ?_⟩,
    ⟨got (hosting.launches.get? 0) (by decide +kernel), ?_, ?_, got_eq (by decide +kernel), ?_, ?_, ?_, ?_, ?_, ?_, ?_⟩⟩
  all_goals decide +kernel

/-- A piece of an image; the memory controllers' firmware (unit 1) has a verified image in its slot B, and no launch is left. -/
def piece : FwPiece := ⟨2, 5, 1, false, [1, 2, 3], []⟩
def verifiedFw : State :=
  { asking 13 base with launches := [] }.setFirmware 1 ⟨⟨1, [], true⟩, ⟨2, [], true⟩, false, 0, 0⟩
def scrupled : State := { base with porast := { base.porast with coreScr := [(159, 256)] } }
def outCore : State := base.setCore 159 fun c => { c with drained := true }
/-- A slice and a stack at the threshold; both out of service. -/
def scrupledSlice : State := { lined with porast := { lined.porast with sliceScr := [(0, 256)] } }
def scrupledStack : State := { base with porast := { base.porast with stackScr := [(0, 256)] } }
def outUnits : State := { base with porast := { base.porast with uncached := [0, 5], swept := [0] } }
def hourOld : State := { base with t125 := 94 * 4500000000000 }

theorem witness_PorastAndPower :
    ((∀ op ∈ ([9, 10, 11, 12, 13, 14, 15] : List Byte), (asking op base).commanded op.toNat) ∧ piece.unit < 3 ∧ piece.bytes.length ≤ 48 ∧
      piece.last = false) ∧
    (goes .sensor (asking 9 base) = true ∧ goes (.logRead 0) (asking 10 base) = true ∧ goes (.logRead 0) (asking 10 (base.logEvent .power)) = true ∧
      ((base.logEvent .power).porast.log[0]?).isSome ∧ goes (.attest 0 0) (asking 11 base) = true ∧
      goes (.fwStage piece) (asking 12 base) = true ∧ goes .journalClear (asking 15 base) = true) ∧
    (verifiedFw.commanded 13 ∧ verifiedFw.launches = [] ∧ (verifiedFw.firmware 1).idle.verified = true ∧
      goes (.fwActivate 1) verifiedFw = true) ∧ ((asking 14 base).porast.owners.length < 4 ∧ EnrollReq.add ⟨true, 0, []⟩ = true) ∧
    (256 ≤ scrupled.scruples (.core 159) ∧ (scrupled.core 159).drained = false ∧ goes (.scrupleThreshold (.core 159)) scrupled = true) ∧
    (hourOld.porast.halvedAt + 3600 * 1250000000 ≤ hourOld.count125 ∧ goes .scrupleHalving hourOld = true) ∧
    ((outCore.core 159).drained = true ∧ outCore.porast.failed.contains (.core 159) = false ∧
      goes (.targetedTestDone (.core 159) true) outCore = true ∧ goes (.targetedTestDone (.core 159) false) outCore = true) ∧
    (256 ≤ scrupledSlice.scruples (.slice 0) ∧ scrupledSlice.porast.uncached.contains 0 = false ∧
      goes (.scrupleThreshold (.slice 0)) scrupledSlice = true ∧ 256 ≤ scrupledStack.scruples (.stack 0) ∧
      scrupledStack.porast.swept.contains 0 = false ∧ goes (.scrupleThreshold (.stack 0)) scrupledStack = true ∧
      ∀ w ∈ [HwUnit.slice 5, .stack 0], outUnits.outOfService w = true ∧ outUnits.porast.failed.contains w = false ∧
        goes (.targetedTestDone w true) outUnits = true ∧ goes (.targetedTestDone w false) outUnits = true) ∧
    (outUnits.porast.uncached.Pairwise (· < ·) ∧ outUnits.porast.swept.Pairwise (· < ·)) ∧ goes .powerOn base = true ∧
    (base.halfClock = false ∧ goes .powerExcursion base = true ∧ goes .powerRecovery { base with halfClock := true } = true) := by
  unfold State.commanded
  decide +kernel

/-- A write of one byte at each end of a line; a reduction that ends at the end of a line. -/
def edgeWrite (line : Nat) : IngressWrite := ⟨line, [(0, 1), (63, 2)], false, [], []⟩
def endReduce (pa : Nat) : IngressReduce := ⟨pa, 2, true, [0x3F800000, 0x40000000], true⟩
/-- Thread 0 waits for a peer's answer to its load; message 5 is a store to a peer. -/
def peerLoad : State :=
  { dev (fun x => { x with accs := [Acc.load 64 (.peer (2 ^ 41)) 8 0 .zx 4 true none none none], wait := .regs }) id id with
    peers := [(7, .load 0 (2 ^ 41))], host := { base.host with ualValid := true } }
def peerStore : State := { sentDev whole with peers := [(7, .store 5)] }

/-- Thread 0 waits for a peer's answer to its atom. -/
def peerAtom : State :=
  { dev (fun x => { x with
      accs := [Acc.atom 64 (.peer (2 ^ 41)) .w64 .add .sys 0 4 true 5 0 [.oc 0, .oc 4]], wait := .regs }) id id with
    peers := [(7, .atom 0 (2 ^ 41))], host := { base.host with ualValid := true } }

theorem witness_PeersReachMemory :
    (base.rebaseDue = false ∧ base.portsUp = true ∧ base.host.ualValid = false ∧ goes (.ualIdAssign 1023) base = true) ∧
    (∀ line ∈ [0, 2 * dieBytes / 64 - 1, 2 * dieBytes / 64], (∀ b ∈ (edgeWrite line).bytes, b.1 < 64) ∧
      goes (.ualinkIngressWrite (edgeWrite line)) base = true) ∧
    (∃ l, lined.l2.get? 0 = some l ∧ l.key = 0 ∧ l.gr.length = 8 ∧ ((edgeWrite 0).bytes.map (·.1)).Nodup ∧
      (∀ k < 8, (edgeWrite 0).whole k = true ∨ (∀ b ∈ (edgeWrite 0).bytes, b.1 / 8 ≠ k) ∨
        (l.gr.getD k ⟨0, 0, true⟩).check (64 * 0 + 8 * k) = none) ∧
      (match exec (.ualinkIngressWrite (edgeWrite 0)) lined with | .next u => u.memByte 63 == 2 && u.memByte 62 == 0 | _ => false) = true ∧
      (l.gr.getD (8 / 8 % 8) ⟨0, 0, true⟩).check (8 / 8 * 8) = none ∧ firstBad 0 (coveredGrans l.gr 56 8) = none ∧
      lined.rebaseDue = false ∧ lined.portsUp = true ∧ goes (.ualinkIngressRead 0 true) lined = true ∧
      (match exec (.ualinkIngressAtomic 8 .w64 .add 5 0) lined with | .next u => u.numAt 8 8 == 5 | _ => false) = true ∧
      (match exec (.reduceOnArrival (endReduce 56)) lined with
        | .next u => u.numAt 56 4 == addNew32 .f32 2 0x3F800000 0 % 2 ^ 32
        | _ => false) = true) ∧
    (8 < 2 * dieBytes ∧ (8 : Nat) % (wbits .w64 / 8) = 0 ∧
      goes (.ualinkIngressAtomic 8 .w64 .add 5 0) base = true ∧ goes (.ualinkIngressAtomic (2 * dieBytes) .w64 .add 5 0) base = true) ∧
    (∀ pa ∈ [56, 2 * dieBytes + 56], (endReduce pa).elems.length ≤ 16 ∧ (endReduce pa).pa % 4 = 0 ∧
      (endReduce pa).pa % 64 + 4 * (endReduce pa).elems.length ≤ 64 ∧ (endReduce pa).amode ≤ 2 ∧
      (endReduce pa).payloadOk = true ∧ goes (.reduceOnArrival (endReduce pa)) base = true) ∧
    (∃ x, peerLoad.peers.get? 7 = some (.load 0 (2 ^ 41)) ∧ peerLoad.threads.get? 0 = some x ∧ peerLoad.frameBusy 0 = false ∧
      peerLoad.mayBind 0 x = true ∧
      x.accs = [Acc.load 64 (.peer (2 ^ 41)) 8 0 .zx 4 true none none none] ∧ peerLoad.host.ualValid = true ∧ peerLoad.takers 0 none = [0] ∧
      peerLoad.rebaseDue = false ∧ goes (.ualinkResponse 7 .error) peerLoad = true ∧
      goes (.ualinkResponse 7 (.done (List.replicate 64 5) [] [])) peerLoad = true) ∧
    (∃ x s2, peerAtom.peers.get? 7 = some (.atom 0 (2 ^ 41)) ∧ peerAtom.threads.get? 0 = some x ∧ peerAtom.frameBusy 0 = false ∧
      x.accs = [Acc.atom 64 (.peer (2 ^ 41)) .w64 .add .sys 0 4 true 5 0 [.oc 0, .oc 4]] ∧ peerAtom.rebaseDue = false ∧
      firstBad 0 (coveredGrans (peerLine (2 ^ 41) (List.replicate 64 5) [] []) (fld (2 ^ 41) 0 41) (wbits .w64 / 8)) = none ∧
      State.writeFor [atomResult .add .w64 5] 4 true [0]
        (State.commitAll [.oc 0, .oc 4] (peerAtom.queuesOf 0) [0] (({ peerAtom with peers := [] }).popAcc 0)) = .ok s2 ∧
      goes (.ualinkResponse 7 .error) peerAtom = true ∧ goes (.ualinkResponse 7 (.done (List.replicate 64 5) [] [])) peerAtom = true) ∧
    (∃ e, peerStore.peers.get? 7 = some (.store 5) ∧ peerStore.msgs.get? 5 = some e ∧ peerStore.rebaseDue = false ∧
      goes (.ualinkResponse 7 .error) peerStore = true) := by
  refine ⟨?_, ?_, ⟨_, got_eq (by decide +kernel), ?_, ?_, ?_, ?_, ?_, ?_, ?_, ?_, ?_, ?_, ?_, ?_⟩, ?_, ?_,
    ⟨_, ?_, got_eq (by decide +kernel), ?_, ?_, ?_, ?_, ?_, ?_, ?_, ?_⟩,
    ⟨_, _, ?_, got_eq (by decide +kernel), ?_, ?_, ?_, ?_, okd_eq (by decide +kernel), ?_, ?_⟩, ⟨_, ?_, got_eq (by decide +kernel), ?_, ?_⟩⟩
  all_goals decide +kernel

/-! ## Witnesses: protected pairs -/

/-- A pair of a protected launch, the lines of its trap records in L2; the odd thread's g0 and g2 hold `v`, and both stand as `f` says. -/
def paired (v : Word) (f : Thread → Thread) : State :=
  let s := dev f (fun g => { g with kernel := { g.kernel with protected_ := true } }) id
  let x := (s.threads.get? 0).getD (Thread.init 0 0)
  { s with
    cur := { s.cur with lanes := [0, 1] }
    l2 := [0, 4].map fun n => (n, ⟨State.reset.belowLine n 0, 0, 0, 0, none, .none, false, false, false⟩)
    threads := [(0, x), (1, { x with oc := (x.oc.set 0 ⟨pt v, true, false⟩).set 2 ⟨pt v, true, false⟩ })] }
theorem pair_ok {v : Word} {f : Thread → Thread} (h : (paired v f).cur.crew = 0 ∧ (paired v f).cur.lanes = [0, 1] ∧
    ((paired v f).gangs.get? (paired v f).cur.gang).any (·.kernel.protected_) = true) : (paired v f).isProtected := by
  obtain ⟨g, h1, h2⟩ := (Option.any_eq_true _ _).mp h.2.2
  exact ⟨⟨by simp [h.1], by simp [h.2.1], by simp [h.2.1]⟩, g, h1, h2⟩
/-- What `pairBundle` asks, for a pair whose threads are there. -/
theorem pair_bundle {v : Word} {f : Thread → Thread} {x y : Thread} (h : (paired v f).cur.crew = 0 ∧ (paired v f).cur.lanes = [0, 1] ∧
    ((paired v f).gangs.get? (paired v f).cur.gang).any (·.kernel.protected_) = true)
    (hg : ((paired v f).gangs.map (·.1)).Pairwise (· < ·) ∧ (paired v f).bundleThreads = [0, 1])
    (hx : (paired v f).threads.get? 0 = some x) (hy : (paired v f).threads.get? 1 = some y)
    (hl : x.live = true ∧ y.live = true ∧ x.inAccess = false ∧ y.inAccess = false) : (paired v f).pairBundle 0 x y :=
  ⟨pair_ok h, hg.1, hg.2, rfl, hx, hy, hl.1, hl.2.1, hl.2.2.1, hl.2.2.2⟩

/-- The pairs of the clauses: one that agrees, one that differs in g0 and g2, one before a collective instruction. -/
def agreeing : State := paired 2 id
def differing : State := paired 64 id
def pairDue : State := paired 64 due

theorem witness_ProtectedPairs :
    (∃ x y vs ws u z, differing.pairBundle 0 x y ∧ Issues .zx 8 8 d4 (.oc 0) 1 differing 0 u ∧ Issues .zx 8 8 d4 (.oc 0) 1 differing 1 z ∧
      Reads differing 0 [.oc 0] x vs ∧ Reads differing 1 [.oc 0] y ws ∧ vs.map (·.data) ≠ ws.map (·.data) ∧
      gives (.ldB64 d4 (.oc 0) 1) differing (mismatched differing 0 (dataAt vs 0 + BitVec.ofInt 64 8)) = true) ∧
    (∃ x y vs ws u z us v, agreeing.pairBundle 0 x y ∧ Issues .zx 1 1 d4 (.oc 2) 0 agreeing 0 u ∧ Issues .zx 1 1 d4 (.oc 2) 0 agreeing 1 v ∧
      Reads agreeing 0 [.oc 2] x vs ∧ Reads agreeing 1 [.oc 2] y ws ∧ vs.map (·.data) = ws.map (·.data) ∧ Reads u 1 [.oc 2] z us ∧
      gives (.ldN8 d4 (.oc 2) 0) agreeing ((u.commit 1 [.oc 2] us).modT 1 fun z => seq u 1 z) = true) ∧
    (∃ x y vs ws u z, differing.pairBundle 0 x y ∧ Coalesces 8 8 1 4 (.oc 0) 1 differing 0 u ∧ Coalesces 8 8 1 4 (.oc 0) 1 differing 1 z ∧
      Reads differing 0 [.oc 0, .oc 4] x vs ∧ Reads differing 1 [.oc 0, .oc 4] y ws ∧ vs.map (·.data) ≠ ws.map (·.data)) ∧
    (∃ x y u s1 s2, differing.pairBundle 0 x y ∧
      Writes d4 [.oc 2, .oc 3] (fun _ _ _ vs => (pt (both .w64 (· + ·) (· + ·) (dataAt vs 0) (dataAt vs 1)), 0)) differing 0 s1 ∧
      Writes d4 [.oc 2, .oc 3] (fun _ _ _ vs => (pt (both .w64 (· + ·) (· + ·) (dataAt vs 0) (dataAt vs 1)), 0)) differing 1 u ∧
      Writes d4 [.oc 2, .oc 3] (fun _ _ _ vs => (pt (both .w64 (· + ·) (· + ·) (dataAt vs 0) (dataAt vs 1)), 0)) s1 1 s2 ∧
      gives (.add .w64 d4 (.oc 2) (.oc 3)) differing s2 = true) ∧
    (∃ x y vs ws, differing.pairBundle 0 x y ∧ Reads differing 0 [.oc 2] x vs ∧ Reads differing 1 [.oc 2] y ws ∧
      gives (.trap (.oc 2)) differing (mismatched differing 0 x.pc) = true) ∧
    (∃ x vs, Reads agreeing 0 [.oc 2] x vs ∧
      gives (.trap (.oc 2)) agreeing (takeAll agreeing 0x29 [(0, dataAt vs 0), (1, dataAt vs 0)]) = true) ∧
    (∃ x y vs ws, pairDue.isProtected ∧ pairDue.crewDue pairDue.curCrew = true ∧ pairDue.liveThreads pairDue.curCrew = [0, 1] ∧
      Reads pairDue 0 [.oc 0] x vs ∧ Reads pairDue 1 [.oc 0] y ws ∧ dataAt vs 0 ≠ dataAt ws 0 ∧
      gives (.movk 3 (.oc 0)) pairDue (mismatched pairDue 0 x.pc) = true ∧
      gives (.ldk 3 (.oc 0)) pairDue (mismatched pairDue 0 (dataAt vs 0)) = true) ∧
    (∃ x g, differing.threads.get? 0 = some x ∧ differing.gangs.get? (gangOf 0) = some g) := by
  have rd {s : State} {t : Nat} {srcs : List Src} (h1 : (s.threads.get? t).isSome) (h2 : ((s.threads.get? t).any (·.live)) = true)
      (h3 : (s.readAll t srcs).toOption.isSome) : Reads s t srcs (got _ h1) (okd _ h3) := by
    obtain ⟨x, e, l⟩ := (Option.any_eq_true _ _).mp h2
    exact ⟨got_eq h1, by rw [Option.some.inj ((got_eq h1).symm.trans e)]; exact l, okd_eq h3⟩
  refine ⟨⟨_, _, _, _, _, _, pair_bundle (by decide +kernel) (by decide +kernel) (got_eq (by decide +kernel)) (got_eq (by decide +kernel)) (by decide +kernel), ⟨_, _, _, rd (by decide +kernel) (by decide +kernel) (by decide +kernel),
      okd_eq (by decide +kernel), by decide +kernel, by decide +kernel, by decide +kernel, rfl⟩, ⟨_, _, _, rd (by decide +kernel) (by decide +kernel) (by decide +kernel),
      okd_eq (by decide +kernel), by decide +kernel, by decide +kernel, by decide +kernel, rfl⟩, rd (by decide +kernel) (by decide +kernel) (by decide +kernel),
      rd (by decide +kernel) (by decide +kernel) (by decide +kernel), by decide +kernel, by decide +kernel⟩, ?_, ?_, ?_, ?_, ?_, ?_, ?_⟩
  · exact ⟨_, _, _, _, _, _, _, _, pair_bundle (by decide +kernel) (by decide +kernel) (got_eq (by decide +kernel)) (got_eq (by decide +kernel)) (by decide +kernel),
      ⟨_, _, _, rd (by decide +kernel) (by decide +kernel) (by decide +kernel), okd_eq (by decide +kernel), by decide +kernel, by decide +kernel, by decide +kernel, rfl⟩,
      ⟨_, _, _, rd (by decide +kernel) (by decide +kernel) (by decide +kernel), okd_eq (by decide +kernel), by decide +kernel, by decide +kernel, by decide +kernel, rfl⟩,
      rd (by decide +kernel) (by decide +kernel) (by decide +kernel), rd (by decide +kernel) (by decide +kernel) (by decide +kernel), by decide +kernel,
      rd (by decide +kernel) (by decide +kernel) (by decide +kernel), by decide +kernel⟩
  · exact ⟨_, _, _, _, _, _, pair_bundle (by decide +kernel) (by decide +kernel) (got_eq (by decide +kernel)) (got_eq (by decide +kernel)) (by decide +kernel),
      ⟨_, _, _, rd (by decide +kernel) (by decide +kernel) (by decide +kernel), okd_eq (by decide +kernel), by decide +kernel, rfl⟩,
      ⟨_, _, _, rd (by decide +kernel) (by decide +kernel) (by decide +kernel), okd_eq (by decide +kernel), by decide +kernel, rfl⟩,
      rd (by decide +kernel) (by decide +kernel) (by decide +kernel), rd (by decide +kernel) (by decide +kernel) (by decide +kernel), by decide +kernel⟩
  · exact ⟨_, _, _, _, _, pair_bundle (by decide +kernel) (by decide +kernel) (got_eq (by decide +kernel)) (got_eq (by decide +kernel)) (by decide +kernel),
      ⟨_, _, _, _, rd (by decide +kernel) (by decide +kernel) (by decide +kernel), rfl, okd_eq (by decide +kernel), rfl⟩,
      ⟨_, _, _, _, rd (by decide +kernel) (by decide +kernel) (by decide +kernel), rfl, okd_eq (by decide +kernel), rfl⟩,
      ⟨_, _, _, _, rd (by decide +kernel) (by decide +kernel) (by decide +kernel), rfl, okd_eq (by decide +kernel), rfl⟩, by decide +kernel⟩
  · exact ⟨_, _, _, _, pair_bundle (by decide +kernel) (by decide +kernel) (got_eq (by decide +kernel)) (got_eq (by decide +kernel)) (by decide +kernel),
      rd (by decide +kernel) (by decide +kernel) (by decide +kernel), rd (by decide +kernel) (by decide +kernel) (by decide +kernel), by decide +kernel⟩
  · exact ⟨_, _, rd (by decide +kernel) (by decide +kernel) (by decide +kernel), by decide +kernel⟩
  · exact ⟨_, _, _, _, pair_ok (by decide +kernel), by decide +kernel, by decide +kernel, rd (by decide +kernel) (by decide +kernel) (by decide +kernel),
      rd (by decide +kernel) (by decide +kernel) (by decide +kernel), by decide +kernel, by decide +kernel, by decide +kernel⟩
  · exact ⟨_, _, got_eq (by decide +kernel), got_eq (by decide +kernel)⟩

/-! ## Witnesses: frames, encodings, steps -/

theorem add_perLane : PerLane (.add .w64 d4 (.oc 2) (.last 3))
    (Writes d4 [.oc 2, .last 3] fun _ _ _ vs => (pt (addW .w64 (dataAt vs 0) (dataAt vs 1)), 0)) := by
  intro s s' hu hc
  show perLane (intOp2 d4 (.oc 2) (.last 3) (addW .w64)) s = .next s'
  unfold intOp2
  refine Laws.perLane_of_chain (Laws.regInstr_writes ?_) hu hc
  intro s t x vs
  rfl

theorem witness_RegisterInstructionsChangeOnlyTheirDestination :
    PerLane (.add .w64 d4 (.oc 2) (.last 3)) (Writes d4 [.oc 2, .last 3] fun _ _ _ vs => (pt (addW .w64 (dataAt vs 0) (dataAt vs 1)), 0)) ∧
    (∀ q, Src.special (.pop q) ∉ [Src.oc 2, .last 3]) ∧ d4.k = true ∧
    Meets (Writes d4 [.oc 2, .last 3] fun _ _ _ vs => (pt (addW .w64 (dataAt vs 0) (dataAt vs 1)), 0)) :=
  ⟨add_perLane, by simp, rfl, writes2 _⟩

/-- The line of slot 2 in the backing stack, which holds its kind word too, stands in its slice. -/
def framed : State := { base with l2 := [(2, ⟨State.reset.belowLine 2 0, 0, 0, 0, none, .none, false, false, false⟩)] }
/-- g2 with K = 1 and K = 0; slot 2 in the backing stack, in the page that the core's TLB holds. -/
theorem witness_WrittenRegistersReadBack :
    (∃ x, base.threads.get? 0 = some x ∧ x.dead.Pairwise (· < ·) ∧ (base.writeRegs 0 2 true [gv 9]).toOption.isSome = true ∧
      (base.writeRegs 0 2 false [gv 9]).toOption.isSome = true ∧ base.resident 0 x (x.wb + 2) = true) ∧
    (∃ p q l m w s', (∀ k ∈ [AccKind.load, .store], framed.framePa 0 (framed.slotVa 0 2) k = .ok p ∧
        framed.framePa 0 (framed.kindVa 0 2) k = .ok q) ∧ p.other = none ∧ q.other = none ∧
      framed.l2.get? (p.pa / 64) = some l ∧ framed.l2.get? (q.pa / 64) = some m ∧ l.key = 0 ∧ l.gr.length = 8 ∧ m.key = 0 ∧
      m.gr.length = 8 ∧ (framed.pokeFrame p (gv 9).data false).peekWord q.pa q.gpa 0 = .ok w ∧ framed.spillSlot 0 2 (gv 9) false = .ok s' ∧
      p.pa / 8 ≠ q.pa / 8 ∧ s'.peekWord p.pa p.gpa 0 = .ok (gv 9).data) := by
  refine ⟨⟨_, got_eq (by decide +kernel), ?_, ?_, ?_, ?_⟩,
    ⟨(framed.framePa 0 (framed.slotVa 0 2) .store).toOption.getD ⟨0, 0, none⟩, (framed.framePa 0 (framed.kindVa 0 2) .store).toOption.getD ⟨0, 0, none⟩,
      _, _, _, _, fun k hk => ?_, ?_, ?_, got_eq (by decide +kernel), got_eq (by decide +kernel), ?_, ?_, ?_, ?_, okd_eq (by decide +kernel),
      okd_eq (by decide +kernel), ?_, ?_⟩⟩
  case refine_5 =>
    simp only [List.mem_cons, List.not_mem_nil, or_false] at hk
    rcases hk with rfl | rfl <;> exact ⟨ok_of (by decide +kernel), ok_of (by decide +kernel)⟩
  case refine_13 => exact ok_of (by decide +kernel)
  all_goals decide +kernel

theorem witness_DecodingTakesBackEncoding :
    wellFormed (.ldN32 ⟨4, true⟩ (.oc 2) 0) = true ∧ encode (.ldN32 ⟨4, true⟩ (.oc 2) 0) = some (32, 0x000144A9) := by decide +kernel

theorem witness_EveryInstructionHasOneWord :
    instrLen (0x000144A9 % 2 ^ 16) = 4 ∧ decode32 .b1 0x000144A9 = .ok (.ldN32 ⟨4, true⟩ (.oc 2) 0) ∧
    instrLen 10368 = 2 ∧ decode16 10368 = .ok (.add16 4 5) := by decide +kernel

/-- A placed word whose issue slot has its turn, its thread tried; the state that its decision leaves. -/
def placed (n w : Nat) : State := { State.reset.withFetchWord n w with turns := [] }
def triedOf (s : State) : State := tried s (s.slotThreads 0 0)
def choice (s : State) : State := (s.passCrews 0 0 0).ageThreads (s.ready 0) (s.bundle (s.ready 0))
def chosen (n w : Nat) : State := choice (triedOf (placed n w))
/-- A placed load whose address register an earlier load has still to write: the trial keeps its stall. -/
def blocked : State := (placed 32 0x000144A9).modT 0 fun x =>
  { x with accs := [Acc.load 64 (.dev 64 64) 8 0 .zx 2 true none none none] }
def stallsAt (s : State) (i : Instr) : Bool :=
  s.isReady 0 && s.pairOf (s.lead 0) == [0] && (match s.fetchBundle 0 [0] with
    | .run j s1 => j == i && (match exec i s1 with
      | .next s2 => s2.stalled [0] == [0] && (s.tryThread 0).2
      | _ => false)
    | _ => false)
/-- own 2, found due. -/
def dueOwn : State := (placed 32 0x000002CF).modT 0 fun x => { x with wait := .coll, due := true }
def runs' (s : State) (ck : Nat) (ts : List Nat) (i : Instr) : Bool :=
  match s.fetchBundle ck ts with
  | .run j s1 => j == i && (match exec i s1 with | .next s2 => s.moved s2 ck ts | _ => false)
  | _ => false

theorem witness_AStepRunsTheDecodedInstruction :
    (∀ e ∈ [(32, 0x000144A9, 0x44A9), (16, 10368, 10368)], (State.reset.withFetchWord e.1 e.2.1).turns = [.slot 0 0] ∧
      (placed e.1 e.2.1).rebaseDue = false ∧
      (placed e.1 e.2.1).dueBundles 0 0 = [] ∧ (triedOf (placed e.1 e.2.1)).chooseCrew 0 0 = some 0 ∧
      ∃ g x, (chosen e.1 e.2.1).gangs.get? (0 / 32) = some g ∧
        (chosen e.1 e.2.1).threads.get? (((triedOf (placed e.1 e.2.1)).bundle ((triedOf (placed e.1 e.2.1)).ready 0)).headD 0) = some x ∧
        CodeHalf (chosen e.1 e.2.1) g x.pc.toNat e.2.2) ∧
    (∃ g x, (chosen 32 0x000144A9).gangs.get? 0 = some g ∧ (chosen 32 0x000144A9).threads.get? 0 = some x ∧
      CodeHalf (chosen 32 0x000144A9) g (x.pc.toNat + 2) 1) ∧
    (instrLen 10368 = 2 ∧ instrLen 0x44A9 = 4 ∧ (chosen 32 0x000144A9).stepping = .b1 ∧
      decode32 .b1 (0x44A9 + 2 ^ 16 * 1) = .ok (.ldN32 ⟨4, true⟩ (.oc 2) 0)) ∧
    stallsAt blocked (.ldN32 ⟨4, true⟩ (.oc 2) 0) = true ∧
    (dueOwn.dueBundles 0 0 = [(0, [0])] ∧ runs' dueOwn 0 [0] (.own 2) = true) := by
  unfold CodeHalf
  refine ⟨?_, ⟨_, _, got_eq (by decide +kernel), got_eq (by decide +kernel), ?_, ?_, ?_, _, got_eq (by decide +kernel), ?_, ?_, ?_⟩, ?_, ?_, ?_⟩
  · simp only [List.forall_mem_cons, List.not_mem_nil, false_implies, implies_true, and_true]
    constructor <;>
      refine ⟨?_, ?_, ?_, ?_, _, _, got_eq (by decide +kernel), got_eq (by decide +kernel), ?_, ?_, ?_, _, got_eq (by decide +kernel), ?_, ?_, ?_⟩ <;>
      decide +kernel
  all_goals decide +kernel

/-- The result of a step on a placed word. -/
def stepped (n w : Nat) : Option State := match step (State.reset.withFetchWord n w) with | .next s => some s | _ => none

theorem witness_EveryStepKeepsMemoryCanonical :
    Memory.wf (State.reset.withFetchWord 32 0xFFFF483D) = true ∧ (stepped 32 0xFFFF483D).isSome = true ∧ Memory.wf State.reset = true ∧
    Memory.wf drainable = true ∧ (match step { drainable with turns := [.event (.writeQueueDrain (msliceOf 0))] } with
      | .next s => Memory.wf s | _ => false) = true := by decide +kernel

/-! ## What the well-formedness checks refuse: one ill-formed term for each check -/

theorem smoke_wellFormed_refuses :
    ([(.shlImm .w32 ⟨4, true⟩ (.oc 4) 32), (.shrImm .w32 ⟨4, true⟩ (.oc 4) 32), (.sarImm .w32 ⟨4, true⟩ (.oc 4) 63),
      (.rotImm .w32 ⟨4, true⟩ (.oc 4) 32), (.ivmk .f64 ⟨3, true⟩ (.oc 4) (.oc 5)), (.ivmkE .f64 ⟨3, true⟩ (.oc 4) (.oc 5)),
      (.ivhull .f64 ⟨3, true⟩ (.oc 4) (.oc 5)), (.ivhullE .f64 ⟨3, true⟩ (.oc 4) (.oc 5)), (.ivisect .f64 ⟨3, true⟩ (.oc 4) (.oc 5)),
      (.ivisectE .f64 ⟨3, true⟩ (.oc 4) (.oc 5)), (.cmpSigned .w32 .un 1 (.oc 2) (.oc 3)), (.cmpUnsigned .w32 .un 1 (.oc 2) (.oc 3)),
      (.pdec .u 1 2), (.ldB64x2 ⟨5, true⟩ (.oc 2) 0), (.ldB64x4 ⟨6, true⟩ (.oc 2) 0), (.stB64x2 5 (.oc 2) 0), (.stB64x4 6 (.oc 2) 0),
      (.atom .w64 .cas .dev ⟨5, true⟩ (.oc 2)), (.mcvt .f32 17 1 2), (.mhdrGet ⟨5, true⟩ 1), (.mhdrSet 5 1), (.call 0 0), (.callk 3 0),
      (.sget ⟨4, true⟩ 7), (.sput 12 (.oc 2)), (.sget ⟨4, true⟩ 23), (.ldIv .f64 ⟨5, true⟩ (.oc 2)), (.stIv .f64 5 (.oc 2)),
      (.add16 0 0), (.mov16 4 4)] : List Instr).all (fun i => !wellFormed i) = true := by decide +kernel

/-! ## Words that the spec writes out (03, 06 to 12, 14 to 16) -/

/-- The words decode to the instructions that the spec prints beside them. -/
def reads (l : List (Nat × Instr)) : Bool := l.all fun e => decodeTableWord 32 e.1 == some e.2

-- 03, "Worked encoding"; 08 R185, R194, R196, R197, R200.
theorem test_decode_memory : reads
    [(0x000144A9, .ldN32 ⟨4, true⟩ (.oc 2) 0), (0x008184B7, .stB32 4 (.oc 3) 1), (0xFF81CAA7, .ldS16 ⟨10, true⟩ (.oc 3) (-1)),
      (0x046108B1, .ldB64x4 ⟨8, false⟩ (.special (.k 2)) 8), (0x520103FF, .ldk 3 (.oc 2)), (0xCC0146BF, .atom .w64 .cas .dev ⟨6, true⟩ (.oc 2)),
      (0x5804C5BF, .atom .w32 .fadd .gang ⟨5, true⟩ (.oc 9)), (0x528100FF, .scopeDrop (.oc 2)), (0x530000FF, .fenceRep),
      (0x540009FF, .wait 0 9), (0x000104B7, .stB32 4 (.oc 2) 0), (0x200185B5, .stB16 5 (.oc 3) 64), (0x540002FF, .wait 0 2)] = true := by
  decide +kernel
-- 10 R226 to R247.
theorem test_decode_integer : reads
    [(0xA201CC1B, .addmin .s ⟨12, true⟩ (.oc 3) (.last 4)), (0xFC01C335, .addImm ⟨3, true⟩ (.oc 3) (-8)),
      (0x4382443B, .shrImm .w32 ⟨4, true⟩ (.oc 4) 7), (0xFFFF483D, .movi .s ⟨8, true⟩ 0xFFFF), (0xBEEFC43F, .movw 4 0xBEEF 3),
      (0x0BA4C3FF, .popc .w64 ⟨3, true⟩ (.last 9)), (0x130104FF, .movk 4 (.oc 2)), (0x28714479, .cmov ⟨4, true⟩ (.special .zero) 2 .u),
      (0xE1028173, .cmpUnsigned .w64 .eq 1 (.oc 5) (.special (.k 2))), (0xF2014589, .reduxAdd .w64 ⟨5, true⟩ (.oc 2) (.special .ones)),
      (0x04028285, .bcastFirst 2 (.oc 5) (.oc 8)), (0x041C487F, .vote .ballot ⟨8, true⟩ 1 .nt (.oc 8)),
      (0x04024595, .freduxAdd .f32 ⟨5, true⟩ (.oc 4) (.oc 8))] = true := by decide +kernel
-- 11 R249, R250 and its worked example.
theorem test_decode_float : reads
    [(0x8201484D, .fdiv .f64 ⟨8, true⟩ (.oc 2) (.oc 4)), (0x2201C3FF, .fsqrt .f32 ⟨3, true⟩ (.oc 3)),
      (0x02024647, .ffma .f32 ⟨6, true⟩ (.oc 4) (.oc 4)), (0x71031175, .fcmp .f32 .lt 1 (.oc 6) (.special .zero)),
      (0x000091E1, .bra 4 .u 1), (0x000000EB, .exit), (0x62824461, .ibsp .f32 ⟨4, true⟩ (.oc 4) (.special (.k 5)))] = true := by
  decide +kernel
-- 06 R148 to R153, 09 R217 to R222, 07 and 12, 14 to 16.
theorem test_decode_control : reads
    [(0x01A480F9, .release (.last 9)), (0x028103F9, .talloc 3 (.oc 2)), (0x020045F9, .pinfo ⟨5, true⟩), (0x088000F9, .ret),
      (0x090000F9, .ocflush), (0x086182F9, .callk 3 2), (0x098280F9, .ockeep 5 true), (0x09C280F9, .ockeep 5 false),
      (0xFFF408EF, .call (-96) 2), (0x380542C1, .cpIn 7 2 4 5), (0x000002CF, .own 2), (0x00A213D1, .mma 5 3 1 2), (0x000065D5, .mrmax 5 6),
      (0x001068D5, .mrsum 8 6), (0x002056D5, .mexp2 6 5), (0x003577D5, .mrscale 7 7 5), (0x004206D5, .mmask 6 2), (0x000003DD, .mzero 3),
      (0x001010DD, .tshape 1), (0x327100F7, .sleep (.special .zero) 100), (0x008000FF, .brk), (0x106100E5, .jmpk 1 .t 2),
      (0x001214E7, .meet 18 20), (0x080280F3, .qput 2 (.oc 5)), (0x280046F3, .qget ⟨6, true⟩ 2)] = true := by decide +kernel

/-! ## Values of the spec's examples -/

-- 02, "Worked grain".
theorem test_grain : (Gran.mk' 0x3F800000 0x1000).grain = 0xAA ∧ (Gran.mk' 0x3F800000 0x1008).grain = 0x5E ∧
    ((Gran.mk' 0x3F800000 0x1000).rebase 0x1000 0x1008).grain = 0x5E ∧ (Gran.mk' 0x3F800000 0x1000).check 0x1008 = some 0x18 := by
  decide +kernel
-- 04 R88, 05 R103: PA 0x12_3456_7800.
theorem test_home : stackOf 0x48D159E0 = 0 ∧ msliceOf 0x48D159E0 = 394 ∧ sliceOf 0x48D159E0 = 84 := by decide +kernel
-- 02, "Worked conversion of one block".
def workedBlock : List FP :=
  [.fin false 13 (-2), .fin true 1 0, .fin false 205 (-11), .fin false 1 (-6), .fin false 3 (-6), .fin true 255 (-6), .fin false 255 (-6),
    .fin true 0 0] ++ List.replicate 24 (.fin false 1 (-1))
theorem test_planes : planeBlock workedBlock 8 none = (0x80, [104, -32, 3, 0, 2, -128, 127, 0] ++ List.replicate 24 16) ∧
    planeWords (planeBlock workedBlock 8 none).2 8 =
      [0x44, 0x54, 0x40, 0x41, 0xFFFFFF40, 0x43, 0x43, 0x22] := by decide +kernel
-- 11, worked example: the square of [1 + 2^-23, 1 + 2^-23], and X * X - 2 for X = [1, 1.5].
theorem test_intervals : ivMul FW.f32.fmt (0x3F800001, 0x3F800001) (0x3F800001, 0x3F800001) = (0x3F800002, 0x3F800003) ∧
    ivFma FW.f32.fmt (0x3F800000, 0x3FC00000) (0x3F800000, 0x3FC00000) (0xC0000000, 0xC0000000) = (0xBF800000, 0x3E800000) := by decide +kernel

/-! ## Single steps -/

/-- g r and the PC of thread 0 after an instruction of the small device. -/
def after' (i : Instr) (r : Nat) : Option (Word × Word) :=
  match exec i base with
  | .next s => (s.threads.get? 0).bind fun x => (x.oc.get? r).map fun e => (e.v.data, x.pc)
  | _ => none

-- 10 R231: movi.s64 g8, -1 by a step from its word (0xFFFF_483D); the step takes one core cycle.
theorem test_step_movi : (stepped 32 0xFFFF483D).bind (fun s => (s.threads.get? 0).map fun x =>
    ((x.oc.get? 8).map (·.v), x.pc, s.time)) = some (some ⟨0xFFFFFFFFFFFFFFFF, false⟩, 0x200004, 1) := by decide +kernel
-- 10 R228: the source that is also the destination is read first; g4 := g4 + g4 = 8. A 32-bit sum wraps: g3 + (2^32 - 1) = 2.
theorem test_add : after' (.add .w64 ⟨4, true⟩ (.oc 4) (.oc 4)) 4 = some (8, 0x200004) ∧
    after' (.add .w32 ⟨4, true⟩ (.oc 3) (.special .ones)) 4 = some (2, 0x200004) := by decide +kernel
-- 10 R228: 3 - 5 = -2 wraps; a signed quotient rounds toward zero: -1 / 2 = 0; a quotient by 0 is -1.
theorem test_sub_div : after' (.sub .w64 ⟨4, true⟩ (.oc 3) (.oc 5)) 4 = some (0xFFFFFFFFFFFFFFFE, 0x200004) ∧
    after' (.div .s ⟨4, true⟩ (.special .ones) (.oc 2)) 4 = some (0, 0x200004) ∧
    after' (.div .s ⟨4, true⟩ (.oc 5) (.special .zero)) 4 = some (0xFFFFFFFFFFFFFFFF, 0x200004) := by decide +kernel
-- 09 R215: a result is latched; the older latch moves on.
theorem test_latch : (match exec (.add .w64 ⟨4, true⟩ (.oc 2) (.oc 3)) base with
    | .next s => (s.threads.get? 0).map fun x => (x.l0.data, x.l1.data)
    | _ => none) = some (5, 0) := by decide +kernel
-- 14 R315: bra to -6 halfwords from 0x20_0000.
theorem test_bra : (match exec (.bra (-6) .f 1) base with
    | .next s => (s.threads.get? 0).map (·.pc)
    | _ => none) = some 0x1FFFF4 := by decide +kernel

end Sys2Proof.Tests
end

/-! PROOFS. Predicate instructions (02 R24 to R26, 11 R269, R270): Kleene's logic on the levels of its values, and the predicate
word as pput stores it. -/

namespace Sys2Proof.Predicates

open Sys2Proof.Machine Sys2Proof.Claim Sys2Proof.Laws

/-! ## Kleene's logic in the order of its values (02 R25) -/

theorem level_and (x y : Pred) : level (Pred.and x y) = min (level x) (level y) := by
  cases x <;> cases y <;> rfl

theorem level_or (x y : Pred) : level (Pred.or x y) = max (level x) (level y) := by
  cases x <;> cases y <;> rfl

theorem level_xor (x y : Pred) : level (Pred.xor x y) = -(level x * level y) := by
  cases x <;> cases y <;> rfl

theorem level_not (x : Pred) : level (Pred.not x) = -level x := by
  cases x <;> rfl

/-! ## The predicate word (02 R24, R26) -/

theorem fld_toNat_eq_extractLsb' (w : Word) (i n : Nat) : fld w.toNat i n = (w.extractLsb' i n).toNat := by
  rw [fld, BitVec.extractLsb'_toNat, Nat.shiftRight_eq_div_pow]

/-- A two-bit code with 0b11 read as UNDECIDED. -/
theorem predOfBits_eq_match (n : Nat) : predOfBits n = match n with | 0 => .f | 1 => .t | _ => .u := by
  match n with
  | 0 => rfl
  | 1 => rfl
  | n + 2 => simp [predOfBits]

theorem setPredWord_eq_ofFn {w : Word} {g : Fin 7 → Pred} (hg : ∀ i, predOfBits (w.extractLsb' (2 * i.val) 2).toNat = g i)
    (x : Thread) : x.setPredWord w.toNat = { x with preds := Vector.ofFn g } := by
  simp only [Thread.setPredWord, fld_toNat_eq_extractLsb', hg]

/-! ## Instructions that write a predicate -/

/-- A register instruction whose computation answers the predicate result that `c` names. -/
theorem regInstr_writesPred {p : PReg} {srcs : State → Nat → List Src}
    {f : State → Nat → Thread → List Val → Except (Byte × Word) Eff}
    {c : State → Nat → Thread → List Val → Option (Pred × Byte)}
    (hf : ∀ s t x vs v fl, c s t x vs = some (v, fl) → f s t x vs = .ok (resultPred p v fl)) :
    ∀ s t s1, WritesPred p srcs c s t s1 → s.runLane (regInstr srcs f).op t = (s1, []) :=
  regOp_writes fun s t x vs e _ _ he => by
    obtain ⟨⟨v, fl⟩, hv, rfl⟩ := Option.map_eq_some_iff.mp he
    exact ⟨_, hf s t x vs v fl hv, rfl, rfl, rfl, fun _ => rfl⟩

/-- No predicate instruction reads a source or raises a flag (R269). -/
theorem perLane_predInstr {i : Instr} {d : PReg} {g : Thread → Pred} (hi : ∀ s, exec i s = perLane (predInstr d g) s) :
    PerLane i (WritesPred d (fun _ _ => []) fun _ _ x _ => some (g x, 0)) := fun s s' hu hc => by
  rw [hi]
  refine perLane_of_chain (regInstr_writesPred fun _ _ _ _ v fl h => ?_) hu hc
  obtain ⟨rfl, rfl⟩ := Prod.mk.inj (Option.some.inj h)
  rfl

/-! ## pget and pput -/

theorem perLane_pget (d : Dst) :
    PerLane (.pget d) (Writes d [] fun _ _ x _ => (pt (BitVec.ofNat 64 x.predWord), 0)) :=
  fun _ _ => perLane_of_chain (regInstr_writes fun _ _ _ _ => rfl)

theorem perLane_pput (a : Src) :
    PerLane (.pput a) (WritesMany 0 true (fun _ _ => [a]) fun _ _ _ vs =>
      some ([], fun y => { y with preds := Vector.ofFn fun i =>
        match ((dataAt vs 0).extractLsb' (2 * i.val) 2).toNat with | 0 => .f | 1 => .t | _ => .u })) :=
  fun _ _ => perLane_of_chain (regOp_writes fun _ _ _ _ _ _ _ he => by
    obtain rfl := Option.some.inj he
    exact ⟨_, rfl, rfl, rfl, rfl, setPredWord_eq_ofFn fun _ => predOfBits_eq_match _⟩)

/-- Settles O5: the functions are the model's own, whose levels are those of Kleene's logic. -/
theorem predicateInstructions : Obligations.PredicateInstructions :=
  ⟨fun _ _ _ => ⟨Pred.and, Pred.or, Pred.xor, Pred.not, level_and, level_or, level_xor, level_not,
    perLane_predInstr fun _ => rfl, perLane_predInstr fun _ => rfl,
    perLane_predInstr fun _ => rfl, perLane_predInstr fun _ => rfl⟩,
   fun _ _ _ => ⟨perLane_predInstr fun _ => rfl, perLane_predInstr fun _ => rfl⟩,
   fun d a => ⟨perLane_pget d, perLane_pput a⟩⟩

end Sys2Proof.Predicates

/-! PROOFS. Calls, returns and the operand cache's control instructions (09 R219 to R222), and bundles whose threads all trap at
their instruction (17 R365, R382). -/

namespace Sys2Proof.Frames

open Sys2Proof.Machine Sys2Proof.Claim Sys2Proof.Laws Sys2Proof.Predicates

/-! ## Bundles whose threads all trap (02 R50, 17 R382) -/

/-- Each thread leaves the state as it found it and its cause for the end of the bundle. -/
theorem foldl_runLane_traps {op : LaneOp} {s : State} {c : Byte} {v : Nat → Word} : ∀ (ts : List Nat) (l : List (Nat × Stop)),
    (∀ t ∈ ts, s.runLane op t = (s, [(t, .trap c (v t) none)])) →
    ts.foldl (fun (r : State × List (Nat × Stop)) t => ((r.1.runLane op t).1, r.2 ++ (r.1.runLane op t).2)) (s, l) =
      (s, l ++ ts.map fun t => (t, .trap c (v t) none)) := by
  intro ts
  induction ts with
  | nil => intro l _; simp
  | cons t r ih =>
    intro l h
    rw [List.foldl_cons, h t List.mem_cons_self, ih _ fun u hu => h u (List.mem_cons_of_mem t hu)]
    simp

/-- Traps that threads leave for the end of a bundle are taken as a claim says. -/
theorem stopAll_traps (s : State) (c : Byte) (v : Nat → Word) (ts : List Nat) :
    s.stopAll (ts.map fun t => (t, .trap c (v t) none)) = takeAll s c (ts.map fun t => (t, v t)) := by
  simp only [State.stopAll, takeAll, List.length_map, List.foldr_map, List.foldl_map, State.stopT, BitVec.ofNat_toNat]
  congr
  funext t u
  cases u.gangs.get? (gangOf t) <;> rfl

/-- An instruction whose every thread takes a precise cause traps in all of them together. -/
theorem traps_of_op {i : Instr} {li : LaneInstr} {srcs : List Src} {p : State → Nat → Thread → List Val → Prop} {c : Byte}
    {v : State → Nat → Thread → List Val → Word} (hi : ∀ s, exec i s = perLane li s)
    (h : ∀ s t x vs, Reads s t srcs x vs → p s t x vs → li.op s t = .error (.trap c (v s t x vs) none)) :
    Traps i srcs p c v := by
  rintro s x vs ⟨-, g, hg, hp⟩ hr
  have hl := foldl_runLane_traps (op := li.op) (c := c) (v := fun t => v s t (x t) (vs t)) s.bundleThreads [] fun t ht => by
    obtain ⟨⟨hx, hlive, hread⟩, hpt⟩ := hr t ht
    exact runLane_trap hx hlive (h s t _ _ ⟨hx, hlive, hread⟩ hpt)
  rw [← stopAll_traps]
  rw [State.bundleThreads] at hl ⊢
  simp [hi, perLane, hg, State.runLanes, hp, hl]

/-! ## What STACK_LIMIT reports (09 R220) -/

theorem stackXval_natCast (r n : Nat) : stackXval r n = BitVec.ofNat 64 (n % 2 ^ 32 * 2 ^ 32 + r) := by
  have hn : ((n : Int) % 2 ^ 32).toNat = n % 2 ^ 32 := by omega
  rw [stackXval, hn, Nat.add_comm]

/-- A reason below 2^32 stands in the low half, beside the window base. -/
theorem stackXval_eq_or {r : Nat} (hr : r < 2 ^ 32) (wb : Int) :
    stackXval r wb = BitVec.ofNat 64 (wb % 2 ^ 32).toNat <<< 32 ||| BitVec.ofNat 64 r := by
  have hb : (BitVec.ofNat 64 (wb % 2 ^ 32).toNat).toNat = (wb % 2 ^ 32).toNat := by
    rw [BitVec.toNat_ofNat, Nat.mod_eq_of_lt (by omega)]
  rw [stackXval, Nat.add_comm, ← Nat.shiftLeft_eq, Nat.shiftLeft_add_eq_or_of_lt hr, BitVec.ofNat_or, ← BitVec.toNat_inj,
    BitVec.toNat_or, BitVec.toNat_or, BitVec.toNat_shiftLeft, hb, BitVec.toNat_ofNat]

/-! ## call (09 R219) -/

/-- The target of a relative transfer, taken modulo 2^64. -/
theorem ofInt_relTarget (pc : Word) (o : Off19) :
    BitVec.ofInt 64 ((pc.toNat : Int) + 2 * o.toInt) = pc + 2 * o.signExtend 64 := by
  rw [BitVec.ofInt_add, BitVec.ofInt_mul, BitVec.ofInt_natCast, BitVec.ofNat_toNat, BitVec.setWidth_eq]
  rfl

theorem runLane_callOp {o : Off19} {n : N8} (s : State) (t : Nat) (s1 : State) (h : Calls o n s t s1) :
    s.runLane (callOp o n) t = (s1, []) := by
  obtain ⟨x, s2, s3, hx, hl, hroom, hmove, hlink, rfl⟩ := h
  apply runLane_ok hx hl
  simp only [callOp, State.slideUp, hx, if_neg (Nat.not_lt.2 hroom), hmove, hlink, ofInt_relTarget]

theorem callOp_noRoom {o : Off19} {n : N8} {s : State} {t : Nat} {x : Thread} (hx : s.threads.get? t = some x)
    (h : s.stackN t < x.wb + 8 * n.val + 64) : callOp o n s t =
      .error (.trap cSTACK_LIMIT (BitVec.ofNat 64 ((x.wb + 8 * n.val) % 2 ^ 32 * 2 ^ 32 + 1)) none) := by
  simp only [callOp, hx, if_pos h, ← stackXval_natCast, Int.natCast_add]

/-! ## ret (09 R220) -/

theorem getLsbD_iff_fld (w : Word) (i : Nat) : w.getLsbD i = true ↔ fld w.toNat i 1 ≠ 0 := by
  rw [BitVec.getLsbD, Nat.testBit_eq_decide_div_mod_eq, fld]
  simp

/-- g63 holds no link that the window can follow (09 R220). -/
def NoLink (x : Thread) (link : Word) : Prop :=
  (link.extractLsb' 60 3).toNat = 0 ∨ link.getLsbD 63 = true ∨ link.extractLsb' 57 3 ≠ 0 ∨ link.getLsbD 0 = true ∨
    x.wb < 8 * (link.extractLsb' 60 3).toNat

/-- The test that ret makes of what it reads. -/
theorem noLink_iff (x : Thread) (link : Word) : NoLink x link ↔
    fld link.toNat 60 3 = 0 ∨ fld link.toNat 63 1 ≠ 0 ∨ fld link.toNat 57 3 ≠ 0 ∨ fld link.toNat 0 1 ≠ 0 ∨
      x.wb < 8 * fld link.toNat 60 3 := by
  have h57 : link.extractLsb' 57 3 ≠ 0 ↔ fld link.toNat 57 3 ≠ 0 := by
    rw [fld_toNat_eq_extractLsb', Ne, Ne, ← BitVec.toNat_inj]
    rfl
  rw [NoLink, h57, getLsbD_iff_fld, getLsbD_iff_fld, fld_toNat_eq_extractLsb' link 60]

theorem ofNat_fld (w : Word) (i n : Nat) : BitVec.ofNat 64 (fld w.toNat i n) = (w.extractLsb' i n).setWidth 64 := by
  rw [fld_toNat_eq_extractLsb', BitVec.ofNat_toNat]

theorem runLane_retOp (s : State) (t : Nat) (s1 : State) (h : Rets s t s1) : s.runLane retOp t = (s1, []) := by
  obtain ⟨x, vs, ⟨hx, hl, hread⟩, hn, h63, h57, h0, hwb, hmove⟩ := h
  apply runLane_ok hx hl
  have hlink : ¬NoLink x (dataAt vs 0) := by
    simp only [NoLink, hn, h63, h57, h0, Nat.not_lt.2 hwb, ne_eq, not_true, Bool.false_eq_true, or_self, not_false_eq_true]
  rw [noLink_iff] at hlink
  rw [← ofNat_fld, ← fld_toNat_eq_extractLsb'] at hmove
  simp only [retOp, hx, hread, if_neg hlink, hmove]

theorem retOp_noLink {s : State} {t : Nat} {x : Thread} {vs : List Val} (hr : Reads s t [.oc 63] x vs)
    (h : NoLink x (dataAt vs 0)) : retOp s t = .error (.trap cSTACK_LIMIT
      (BitVec.ofNat 64 (((x.wb : Int) - 8 * ((dataAt vs 0).extractLsb' 60 3).toNat) % 2 ^ 32).toNat <<< 32 ||| 2) none) := by
  obtain ⟨hx, -, hread⟩ := hr
  have ht := (noLink_iff x (dataAt vs 0)).1 h
  simp only [retOp, hx, hread, if_pos ht, ← fld_toNat_eq_extractLsb']
  rw [stackXval_eq_or (by decide)]
  rfl

theorem retTraps : RetTraps := by
  unfold RetTraps
  exact traps_of_op (fun _ => rfl) fun _ _ _ _ hr h => retOp_noLink hr h

/-- Settles O13: a call takes its target modulo 2^64 (log entry 97). -/
theorem callAndReturn : Obligations.CallAndReturn :=
  ⟨fun _ _ _ => ⟨fun _ _ => perLane_of_chain runLane_callOp,
      traps_of_op (fun _ => rfl) fun _ _ _ _ hr h => callOp_noRoom hr.1 h⟩,
    fun _ _ => perLane_of_chain runLane_retOp,
    retTraps⟩

/-! ## ocflush and ockeep (09 R221, R222) -/

/-- A register source takes effect on its thread alone: completion in sequence stays as it was. -/
theorem seq_commit_oc (s : State) (t : Nat) (r : Reg) (vs : List Val) :
    seq (s.commit t [.oc r] vs) t = seq s t := by
  rw [State.commit]
  split <;> rfl

theorem runLane_ocflushOp (s : State) (t : Nat) (s1 : State) (h : Flushes s t s1) : s.runLane ocflushOp t = (s1, []) := by
  obtain ⟨x, s2, hx, hl, hflush, rfl⟩ := h
  apply runLane_ok hx hl
  simp only [ocflushOp, hx, hflush]
  rfl

theorem runLane_ockeepOp_pin {r : Reg} (s : State) (t : Nat) (s1 : State) (h : Keeps r s t s1) :
    s.runLane (ockeepOp r true) t = (s1, []) := by
  obtain ⟨x, vs, ⟨hx, hl, hread⟩, rfl⟩ := h
  apply runLane_ok hx hl
  simp only [ockeepOp, hx, hread, ← seq_commit_oc s t r vs]
  rfl

theorem runLane_ockeepOp_release {r : Reg} (s : State) (t : Nat) (s1 : State) (h : Unkeeps r s t s1) :
    s.runLane (ockeepOp r false) t = (s1, []) := by
  obtain ⟨x, hx, hl, rfl⟩ := h
  apply runLane_ok hx hl
  simp only [ockeepOp, hx]
  rfl

/-- Settles O14: the thread's pins are those of slots that the cache held, and a row pinned again is the newest (log entry 93). -/
theorem operandCacheControl : Obligations.OperandCacheControl :=
  ⟨fun _ _ => perLane_of_chain runLane_ocflushOp,
    fun _ => ⟨fun _ _ => perLane_of_chain runLane_ockeepOp_pin, fun _ _ => perLane_of_chain runLane_ockeepOp_release⟩⟩

end Sys2Proof.Frames

/-! PROOFS. The integer lane (10 R226 to R231): the model's functions over numbers are the rules' formulas over words, and the
instructions that perform them. -/

namespace Sys2Proof.IntegerLane

open Sys2Proof.Machine Sys2Proof.Claim Sys2Proof.Laws

/-! ## Words and the numbers they hold (02 R19, 10 R226) -/

theorem zx_w64 (n : Nat) : zx .w64 n = BitVec.ofNat 64 n :=
  BitVec.eq_of_toNat_eq (by simp [zx, wbits])

theorem zx_w32 (n : Nat) : zx .w32 n = up (BitVec.ofNat 32 n) :=
  BitVec.eq_of_toNat_eq (by simp [zx, wbits, up])

theorem low_w64 (v : Word) : low .w64 v = v.toNat := Nat.mod_eq_of_lt v.isLt

theorem low_w32 (v : Word) : low .w32 v = (lo v).toNat := by simp [low, wbits, lo]

/-- The integer that the low bits of a number stand for. -/
theorem sxInt_eq_toInt (v n : Nat) (hn : 0 < n) : sxInt v n = (BitVec.ofNat n v).toInt := by
  obtain ⟨m, rfl⟩ := Nat.exists_eq_add_of_lt hn
  simp only [sxInt, BitVec.toInt_eq_toNat_cond, BitVec.toNat_ofNat, Nat.zero_add, Nat.add_sub_cancel, Nat.pow_succ]
  have h : v % (2 ^ m * 2) < 2 ^ m ↔ 2 * (v % (2 ^ m * 2)) < 2 ^ m * 2 := by omega
  simp only [h]

theorem val64_n (v : Word) : val64 .n v = v.toNat := congrArg Nat.cast (low_w64 v)

theorem val64_s (v : Word) : val64 .s v = v.toInt := by
  rw [val64, valW, wbits, sxInt_eq_toInt _ _ (by decide), BitVec.ofNat_toNat, BitVec.setWidth_eq]

theorem sxInt_toNat_32 (v : Word) : sxInt v.toNat 32 = (lo v).toInt := by
  rw [sxInt_eq_toInt _ _ (by decide), BitVec.ofNat_toNat, lo]

/-- A word is the value that a signedness gives it, modulo 2^64. -/
theorem ofInt_val64 (g : Sgn) (v : Word) : BitVec.ofInt 64 (val64 g v) = v := by
  cases g
  · rw [val64_n, BitVec.ofInt_natCast, BitVec.ofNat_toNat, BitVec.setWidth_eq]
  · rw [val64_s, BitVec.ofInt_toInt]

theorem val64_le_iff (g : Sgn) (a b : Word) : val64 g a ≤ val64 g b ↔ leq g a b = true := by
  cases g
  · rw [val64_n, val64_n, leq, BitVec.ule_iff_toNat_le, Int.ofNat_le]
  · rw [val64_s, val64_s, leq, BitVec.sle_iff_toInt_le]

/-! ## Sums, differences and products of w bits (10 R228) -/

theorem addW_eq_both (w : Width) (a b : Word) : addW w a b = both w (· + ·) (· + ·) a b := by
  cases w
  · simp only [addW, both, zx_w32, low_w32, BitVec.ofNat_add, BitVec.ofNat_toNat, BitVec.setWidth_eq]
  · simp only [addW, both, zx_w64, low_w64, BitVec.ofNat_add, BitVec.ofNat_toNat, BitVec.setWidth_eq]

/-- A difference taken modulo 2^n, as the hardware adds the complement. -/
theorem ofNat_add_compl {n : Nat} (a b : BitVec n) : BitVec.ofNat n (a.toNat + (2 ^ n - b.toNat)) = a - b :=
  BitVec.eq_of_toNat_eq (by rw [BitVec.toNat_ofNat, BitVec.toNat_sub, Nat.add_comm])

theorem subW_eq_both (w : Width) (a b : Word) : subW w a b = both w (· - ·) (· - ·) a b := by
  cases w
  · rw [subW, zx_w32, low_w32, low_w32, wbits, ofNat_add_compl, both]
  · rw [subW, zx_w64, low_w64, low_w64, wbits, ofNat_add_compl, both]

theorem mulW_eq_both (w : Width) (a b : Word) : mulW w a b = both w (· * ·) (· * ·) a b := by
  cases w
  · simp only [mulW, both, zx_w32, low_w32, BitVec.ofNat_mul, BitVec.ofNat_toNat, BitVec.setWidth_eq]
  · simp only [mulW, both, zx_w64, low_w64, BitVec.ofNat_mul, BitVec.ofNat_toNat, BitVec.setWidth_eq]

theorem toNat_and_one (d : Word) : (d &&& 1).toNat = d.toNat % 2 := by
  rw [BitVec.toNat_and]
  exact Nat.and_one_is_mod _

/-- The carry of a sum of two numbers below `m` and a bit. -/
theorem ofNat_div_eq_ite {m x y c : Nat} (hx : x < m) (hy : y < m) (hc : c < 2) :
    BitVec.ofNat 64 ((x + y + c) / m) = if m ≤ x + y + c then 1 else 0 := by
  split
  case isTrue h => rw [Nat.div_eq_of_lt_le (k := 1) (by omega) (by omega)]; rfl
  case isFalse h => rw [Nat.div_eq_of_lt (by omega)]; rfl

theorem addcW_eq_carryOut (w : Width) (a b d : Word) : addcW w a b d = carryOut w a b d := by
  cases w
  · rw [addcW, low_w32, low_w32, wbits, ← toNat_and_one,
      ofNat_div_eq_ite (lo a).isLt (lo b).isLt (by rw [toNat_and_one]; omega), carryOut]
  · rw [addcW, low_w64, low_w64, wbits, ← toNat_and_one,
      ofNat_div_eq_ite a.isLt b.isLt (by rw [toNat_and_one]; omega), carryOut]

theorem subbW_eq_borrowOut (w : Width) (a b d : Word) : subbW w a b d = borrowOut w a b d := by
  cases w
  · rw [subbW, low_w32, low_w32, ← toNat_and_one, borrowOut]
  · rw [subbW, low_w64, low_w64, ← toNat_and_one, borrowOut]

/-! ## mul24, mad24 and mulh (10 R228) -/

theorem ofInt_low24 (g : Sgn) (a : Word) : BitVec.ofInt 32 (low24 g a) = e24 g a := by
  cases g
  · rw [low24, BitVec.ofInt_natCast]
    exact BitVec.eq_of_toNat_eq (by simp [e24])
  · rw [low24, sxInt_eq_toInt _ _ (by decide), e24, BitVec.signExtend, BitVec.ofNat_toNat,
      BitVec.setWidth_eq_extractLsb' (by decide)]

theorem ext32_eq_extend32 (g : Sgn) (r : Int) : ext32 g r = extend32 g (BitVec.ofInt 32 r) := by
  have h : (BitVec.ofInt 32 r).toNat = (r % 2 ^ 32).toNat := BitVec.toNat_ofInt r
  cases g
  · rw [ext32, extend32, ← h, BitVec.ofNat_toNat]
  · rw [ext32, extend32, sxWord, ← h, sxInt_eq_toInt _ _ (by decide), BitVec.ofNat_toNat, BitVec.setWidth_eq]
    rfl

theorem mul24W_eq (g : Sgn) (a b : Word) : mul24W g a b = extend32 g (e24 g a * e24 g b) := by
  rw [mul24W, ext32_eq_extend32, BitVec.ofInt_mul, ofInt_low24, ofInt_low24]

theorem mad24W_eq (g : Sgn) (a b d : Word) : mad24W g a b d = extend32 g (e24 g a * e24 g b + lo d) := by
  have h : BitVec.ofNat 32 (d.toNat % 2 ^ 32) = lo d := BitVec.eq_of_toNat_eq (by simp [lo])
  rw [mad24W, ext32_eq_extend32, BitVec.ofInt_add, BitVec.ofInt_mul, ofInt_low24, ofInt_low24, BitVec.ofInt_natCast, h]

/-- The upper half of a number modulo 2^128. -/
theorem extractLsb'_ofInt_128 (p : Int) : (BitVec.ofInt 128 p).extractLsb' 64 64 = BitVec.ofInt 64 (p / 2 ^ 64) := by
  apply BitVec.eq_of_toNat_eq
  simp only [BitVec.extractLsb'_toNat, BitVec.toNat_ofInt, Nat.shiftRight_eq_div_pow]
  omega

theorem mulhW_eq_mulHigh (g : Sgn) (a b : Word) : mulhW g a b = mulHigh g a b := by
  cases g
  · have h (v : Word) : v.setWidth 128 = BitVec.ofInt 128 v.toNat := by rw [BitVec.ofInt_natCast, BitVec.ofNat_toNat]
    rw [mulHigh, h, h, ← BitVec.ofInt_mul, extractLsb'_ofInt_128, mulhW, val64_n, val64_n]
  · rw [mulHigh, BitVec.signExtend, BitVec.signExtend, ← BitVec.ofInt_mul, extractLsb'_ofInt_128, mulhW, val64_s, val64_s]

/-! ## min, max and addmin (10 R228) -/

theorem minW_eq (g : Sgn) (a b : Word) : minW g a b = if leq g a b then a else b := by simp only [minW, val64_le_iff]

theorem maxW_eq (g : Sgn) (a b : Word) : maxW g a b = if leq g b a then a else b := by simp only [maxW, val64_le_iff]

theorem addminW_eq_addMin (g : Sgn) (a b d : Word) : addminW g a b d = addMin g a b d := by
  cases g
  · have hd := d.isLt
    simp only [addminW, addMin, val64_n, typeMin, typeMax]
    by_cases h : d.toNat ≤ a.toNat + b.toNat
    · rw [if_pos (by omega), if_pos h]
    · have ht : min (max ((a.toNat : Int) + b.toNat) 0) (2 ^ 64 - 1) = ((a.toNat + b.toNat : Nat) : Int) := by omega
      rw [if_neg (by omega), if_neg h, ht, BitVec.ofInt_natCast, BitVec.ofNat_add]
      simp only [BitVec.ofNat_toNat, BitVec.setWidth_eq]
  · simp only [addminW, addMin, val64_s, typeMin, typeMax]

/-! ## div and rem with the flags of their corners (10 R228, R237) -/

theorem toInt_eq_least_iff (a : Word) : a.toInt = -2 ^ 63 ↔ a = least := by
  rw [← BitVec.toInt_inj]
  rfl

theorem toInt_eq_neg_one_iff (b : Word) : b.toInt = -1 ↔ b = BitVec.allOnes 64 := by
  rw [← BitVec.toInt_inj]
  rfl

theorem ofInt_tdiv_toNat (a b : Word) : BitVec.ofInt 64 ((a.toNat : Int).tdiv b.toNat) = a / b := by
  rw [← Int.ofNat_tdiv, BitVec.ofInt_natCast]
  exact BitVec.eq_of_toNat_eq (by
    rw [BitVec.toNat_ofNat, BitVec.toNat_udiv, Nat.mod_eq_of_lt (Nat.lt_of_le_of_lt (Nat.div_le_self _ _) a.isLt)])

theorem ofInt_tmod_toNat (a b : Word) : BitVec.ofInt 64 ((a.toNat : Int).tmod b.toNat) = a % b := by
  rw [← Int.ofNat_tmod, BitVec.ofInt_natCast]
  exact BitVec.eq_of_toNat_eq (by
    rw [BitVec.toNat_ofNat, BitVec.toNat_umod, Nat.mod_eq_of_lt (Nat.lt_of_le_of_lt (Nat.mod_le _ _) a.isLt)])

theorem ofInt_tdiv_toInt (a b : Word) : BitVec.ofInt 64 (a.toInt.tdiv b.toInt) = a.sdiv b :=
  BitVec.eq_of_toInt_eq (by rw [BitVec.toInt_ofInt, BitVec.toInt_sdiv])

theorem ofInt_tmod_toInt (a b : Word) : BitVec.ofInt 64 (a.toInt.tmod b.toInt) = a.srem b := by
  rw [← BitVec.toInt_srem, BitVec.ofInt_toInt]

/-- A division gives its quotient and its remainder one flag. -/
theorem divRem_eq (g : Sgn) (a b : Word) :
    divRem g a b = ((quotient g a b).1, (remainder g a b).1, (quotient g a b).2) ∧ (remainder g a b).2 = (quotient g a b).2 := by
  by_cases hb : b = 0
  · simp [divRem, quotient, remainder, hb, fIDZ]
  · cases g
    · simp only [divRem, quotient, remainder, if_neg hb, val64_n, ofInt_tdiv_toNat, ofInt_tmod_toNat, reduceCtorEq, false_and,
        if_false, and_self]
    · by_cases hc : a = least ∧ b = BitVec.allOnes 64
      · obtain ⟨rfl, rfl⟩ := hc
        simp [divRem, quotient, remainder, val64_s, fIOV, least]
      · simp only [divRem, quotient, remainder, if_neg hb, val64_s, toInt_eq_least_iff, toInt_eq_neg_one_iff, true_and, if_neg hc,
          ofInt_tdiv_toInt, ofInt_tmod_toInt, and_self]

theorem divRem_quotient (g : Sgn) (a b : Word) : ((divRem g a b).1, (divRem g a b).2.2) = quotient g a b := by
  rw [(divRem_eq g a b).1]

theorem divRem_remainder (g : Sgn) (a b : Word) : (divRem g a b).2 = remainder g a b := by
  rw [(divRem_eq g a b).1, ← (divRem_eq g a b).2]

/-! ## Instructions whose result is a function of the data that they read -/

theorem perLane_regInstr {i : Instr} {d : Dst} {srcs : List Src} {f : State → Nat → Thread → List Val → Val × Byte}
    {h : State → Nat → Thread → List Val → Except (Byte × Word) Eff}
    (hi : ∀ s, exec i s = perLane (regInstr (fun _ _ => srcs) h) s)
    (hf : ∀ s t x vs, h s t x vs = .ok (result d (f s t x vs).1 (f s t x vs).2)) : PerLane i (Writes d srcs f) := by
  intro s s' hu hc
  rw [hi]
  exact perLane_of_chain (regInstr_writes hf) hu hc

theorem data1_of_exec {i : Instr} {d : Dst} {a : Src} {f g : Word → Word}
    (hi : ∀ s, exec i s = perLane (intOp1 d a g) s) (h : ∀ x, g x = f x) : Data1 i d a f := by
  obtain rfl : g = f := funext h
  exact perLane_regInstr hi fun _ _ _ _ => rfl

theorem data2F_of_exec {i : Instr} {d : Dst} {a b : Src} {f g : Word → Word → Word × Byte}
    (hi : ∀ s, exec i s = perLane (intOp2F d a b g) s) (h : ∀ x y, g x y = f x y) : Data2F i d a b f := by
  obtain rfl : g = f := funext fun x => funext (h x)
  exact perLane_regInstr hi fun _ _ _ _ => rfl

theorem data2_of_exec {i : Instr} {d : Dst} {a b : Src} {f g : Word → Word → Word}
    (hi : ∀ s, exec i s = perLane (intOp2 d a b g) s) (h : ∀ x y, g x y = f x y) : Data2 i d a b f := by
  obtain rfl : g = f := funext fun x => funext (h x)
  exact perLane_regInstr hi fun _ _ _ _ => rfl

theorem data3_of_exec {i : Instr} {d : Dst} {a b : Src} {f g : Word → Word → Word → Word}
    (hi : ∀ s, exec i s = perLane (intOp3 d a b g) s) (h : ∀ x y z, g x y z = f x y z) : Data3 i d a b f := by
  obtain rfl : g = f := funext fun x => funext fun y => funext (h x y)
  exact perLane_regInstr hi fun _ _ _ _ => rfl

theorem addW_w64 (a b : Word) : addW .w64 a b = a + b := addW_eq_both .w64 a b

theorem subW_w64 (a b : Word) : subW .w64 a b = a - b := subW_eq_both .w64 a b

/-- Settles O1, function by function. -/
theorem integerArithmetic : Obligations.IntegerArithmetic :=
  ⟨fun w g _ _ _ _ _ =>
    ⟨data2_of_exec (fun _ => rfl) (addW_eq_both w), data2_of_exec (fun _ => rfl) (subW_eq_both w),
      data3_of_exec (fun _ => rfl) (addcW_eq_carryOut w), data3_of_exec (fun _ => rfl) (subbW_eq_borrowOut w),
      data2_of_exec (fun _ => rfl) (mul24W_eq g), data3_of_exec (fun _ => rfl) (mad24W_eq g),
      data2_of_exec (fun _ => rfl) (mulW_eq_both w), data2_of_exec (fun _ => rfl) (mulhW_eq_mulHigh g),
      data2_of_exec (fun _ => rfl) (minW_eq g), data2_of_exec (fun _ => rfl) (maxW_eq g),
      data3_of_exec (fun _ => rfl) (addminW_eq_addMin g),
      data2_of_exec (fun _ => rfl) addW_w64, data2_of_exec (fun _ => rfl) subW_w64,
      data2_of_exec (fun _ => rfl) (mul24W_eq .s), data2_of_exec (fun _ => rfl) (minW_eq .s),
      data2_of_exec (fun _ => rfl) (maxW_eq .s)⟩,
   fun g _ _ _ => ⟨data2F_of_exec (fun _ => rfl) (divRem_quotient g), data2F_of_exec (fun _ => rfl) (divRem_remainder g)⟩⟩

/-! ## Logic forms (10 R229) -/

/-- A bitwise operation on 64 bits acts on the low 32 bits by themselves. -/
theorem zx_toNat_eq_both (w : Width) {f : Word → Word → Word} {f32 : U32 → U32 → U32}
    (h : ∀ a b, lo (f a b) = f32 (lo a) (lo b)) (a b : Word) : zx w (f a b).toNat = both w f f32 a b := by
  cases w
  · rw [zx_w32, BitVec.ofNat_toNat]
    exact congrArg up (h a b)
  · rw [zx_w64, BitVec.ofNat_toNat, BitVec.setWidth_eq, both]

theorem lo_and (a b : Word) : lo (a &&& b) = lo a &&& lo b := BitVec.setWidth_and

theorem lo_or (a b : Word) : lo (a ||| b) = lo a ||| lo b := BitVec.setWidth_or

theorem lo_xor (a b : Word) : lo (a ^^^ b) = lo a ^^^ lo b := BitVec.setWidth_xor

theorem lo_andn (a b : Word) : lo (a &&& ~~~b) = lo a &&& ~~~(lo b) := by
  rw [lo_and, lo, lo, lo, BitVec.setWidth_not (by decide)]

/-! ## Shifts and lea (10 R229, R231) -/

theorem cntW_eq_count (w : Width) (b : Word) : cntW w b = count w b := by
  cases w
  · rw [cntW, count, low, wbits]; omega
  · rw [cntW, count, low_w64, wbits]

theorem count_fits (w : Width) (b : Word) : count w b < wbits w := by
  cases w <;> exact Nat.mod_lt _ (by decide)

theorem ofNat_mul_two_pow {n : Nat} (x : BitVec n) (c : Nat) : BitVec.ofNat n (x.toNat * 2 ^ c) = x <<< c :=
  BitVec.eq_of_toNat_eq (by rw [BitVec.toNat_ofNat, BitVec.toNat_shiftLeft, Nat.shiftLeft_eq])

theorem ofNat_div_two_pow {n : Nat} (x : BitVec n) (c : Nat) : BitVec.ofNat n (x.toNat / 2 ^ c) = x >>> c :=
  BitVec.eq_of_toNat_eq (by
    rw [BitVec.toNat_ofNat, BitVec.toNat_ushiftRight, Nat.shiftRight_eq_div_pow,
      Nat.mod_eq_of_lt (Nat.lt_of_le_of_lt (Nat.div_le_self _ _) x.isLt)])

theorem shlN_eq (w : Width) (a : Word) (c : Nat) : shlN w a c = shiftLeft w a c := by
  cases w
  · rw [shlN, zx_w32, low_w32, ofNat_mul_two_pow, shiftLeft]
  · rw [shlN, zx_w64, low_w64, ofNat_mul_two_pow, shiftLeft]

theorem shrN_eq (w : Width) (a : Word) (c : Nat) : shrN w a c = shiftRight w a c := by
  cases w
  · rw [shrN, zx_w32, low_w32, ofNat_div_two_pow, shiftRight]
  · rw [shrN, zx_w64, low_w64, ofNat_div_two_pow, shiftRight]

/-- The number that a shift of a signed value leaves. -/
theorem toNat_sshiftRight_eq {n : Nat} (x : BitVec n) (c : Nat) :
    (x.sshiftRight c).toNat = (x.toInt / 2 ^ c % (2 ^ n : Nat)).toNat := by
  rw [BitVec.sshiftRight, BitVec.toNat_ofInt, Int.shiftRight_eq_div_pow]
  norm_cast

theorem sarN_eq (w : Width) (a : Word) (c : Nat) : sarN w a c = shiftArith w a c := by
  cases w
  · have h := toNat_sshiftRight_eq (lo a) c
    rw [sarN, wbits, sxInt_toNat_32, shiftArith, up, ← BitVec.ofNat_toNat, h]
    rfl
  · have hs : sxInt a.toNat (wbits .w64) = a.toInt := val64_s a
    have h := toNat_sshiftRight_eq a c
    rw [sarN, hs, shiftArith, ← BitVec.setWidth_eq (a.sshiftRight c), ← BitVec.ofNat_toNat, h]
    rfl

/-- The bits that a rotation moves out at the top come in below the others. -/
theorem ofNat_rotate {n : Nat} (x : BitVec n) {c : Nat} (hc : c < n) :
    BitVec.ofNat n (x.toNat * 2 ^ c % 2 ^ n + x.toNat / 2 ^ (n - c)) = x.rotateLeft c := by
  have hn : 2 ^ n = 2 ^ (n - c) * 2 ^ c := by rw [← Nat.pow_add, Nat.sub_add_cancel (Nat.le_of_lt hc)]
  have hlow : x.toNat / 2 ^ (n - c) < 2 ^ c := Nat.div_lt_of_lt_mul (hn ▸ x.isLt)
  have hr : (x.rotateLeft c).toNat = x.toNat * 2 ^ c % 2 ^ n + x.toNat / 2 ^ (n - c) := by
    rw [BitVec.toNat_rotateLeft, Nat.mod_eq_of_lt hc, Nat.shiftLeft_eq, Nat.shiftRight_eq_div_pow, hn, Nat.mul_mod_mul_right,
      ← Nat.shiftLeft_eq, Nat.shiftLeft_add_eq_or_of_lt hlow]
  rw [← hr, BitVec.ofNat_toNat, BitVec.setWidth_eq]

theorem rotN_eq {w : Width} {c : Nat} (a : Word) (hc : c < wbits w) : rotN w a c = rotate w a c := by
  cases w
  · rw [rotN, zx_w32, low_w32]
    exact congrArg up (ofNat_rotate (lo a) hc)
  · rw [rotN, zx_w64, low_w64]
    exact ofNat_rotate a hc

theorem leaW_w32 (a b : Word) : leaW .w32 a b = a + b <<< 2 := by
  rw [leaW, BitVec.shiftLeft_eq_mul_twoPow, BitVec.mul_comm]
  rfl

theorem leaW_w64 (a b : Word) : leaW .w64 a b = a + b <<< 3 := by
  rw [leaW, BitVec.shiftLeft_eq_mul_twoPow, BitVec.mul_comm]
  rfl

theorem countFits_iff (w : Width) (c : Cnt6) : countFits w c ↔ c.val < wbits w := by
  cases w
  · exact Iff.rfl
  · exact ⟨fun _ => c.isLt, fun _ => trivial⟩

/-- Settles O2: counts of a register are below the width, those of an immediate by the encoding's bound (R237). -/
theorem logicShiftsAndLea : Obligations.LogicShiftsAndLea :=
  ⟨fun w _ _ _ _ _ =>
    ⟨data2_of_exec (fun _ => rfl) (zx_toNat_eq_both w lo_and), data2_of_exec (fun _ => rfl) (zx_toNat_eq_both w lo_or),
      data2_of_exec (fun _ => rfl) (zx_toNat_eq_both w lo_xor), data2_of_exec (fun _ => rfl) (zx_toNat_eq_both w lo_andn),
      data2_of_exec (fun _ => rfl) fun _ _ => rfl, data2_of_exec (fun _ => rfl) fun _ _ => rfl,
      data2_of_exec (fun _ => rfl) fun _ _ => rfl⟩,
   fun w _ _ _ c _ _ =>
    ⟨data2_of_exec (fun _ => rfl) leaW_w32, data2_of_exec (fun _ => rfl) leaW_w64,
      data2_of_exec (fun _ => rfl) fun a b => by rw [shlN_eq, cntW_eq_count],
      data2_of_exec (fun _ => rfl) fun a b => by rw [shrN_eq, cntW_eq_count],
      data2_of_exec (fun _ => rfl) fun a b => by rw [sarN_eq, cntW_eq_count],
      data2_of_exec (fun _ => rfl) fun a b => by rw [cntW_eq_count, rotN_eq a (count_fits w b)],
      fun hc =>
        ⟨data1_of_exec (fun _ => rfl) fun a => shlN_eq w a c.val, data1_of_exec (fun _ => rfl) fun a => shrN_eq w a c.val,
          data1_of_exec (fun _ => rfl) fun a => sarN_eq w a c.val,
          data1_of_exec (fun _ => rfl) fun a => rotN_eq a ((countFits_iff w c).1 hc)⟩,
      data2_of_exec (fun _ => rfl) fun a b => by rw [shlN_eq, cntW_eq_count],
      data2_of_exec (fun _ => rfl) fun a b => by rw [shrN_eq, cntW_eq_count],
      data2_of_exec (fun _ => rfl) fun a b => by rw [sarN_eq, cntW_eq_count]⟩⟩

end Sys2Proof.IntegerLane

/-! PROOFS. Lane groups (10 R238 to R244): what stays as it was while one thread of a group reads and writes its registers, what a
due group performs, and the values that its members exchange. -/

namespace Sys2Proof.LaneGroups

open Sys2Proof.Machine Sys2Proof.Claim Sys2Proof.Laws

/-! ## Keys of a table -/

theorem mem_keysWhere {α : Type} {T : Tab α} {p : Nat → α → Bool} {k : Nat} :
    k ∈ T.keysWhere p ↔ ∃ v, (k, v) ∈ T ∧ p k v = true := by
  simp [Tab.keysWhere]

theorem mem_of_get? {α : Type} {T : Tab α} {i : Nat} {v : α} (h : T.get? i = some v) : (i, v) ∈ T := by
  induction T with
  | nil => cases h
  | cons e r ih =>
    rw [Tab.get?_cons] at h
    split at h
    case isTrue hi => obtain rfl := Option.some.inj h; subst hi; exact List.mem_cons_self
    case isFalse => exact List.mem_cons_of_mem _ (ih h)

theorem mem_keysWhere_cons {α : Type} {T : Tab α} {p : Nat → α → Bool} {i k : Nat} {v : α} :
    k ∈ Tab.keysWhere ((i, v) :: T) p ↔ (k = i ∧ p i v = true) ∨ k ∈ T.keysWhere p := by
  by_cases h : p i v = true <;> simp [Tab.keysWhere, h]

/-- A value that passes a test as the old one does changes no set of keys. -/
theorem mem_keysWhere_set {α : Type} {T : Tab α} {p : Nat → α → Bool} {i k : Nat} {v w : α} (hw : T.get? i = some w)
    (hp : p i v = p i w) : k ∈ (T.set i v).keysWhere p ↔ k ∈ T.keysWhere p := by
  induction T with
  | nil => cases hw
  | cons e r ih =>
    obtain ⟨a, x⟩ := e
    have hin := mem_of_get? hw
    rw [Tab.get?_cons] at hw
    simp only [Tab.set]
    split
    · rw [mem_keysWhere_cons, or_iff_right_of_imp]
      rintro ⟨rfl, hv⟩
      exact mem_keysWhere.2 ⟨w, hin, hp ▸ hv⟩
    · split
      case isTrue hia =>
        subst hia
        obtain rfl : x = w := by simpa using hw
        rw [mem_keysWhere_cons, mem_keysWhere_cons, hp]
      case isFalse hia => rw [mem_keysWhere_cons, mem_keysWhere_cons, ih (by simpa [Ne.symm hia] using hw)]

/-! ## What one thread's reads and writes leave alone -/

/-- A gang without what its queue registers hold and who waits at them. -/
def still (g : Gang) : Gang := { g with queues := Vector.replicate 8 [], pops := [] }

/-- What a thread keeps while it reads and writes its registers and completes: its life, its window and its accesses. -/
def base (x : Thread) : Bool × Nat × List Acc := (x.live, x.wb, x.accs)

/-- The accesses of a thread of the table. -/
def accsAt (s : State) (t : Nat) : List Acc := ((s.threads.get? t).map (·.accs)).getD []

/-- A thread's registers wait for its own accesses, a shadow's for its even thread's also. -/
theorem accsOf_eq (s : State) (t : Nat) :
    s.accsOf t = if s.isShadow t then accsAt s t ++ accsAt s (t - 1) else accsAt s t := by
  have own (k : Nat) : (match s.threads.get? k with | some x => x.accs | none => []) = accsAt s k := by
    rw [accsAt]
    cases s.threads.get? k <;> rfl
  rw [← own, ← own, State.accsOf, State.isShadow]
  cases s.gangs.get? (gangOf t) with
  | none => exact (if_neg (by simp)).symm
  | some g => exact ite_congr (by rw [Bool.and_comm]) (fun _ => rfl) fun _ => rfl

/-- An ldk among a thread's accesses that will write k register `k`. -/
def awaitsK (k : Nat) (l : List Acc) : Bool :=
  l.any fun a => match a with | .load _ _ _ _ _ _ _ (some j) _ _ => j == k | _ => false

theorem kPending_iff (s : State) (c k : Nat) :
    s.kPending c k = true ↔ ∃ t ∈ s.liveThreads c, awaitsK k (accsAt s t) = true := by
  rw [State.kPending, List.any_eq_true]
  refine exists_congr fun t => and_congr_right fun _ => ?_
  rw [accsAt]
  cases s.threads.get? t <;> rfl

/-- From `s` to `u`, at most registers and control state of thread `t` and the queue registers of gangs have changed. -/
structure ActsAlone (t : Nat) (s u : State) : Prop where
  rest : ∃ T G, u = { s with threads := T, gangs := G }
  gangs : ∀ g, (u.gangs.get? g).map still = (s.gangs.get? g).map still
  others : ∀ t', t' ≠ t → u.threads.get? t' = s.threads.get? t'
  kept : ∀ t', (u.threads.get? t').map base = (s.threads.get? t').map base
  live : ∀ c t', t' ∈ u.liveThreads c ↔ t' ∈ s.liveThreads c

namespace ActsAlone

variable {t : Nat} {s u v : State}

theorem refl (t : Nat) (s : State) : ActsAlone t s s :=
  ⟨⟨s.threads, s.gangs, rfl⟩, fun _ => rfl, fun _ _ => rfl, fun _ => rfl, fun _ _ => Iff.rfl⟩

theorem trans (h : ActsAlone t s u) (h' : ActsAlone t u v) : ActsAlone t s v := by
  refine ⟨?_, fun g => (h'.gangs g).trans (h.gangs g), fun t' ht => (h'.others t' ht).trans (h.others t' ht),
    fun t' => (h'.kept t').trans (h.kept t'), fun c t' => (h'.live c t').trans (h.live c t')⟩
  obtain ⟨T, G, rfl⟩ := h.rest
  obtain ⟨T', G', rfl⟩ := h'.rest
  exact ⟨T', G', rfl⟩

theorem setT {x y : Thread} (hx : s.threads.get? t = some x) (hy : base y = base x) : ActsAlone t s (s.setT t y) := by
  refine ⟨⟨s.threads.set t y, s.gangs, rfl⟩, fun _ => rfl, fun t' ht => Tab.get?_set_ne _ _ ht, fun t' => ?_, fun c t' => ?_⟩
  · by_cases ht : t' = t
    · subst ht
      rw [State.setT_threads, Tab.get?_set_self, hx, Option.map_some, Option.map_some, hy]
    · rw [State.setT_threads, Tab.get?_set_ne _ _ ht]
  · have hl : y.live = x.live := congrArg Prod.fst hy
    exact mem_keysWhere_set hx (by rw [hl])

theorem modT {f : Thread → Thread} (hf : ∀ x, base (f x) = base x) : ActsAlone t s (s.modT t f) := by
  cases hx : s.threads.get? t with
  | none =>
    have : s.modT t f = s := by rw [State.modT, Tab.modify, hx]
    rw [this]
    exact refl t s
  | some x =>
    have : s.modT t f = s.setT t (f x) := by rw [State.modT, Tab.modify, hx, State.setT]
    rw [this]
    exact setT hx (hf x)

theorem modG {g : Nat} {f : Gang → Gang} (hf : ∀ x, still (f x) = still x) : ActsAlone t s (s.modG g f) := by
  refine ⟨⟨s.threads, s.gangs.modify g f, rfl⟩, fun g' => ?_, fun _ _ => rfl, fun _ => rfl, fun _ _ => Iff.rfl⟩
  by_cases hg : g' = g
  · subst hg
    rw [State.modG_gangs, Tab.get?_modify_self, Option.map_map]
    exact congrArg (Option.map · _) (funext hf)
  · rw [State.modG_gangs, Tab.get?_modify_ne _ _ hg]

theorem crews (h : ActsAlone t s u) : u.crews = s.crews := by obtain ⟨T, G, rfl⟩ := h.rest; rfl
theorem time (h : ActsAlone t s u) : u.time = s.time := by obtain ⟨T, G, rfl⟩ := h.rest; rfl
theorem l2 (h : ActsAlone t s u) : u.l2 = s.l2 := by obtain ⟨T, G, rfl⟩ := h.rest; rfl

theorem tlbLook (h : ActsAlone t s u) : u.tlbLook = s.tlbLook := by obtain ⟨T, G, rfl⟩ := h.rest; rfl
theorem peekWord (h : ActsAlone t s u) : u.peekWord = s.peekWord := by obtain ⟨T, G, rfl⟩ := h.rest; rfl

/-- A gang stays the same but for its queue registers and their waiters. -/
theorem gang (h : ActsAlone t s u) (g : Nat) : (s.gangs.get? g = none ∧ u.gangs.get? g = none) ∨
    ∃ x y, s.gangs.get? g = some x ∧ u.gangs.get? g = some y ∧ still y = still x := by
  have hg := h.gangs g
  cases hs : s.gangs.get? g <;> cases hu : u.gangs.get? g <;> simp_all

theorem thread {x : Thread} (h : ActsAlone t s u) {t' : Nat} (hx : s.threads.get? t' = some x) :
    ∃ y, u.threads.get? t' = some y ∧ base y = base x := by
  have hk := h.kept t'
  rw [hx] at hk
  exact Option.map_eq_some_iff.1 hk

/-- What a function of a gang's constant part gives. -/
theorem gangMatch {α : Type} (h : ActsAlone t s u) (g : Nat) (p : Gang → α) (e : α) (hp : ∀ x, p x = p (still x)) :
    (match u.gangs.get? g with | some x => p x | none => e) = match s.gangs.get? g with | some x => p x | none => e := by
  obtain ⟨hs, hu⟩ | ⟨x, y, hs, hu, hy⟩ := h.gang g
  · rw [hs, hu]
  · simp only [hs, hu]
    rw [hp, hy, ← hp]

theorem visLane (h : ActsAlone t s u) : u.visLane = s.visLane :=
  funext fun t' => h.gangMatch (gangOf t') (fun g => if g.kernel.protected_ then laneOf t' / 2 else laneOf t') _ fun _ => rfl

theorem queueCount (h : ActsAlone t s u) : u.queueCount = s.queueCount :=
  funext fun t' => h.gangMatch (gangOf t') (fun g => g.kernel.queues) _ fun _ => rfl

theorem slotVa (h : ActsAlone t s u) : u.slotVa = s.slotVa :=
  funext fun t' => funext fun i => h.gangMatch (gangOf t') (fun g => g.slotVa (crewOf t') (laneOf t') i) _ fun _ => rfl

theorem kindVa (h : ActsAlone t s u) : u.kindVa = s.kindVa :=
  funext fun t' => funext fun i => h.gangMatch (gangOf t') (fun g => g.kindVa (crewOf t') (laneOf t') i) _ fun _ => rfl

theorem framePa (h : ActsAlone t s u) : u.framePa = s.framePa := by
  funext t' va k
  obtain ⟨hs, hu⟩ | ⟨x, y, hs, hu, hy⟩ := h.gang (gangOf t')
  · simp only [State.framePa, hs, hu]
  · have hc : y.core = x.core := (congrArg Gang.core hy :)
    have ha : y.aspace = x.aspace := (congrArg Gang.aspace hy :)
    simp only [State.framePa, hs, hu, h.tlbLook, hc, ha]

theorem memVal (h : ActsAlone t s u) : u.memVal = s.memVal := by
  funext t' i
  simp only [State.memVal, State.frameWord, h.framePa, h.l2, h.peekWord, h.slotVa, h.kindVa]

theorem isShadow (h : ActsAlone t s u) : u.isShadow = s.isShadow :=
  funext fun t' => congrArg (t' % 2 == 1 && ·) (h.gangMatch (gangOf t') (fun g => g.kernel.protected_) _ fun _ => rfl)

theorem accsAt (h : ActsAlone t s u) (t' : Nat) : accsAt u t' = accsAt s t' := by
  have hk := congrArg (Option.map (·.2.2)) (h.kept t')
  simp only [Option.map_map] at hk
  exact congrArg (Option.getD · []) hk

theorem accsOf (h : ActsAlone t s u) : u.accsOf = s.accsOf := by
  funext t'
  rw [accsOf_eq, accsOf_eq, h.isShadow, h.accsAt, h.accsAt]

theorem kPending (h : ActsAlone t s u) : u.kPending = s.kPending := by
  funext c k
  rw [Bool.eq_iff_iff, kPending_iff, kPending_iff]
  simp only [h.live, h.accsAt]

theorem slotVal {t' : Nat} (h : ActsAlone t s u) : u.slotVal t' = s.slotVal t' := by
  funext x i
  simp only [State.slotVal, h.accsOf, h.slotVa, h.memVal]

theorem resident (h : ActsAlone t s u) : u.resident = s.resident := by
  funext t' x i
  simp only [State.resident, State.quota, h.crews]

end ActsAlone

/-! ## Reads of the other threads -/

/-- A read that succeeds or waits: it neither traps nor needs a line or a walk. -/
def ReadyOrWaits {α : Type} (r : Except Stop α) : Prop := ∀ e, r = .error e → ∃ w, e = .block w

theorem readyOrWaits_ok {α : Type} (v : α) : ReadyOrWaits (.ok v : Except Stop α) := fun _ h => nomatch h

theorem readyOrWaits_error {α : Type} {e : Stop} : ReadyOrWaits (.error e : Except Stop α) ↔ ∃ w, e = .block w :=
  ⟨fun h => h e rfl, fun h _ he => Except.error.inj he ▸ h⟩

theorem rank_trap_lt (c : Byte) (v : Word) (p : Option Nat) : (Stop.trap c v p).rank < 3 := by
  unfold Stop.rank
  split <;> simp_all

/-- Waits alone rank last (17 R368). -/
theorem rank_ge_three_iff (e : Stop) : 3 ≤ e.rank ↔ ∃ w, e = .block w := by
  cases e with
  | trap c v p => simpa using rank_trap_lt c v p
  | walk _ _ _ | line _ => simp [Stop.rank]
  | block w => simp [Stop.rank]

/-- Sources read together succeed or wait exactly if each of them does. -/
theorem readyOrWaits_cons {s : State} {t : Nat} {x : Thread} {srcs : List Src} {n : Nat} {a : Src} {r : List Src} :
    ReadyOrWaits (s.readFrom t x srcs n (a :: r)) ↔
      ReadyOrWaits (s.srcVal t x srcs n a) ∧ ReadyOrWaits (s.readFrom t x srcs (n + 1) r) := by
  rw [State.readFrom]
  cases s.srcVal t x srcs n a <;> cases s.readFrom t x srcs (n + 1) r
  case error.error e f =>
    simp only [readyOrWaits_error, ← rank_ge_three_iff]
    split <;> omega
  all_goals simp only [readyOrWaits_ok, readyOrWaits_error, true_and, and_true]

section

variable {t : Nat} {s u : State}

/-- A source that pops no queue reads the same after another thread has acted. -/
theorem ActsAlone.srcVal_eq (h : ActsAlone t s u) {a : Src} (ha : ∀ q, a ≠ .special (.pop q)) (t' : Nat) (x : Thread)
    (srcs : List Src) (n : Nat) : u.srcVal t' x srcs n a = s.srcVal t' x srcs n a := by
  match a with
  | .oc r | .last r | .direct r => simp only [State.srcVal, h.slotVal]
  | .special (.k k) => simp only [State.srcVal, h.kPending, h.crews]
  | .special .l0 | .special .l1 => simp only [State.srcVal, h.time]
  | .special .lane => simp only [State.srcVal, h.visLane]
  | .special .zero | .special .ones => rfl
  | .special (.pop q) => exact absurd rfl (ha q)

theorem ActsAlone.readyOrWaits_srcVal (h : ActsAlone t s u) {t' : Nat} {x : Thread} {srcs : List Src} {n : Nat} {a : Src}
    (hr : ReadyOrWaits (u.srcVal t' x srcs n a)) : ReadyOrWaits (s.srcVal t' x srcs n a) := by
  by_cases ha : ∃ q, a = .special (.pop q)
  · obtain ⟨q, rfl⟩ := ha
    simp only [State.srcVal, h.queueCount] at hr ⊢
    split at hr
    case isTrue => exact absurd (readyOrWaits_error.1 hr) (by simp)
    case isFalse hq =>
      rw [if_neg hq]
      split
      · exact readyOrWaits_error.2 ⟨_, rfl⟩
      · split
        · exact readyOrWaits_ok _
        · exact readyOrWaits_error.2 ⟨_, rfl⟩
  · rwa [h.srcVal_eq (not_exists.1 ha)] at hr

theorem ActsAlone.readFrom_eq (h : ActsAlone t s u) {t' : Nat} {x : Thread} {srcs : List Src} : ∀ (l : List Src) (n : Nat),
    (∀ q, Src.special (.pop q) ∉ l) → u.readFrom t' x srcs n l = s.readFrom t' x srcs n l := by
  intro l
  induction l with
  | nil => intro _ _; rfl
  | cons a r ih =>
    intro n hl
    rw [State.readFrom, State.readFrom, h.srcVal_eq fun q ha => hl q (ha ▸ List.mem_cons_self),
      ih _ fun q hq => hl q (List.mem_cons_of_mem a hq)]

theorem ActsAlone.readyOrWaits_readFrom (h : ActsAlone t s u) {t' : Nat} {x : Thread} {srcs : List Src} :
    ∀ (l : List Src) (n : Nat), ReadyOrWaits (u.readFrom t' x srcs n l) → ReadyOrWaits (s.readFrom t' x srcs n l) := by
  intro l
  induction l with
  | nil => exact fun _ hr => hr
  | cons a r ih =>
    intro n hr
    obtain ⟨ha, hrest⟩ := readyOrWaits_cons.1 hr
    exact readyOrWaits_cons.2 ⟨h.readyOrWaits_srcVal ha, ih _ hrest⟩

/-- Sources without a pop read the same for every thread but the one that has acted. -/
theorem ActsAlone.readAll_eq (h : ActsAlone t s u) {t' : Nat} (ht : t' ≠ t) {srcs : List Src}
    (hp : ∀ q, Src.special (.pop q) ∉ srcs) : u.readAll t' srcs = s.readAll t' srcs := by
  simp only [State.readAll, h.others t' ht, h.readFrom_eq srcs 0 hp]

/-- What pops change for another thread is only whether its own pops wait. -/
theorem ActsAlone.readyOrWaits_readAll (h : ActsAlone t s u) {t' : Nat} (ht : t' ≠ t) {srcs : List Src}
    (hr : ReadyOrWaits (u.readAll t' srcs)) : ReadyOrWaits (s.readAll t' srcs) := by
  rw [State.readAll, h.others t' ht] at hr
  rw [State.readAll]
  cases hx : s.threads.get? t' with
  | none => exact readyOrWaits_error.2 ⟨_, rfl⟩
  | some x => rw [hx] at hr; exact h.readyOrWaits_readFrom srcs 0 hr

end

/-! ## The effects of a thread's reads and of its completion -/

theorem base_foldl {α : Type} {f : Thread → α → Thread} (hf : ∀ x a, base (f x a) = base x) (l : List α) (x : Thread) :
    base (l.foldl f x) = base x := by
  induction l generalizing x with
  | nil => rfl
  | cons a r ih => exact (ih (f x a)).trans (hf x a)

theorem base_touch (x : Thread) (res : Bool) (a : Src) (v : Val) : base (x.touch res a v) = base x := by
  cases a with
  | oc r => simp only [Thread.touch]; split <;> rfl
  | last r | direct r => simp only [Thread.touch]; split <;> rfl
  | special q => rfl

theorem base_lastUse (x : Thread) (a : Src) : base (x.lastUse a) = base x := by
  cases a with
  | last r => simp only [Thread.lastUse]; split <;> rfl
  | oc r | direct r | special q => rfl

theorem base_stepped (x : Thread) (d : Bool) : base (x.stepped d) = base x := by
  rw [Thread.stepped]
  split <;> rfl

theorem base_finish (x : Thread) (cb n : Nat) : base (x.finish cb n) = base x := base_stepped _ _

theorem due_finish (x : Thread) (cb n : Nat) : (x.finish cb n).due = false := by
  rw [Thread.finish, Thread.stepped]
  split <;> rfl

theorem popAll_actsAlone {t u : Nat} (srcs : List Src) (s : State) : ActsAlone t s (s.popAll u srcs) := by
  induction srcs generalizing s with
  | nil => exact .refl t s
  | cons a r ih =>
    have hone : ActsAlone t s (s.popAll u [a]) := by
      match a with
      | .special (.pop q) => exact .modG fun _ => rfl
      | .oc _ | .last _ | .direct _ | .special (.k _) | .special .l0 | .special .l1 | .special .zero | .special .lane
      | .special .ones => exact .refl t s
    exact hone.trans (ih (s.popAll u [a]))

theorem commit_actsAlone (s : State) (t : Nat) (srcs : List Src) (vals : List Val) :
    ActsAlone t s (s.commit t srcs vals) := by
  cases hx : s.threads.get? t with
  | none =>
    have : s.commit t srcs vals = s := by simp only [State.commit, hx]
    rw [this]
    exact .refl t s
  | some x =>
    simp only [State.commit, hx]
    refine .trans (.setT hx ?_) (popAll_actsAlone srcs _)
    exact (base_foldl base_lastUse srcs _).trans (base_foldl (fun y p => base_touch y _ p.1 p.2) (srcs.zip vals) x)

/-! ## Writes of registers -/

/-- A live thread that can write the registers of an effect without waiting and without a spill (03 R57, 08 R186). -/
def CanWrite (s : State) (t : Nat) (e : Eff) : Prop := ∃ x, s.threads.get? t = some x ∧ x.live = true ∧
  ∀ j, j < e.regs.length → slotPending (s.accsOf t) (x.wb + (e.reg + j)) = false ∧
    (e.k = true ∨ s.resident t x (x.wb + (e.reg + j)) = true)

theorem resident_eq {x y : Thread} (s : State) (t i : Nat) (h : base y = base x) : s.resident t y i = s.resident t x i := by
  have hw : y.wb = x.wb := (congrArg (·.2.1) h :)
  rw [State.resident, State.resident, hw]

theorem CanWrite.mono {t t' : Nat} {s u : State} {e : Eff} (h : ActsAlone t' s u) (hc : CanWrite s t e) : CanWrite u t e := by
  obtain ⟨x, hx, hl, hw⟩ := hc
  obtain ⟨y, hy, hb⟩ := h.thread hx
  have hwb : y.wb = x.wb := (congrArg (·.2.1) hb :)
  refine ⟨y, hy, ((congrArg (·.1) hb :) : y.live = x.live).trans hl, fun j hj => ?_⟩
  rw [h.accsOf, h.resident, hwb, resident_eq s t _ hb]
  exact hw j hj

theorem writeSlot_actsAlone {s : State} {t i : Nat} {x : Thread} {k : Bool} (v : Val) (hx : s.threads.get? t = some x)
    (hp : slotPending (s.accsOf t) i = false) (hk : k = true ∨ s.resident t x i = true) :
    ∃ u, s.writeSlot t i v k = .ok u ∧ ActsAlone t s u := by
  simp only [State.writeSlot, hx, hp]
  cases k with
  | true => exact ⟨_, rfl, .setT hx rfl⟩
  | false =>
    have hr : s.resident t x i = true := by simpa using hk
    simp only [hr]
    exact ⟨_, rfl, .setT hx rfl⟩

theorem writeRegs_actsAlone {t : Nat} {k : Bool} : ∀ (vs : List Val) (r : Nat) (s : State) (up : Thread → Thread),
    CanWrite s t ⟨r, k, vs, up⟩ → ∃ u, s.writeRegs t r k vs = .ok u ∧ ActsAlone t s u := by
  intro vs
  induction vs with
  | nil => exact fun r s _ _ => ⟨s, rfl, .refl t s⟩
  | cons v vs ih =>
    intro r s up ⟨x, hx, hl, hw⟩
    obtain ⟨hp, hk⟩ := hw 0 (Nat.succ_pos _)
    obtain ⟨s1, h1, ha⟩ := writeSlot_actsAlone v hx hp hk
    have hnext : CanWrite s t ⟨r + 1, k, vs, up⟩ := ⟨x, hx, hl, fun j hj => by
      have := hw (j + 1) (Nat.succ_lt_succ hj)
      rwa [show r + (j + 1) = r + 1 + j by omega] at this⟩
    obtain ⟨u, hu, hb⟩ := ih (r + 1) s1 up (hnext.mono ha)
    refine ⟨u, ?_, ha.trans hb⟩
    have h1' : s.writeSlot t (x.wb + r) v k = .ok s1 := h1
    simp only [State.writeRegs, hx, h1']
    exact hu

/-! ## The reads of a group (10 R240) -/

theorem mem_bundleThreads {s : State} {t : Nat} : t ∈ s.bundleThreads ↔ ∃ l ∈ s.cur.lanes, tkey s.cur.gang s.cur.crew l = t :=
  List.mem_map

/-- The threads of a bundle stand in ascending home-lane order, each once. -/
theorem nodup_bundleThreads {s : State} (hb : s.bundled) : s.bundleThreads.Nodup :=
  (List.Pairwise.imp Nat.ne_of_lt hb.2.1).map _ fun _ _ h => by simpa [tkey] using h

theorem bringLines_eq_self {srcs : List Src} {s : State} {ts : List Nat}
    (h : ∀ t ∈ ts, ReadyOrWaits (s.readAll t srcs)) : s.bringLines ts srcs = s := by
  have hone : ∀ t ∈ ts, (State.withLines (fun s => s.readAll t srcs) lineFuel s).1 = s := fun t ht => by
    rw [lineFuel, State.withLines]
    split
    case h_1 ln hln => obtain ⟨w, hw⟩ := h t ht _ hln; cases hw
    case h_2 => rfl
  rw [State.bringLines]
  induction ts with
  | nil => rfl
  | cons t r ih =>
    rw [List.foldl_cons, hone t List.mem_cons_self]
    exact ih (fun u hu => h u (List.mem_cons_of_mem t hu)) fun u hu => hone u (List.mem_cons_of_mem t hu)

/-- The first member reads, its reads take effect, and then the others read. -/
theorem laneReads_cons {srcs : List Src} {t : Nat} {r : List Nat} {s s1 : State} {vals : List (Nat × List Val)} :
    laneReads srcs (t :: r) s = .ok (vals, s1) ↔ ∃ vs l, s.readAll t srcs = .ok vs ∧
      laneReads srcs r (s.commit t srcs vs) = .ok (l, s1) ∧ vals = (t, vs) :: l := by
  constructor
  · intro h
    rw [laneReads] at h
    split at h
    case h_1 => cases h
    case h_2 vs hvs =>
      split at h
      case h_2 => cases h
      case h_1 l s2 hl => cases h; exact ⟨vs, l, hvs, hl, rfl⟩
  · rintro ⟨vs, l, hvs, hl, rfl⟩
    rw [laneReads, hvs]
    simp only [hl]

/-- A group that can read needs no line: what one member has read and popped takes nothing from another but its turn. -/
theorem readyOrWaits_of_laneReads {srcs : List Src} {ts : List Nat} {s s1 : State} {vals : List (Nat × List Val)}
    (hn : ts.Nodup) (h : laneReads srcs ts s = .ok (vals, s1)) : ∀ t ∈ ts, ReadyOrWaits (s.readAll t srcs) := by
  induction ts generalizing s s1 vals with
  | nil => exact fun _ ht => absurd ht List.not_mem_nil
  | cons t r ih =>
    obtain ⟨htr, hr⟩ := List.nodup_cons.1 hn
    obtain ⟨vs, l, hvs, hl, -⟩ := laneReads_cons.1 h
    intro u hu
    rcases List.mem_cons.1 hu with rfl | hu
    · rw [hvs]; exact readyOrWaits_ok vs
    · exact (commit_actsAlone s t srcs vs).readyOrWaits_readAll (fun hut => htr (hut ▸ hu)) (ih hr hl u hu)

/-- The values of a group stand with its members. -/
theorem keys_of_laneReads {srcs : List Src} {ts : List Nat} {s s1 : State} {vals : List (Nat × List Val)}
    (h : laneReads srcs ts s = .ok (vals, s1)) : vals.map (·.1) = ts := by
  induction ts generalizing s s1 vals with
  | nil => cases h; rfl
  | cons t r ih =>
    obtain ⟨vs, l, -, hl, rfl⟩ := laneReads_cons.1 h
    exact congrArg (t :: ·) (ih hl)

/-- Members that can each read, and pop nothing, can read one after another; each can then write as before. -/
theorem laneReads_ok {srcs : List Src} {e : Nat → Eff} (hp : ∀ q, Src.special (.pop q) ∉ srcs) : ∀ (ts : List Nat) (s : State),
    ts.Nodup → (∀ t ∈ ts, ∃ vs, s.readAll t srcs = .ok vs) →
    ∃ vals s1, laneReads srcs ts s = .ok (vals, s1) ∧ ∀ t, CanWrite s t (e t) → CanWrite s1 t (e t) := by
  intro ts
  induction ts with
  | nil => exact fun s _ _ => ⟨[], s, rfl, fun _ h => h⟩
  | cons t r ih =>
    intro s hn hr
    obtain ⟨htr, hnr⟩ := List.nodup_cons.1 hn
    obtain ⟨vs, hvs⟩ := hr t List.mem_cons_self
    have ha := commit_actsAlone s t srcs vs
    obtain ⟨vals, s1, hl, hw⟩ := ih (s.commit t srcs vs) hnr fun u hu => by
      rw [ha.readAll_eq (fun hut => htr (hut ▸ hu)) hp]
      exact hr u (List.mem_cons_of_mem t hu)
    exact ⟨(t, vs) :: vals, s1, laneReads_cons.2 ⟨vs, vals, hvs, hl, rfl⟩, fun u hu => hw u (hu.mono ha)⟩

/-! ## The writes of a group -/

/-- A thread that an instruction has completed for. -/
def Completed (s : State) (t : Nat) : Prop := ∃ y, s.threads.get? t = some y ∧ y.live = true ∧ y.due = false

/-- The end of a member's instruction, in the state `s` before its writes. -/
def completes (s : State) (t : Nat) (e : Eff) (y : Thread) : Thread := (e.upd y).finish (s.codeBase t) s.cur.len

theorem completes_actsAlone {t : Nat} {e : Eff} (s s1 : State) (he : ∀ x, base (e.upd x) = base x) :
    ActsAlone t s1 (s1.modT t (completes s t e)) :=
  .modT fun x => (base_finish _ _ _).trans (he x)

theorem completed_of_completes {t : Nat} {e e' : Eff} {s s1 : State} (hw : CanWrite s t e') (ha : ActsAlone t s s1)
    (he : ∀ x, base (e.upd x) = base x) : Completed (s1.modT t (completes s t e)) t := by
  obtain ⟨x, hx, hl, -⟩ := hw
  obtain ⟨y, hy, hb⟩ := ha.thread hx
  have hz : base (completes s t e y) = base x := ((base_finish _ _ _).trans (he y)).trans hb
  exact ⟨completes s t e y, by rw [State.modT_threads, Tab.get?_modify_self, hy, Option.map_some],
    ((congrArg (·.1) hz :) : (completes s t e y).live = x.live).trans hl, due_finish _ _ _⟩

/-- Members that can write do, one after another, and complete. -/
theorem laneWrites_ok {e : Nat → Eff} (he : ∀ t x, base ((e t).upd x) = base x) : ∀ (ts : List Nat) (s : State), ts.Nodup →
    (∀ t ∈ ts, CanWrite s t (e t)) → ∃ s', laneWrites (ts.map fun t => (t, e t)) s = .ok s' ∧
      (∀ t ∈ ts, Completed s' t) ∧ ∀ t, t ∉ ts → s'.threads.get? t = s.threads.get? t := by
  intro ts
  induction ts with
  | nil => exact fun s _ _ => ⟨s, rfl, fun _ h => absurd h List.not_mem_nil, fun _ _ => rfl⟩
  | cons t r ih =>
    intro s hn hw
    obtain ⟨htr, hnr⟩ := List.nodup_cons.1 hn
    have hwt := hw t List.mem_cons_self
    obtain ⟨s1, h1, ha⟩ := writeRegs_actsAlone (e t).regs (e t).reg s (e t).upd hwt
    have hb := ha.trans (completes_actsAlone s s1 (he t))
    obtain ⟨s', hs', hdone, hout⟩ := ih (s1.modT t (completes s t (e t))) hnr fun u hu => (hw u (List.mem_cons_of_mem t hu)).mono hb
    refine ⟨s', by rw [List.map_cons, laneWrites, h1]; exact hs', fun u hu => ?_, fun u hu => ?_⟩
    · rcases List.mem_cons.1 hu with rfl | hu
      · rw [Completed, hout u htr]
        exact completed_of_completes hwt ha (he u)
      · exact hdone u hu
    · obtain ⟨hut, hur⟩ := not_or.1 (mt List.mem_cons.2 hu)
      rw [hout u hur, hb.others u hut]

/-! ## A due group performs (10 R240) -/

section

variable {srcs : List Src} {b : Src} {out : LaneOut} {kw : Option KReg} {s s' s1 : State} {vals : List (Nat × List Val)}

/-- A group of an unprotected launch that has been found due and can read is performed at once. -/
theorem laneInstr_of_perform {effs : List (Nat × Eff)} {w : Word} (hu : s.unprotected)
    (hd : ∀ t ∈ s.bundleThreads, ∃ x, s.threads.get? t = some x ∧ x.due = true)
    (hr : laneReads srcs s.bundleThreads s = .ok (vals, s1))
    (h : lanePerform srcs out kw s.bundleThreads s = .ok (effs, w, s')) : laneInstr srcs b out kw s = .next s' := by
  obtain ⟨hb, g, hg, hprot⟩ := hu
  have hlines := bringLines_eq_self (readyOrWaits_of_laneReads (nodup_bundleThreads hb) hr)
  have hall : (s.bundleThreads.all fun t => match s.threads.get? t with | some x => x.due | none => false) = true :=
    List.all_eq_true.2 fun t ht => by
      obtain ⟨x, hx, hdue⟩ := hd t ht
      simp only [hx, hdue]
  rw [State.bundleThreads] at hlines h hall
  simp only [laneInstr, hg]
  rw [if_neg (by rw [Bool.not_eq_true, Bool.not_eq_false']; exact hall), hlines, hprot]
  simp only [h, Bool.not_false, if_true]

theorem lanePerform_eq {ts : List Nat} (hr : laneReads srcs ts s = .ok (vals, s1))
    (hw : laneWrites (ts.map fun t => (t, out s vals t)) s1 = .ok s') :
    lanePerform srcs out none ts s = .ok (ts.map fun t => (t, out s vals t), 0, s') := by
  simp only [lanePerform, hr, hw, Option.isSome_none, Bool.false_eq_true, if_false]

/-- The writes of members that a claim gives one after another. -/
theorem laneWrites_of_chain {d : Dst} {e : Nat → Eff} {f : Nat → Val × Byte} : ∀ (ts : List Nat) (s s' : State),
    (∀ t ∈ ts, e t = result d (f t).1 (f t).2) →
    Chain (fun s2 t s3 => ∃ s4, s2.writeRegs t d.reg.val d.k [(f t).1] = .ok s4 ∧
      s3 = s4.modT t fun y => ((y.raise (f t).2).latch (f t).1).finish (s2.codeBase t) s2.cur.len) ts s s' →
    laneWrites (ts.map fun t => (t, e t)) s = .ok s' := by
  intro ts
  induction ts with
  | nil => exact fun s s' _ hc => congrArg Except.ok (Eq.symm hc)
  | cons t r ih =>
    rintro s s' he ⟨s1, ⟨s4, h4, rfl⟩, hc⟩
    rw [List.map_cons, he t List.mem_cons_self, laneWrites]
    simp only [result, h4]
    exact ih _ _ (fun u hu => he u (List.mem_cons_of_mem t hu)) hc

/-- The values of a group of the bundle: one list for each member, in order. -/
def Keyed (s : State) (vals : List (Nat × List Val)) : Prop := vals.map (·.1) = s.bundleThreads

/-- A lane instruction gives each member what a claim says of the values that the group has read. -/
theorem group_of_out {i : Instr} {d : Dst} {f : State → (Nat → Option (List Val)) → Nat → Val × Byte}
    (hi : ∀ s, exec i s = laneInstr srcs b out none s)
    (hf : ∀ s vals, s.unprotected → Keyed s vals → ∀ t ∈ s.bundleThreads,
      out s vals t = result d (f s (member vals) (laneOf t)).1 (f s (member vals) (laneOf t)).2) : Claim.Group i srcs d f := by
  intro s s' s1 vals hu hd hr hc
  rw [hi]
  exact laneInstr_of_perform hu hd hr
    (lanePerform_eq hr (laneWrites_of_chain _ _ _ (hf s vals hu (keys_of_laneReads hr)) hc))

/-- A lane instruction that writes d completes for a due group that can read and can write. -/
theorem groupFinishes_of_out {i : Instr} {d : Dst} (hi : ∀ s, exec i s = laneInstr srcs b out none s)
    (ho : ∀ s vals t, ∃ v fl, out s vals t = result d v fl) : GroupFinishes i srcs d := by
  intro s hu hp hall
  have hn := nodup_bundleThreads hu.1
  obtain ⟨vals, s1, hr, hw⟩ := laneReads_ok (e := fun _ => result d (pt 0) 0) hp s.bundleThreads s hn fun t ht => by
    obtain ⟨x, -, -, -, -, -, hread⟩ := hall t ht
    exact hread
  have hcan : ∀ t ∈ s.bundleThreads, CanWrite s1 t (out s vals t) := fun t ht => by
    obtain ⟨x, hx, hl, -, hpend, hk, -⟩ := hall t ht
    obtain ⟨v, fl, he⟩ := ho s vals t
    rw [he]
    refine hw t ⟨x, hx, hl, fun j hj => ?_⟩
    obtain rfl : j = 0 := Nat.lt_one_iff.1 hj
    exact ⟨hpend, hk⟩
  obtain ⟨s', hs', hdone, -⟩ := laneWrites_ok (fun t x => by
    obtain ⟨v, fl, he⟩ := ho s vals t
    rw [he]
    rfl) s.bundleThreads s1 hn hcan
  refine ⟨s', ?_, hdone⟩
  rw [hi]
  refine laneInstr_of_perform hu (fun t ht => ?_) hr (lanePerform_eq hr hs')
  obtain ⟨x, hx, -, hdue, -⟩ := hall t ht
  exact ⟨x, hx, hdue⟩

end

/-! ## The members of a group by their lanes (10 R240, R242) -/

section

variable {s : State} {vals : List (Nat × List Val)} {t : Nat}

theorem gangOf_tkey {g c l : Nat} (hc : c < 32) (hl : l < 32) : gangOf (tkey g c l) = g := by
  rw [gangOf, tkey]; omega

theorem laneOf_tkey {g c l : Nat} (hl : l < 32) : laneOf (tkey g c l) = l := by
  rw [laneOf, tkey]; omega

/-- A thread of the bundle is the one on its lane. -/
theorem tkey_laneOf (hb : s.bundled) (ht : t ∈ s.bundleThreads) : tkey s.cur.gang s.cur.crew (laneOf t) = t := by
  obtain ⟨l, hl, rfl⟩ := mem_bundleThreads.1 ht
  rw [laneOf_tkey (hb.2.2 l hl)]

theorem gangOf_bundle (hb : s.bundled) (ht : t ∈ s.bundleThreads) : gangOf t = s.cur.gang := by
  obtain ⟨l, hl, rfl⟩ := mem_bundleThreads.1 ht
  exact gangOf_tkey hb.1 (hb.2.2 l hl)

/-- A lane of an unprotected crew is visible by its own number, and stands at that leaf of the trees. -/
theorem visLane_eq_laneOf (hu : s.unprotected) (ht : t ∈ s.bundleThreads) : s.visLane t = laneOf t := by
  obtain ⟨hb, g, hg, hp⟩ := hu
  simp [State.visLane, gangOf_bundle hb ht, hg, hp]

theorem leafOf_eq_laneOf (hu : s.unprotected) (ht : t ∈ s.bundleThreads) : s.leafOf t = laneOf t := by
  obtain ⟨hb, g, hg, hp⟩ := hu
  simp [State.leafOf, gangOf_bundle hb ht, hg, hp]

theorem mem_bundle_of_mem (hk : Keyed s vals) {e : Nat × List Val} (he : e ∈ vals) : e.1 ∈ s.bundleThreads :=
  hk ▸ List.mem_map_of_mem he

/-- Tests that agree on the elements of a list find the same one. -/
theorem find?_eq_of_forall_mem {α : Type} {p q : α → Bool} {l : List α} (h : ∀ x ∈ l, p x = q x) : l.find? p = l.find? q := by
  induction l with
  | nil => rfl
  | cons a r ih =>
    rw [List.find?_cons, List.find?_cons, h a List.mem_cons_self, ih fun x hx => h x (List.mem_cons_of_mem a hx)]

/-- A number that every member has in place of its lane finds the same member. -/
theorem find?_eq_member {n : Nat → Nat} (hn : ∀ t ∈ s.bundleThreads, n t = laneOf t) (hk : Keyed s vals) (i : Nat) :
    (vals.find? fun p => n p.1 == i) = vals.find? fun p => laneOf p.1 == i :=
  find?_eq_of_forall_mem fun e he => by rw [hn e.1 (mem_bundle_of_mem hk he)]

theorem memberAt_eq_member (hu : s.unprotected) (hk : Keyed s vals) : memberAt s vals = member vals := by
  funext i
  rw [memberAt, member, find?_eq_member (fun t ht => visLane_eq_laneOf hu ht) hk]

theorem find?_eq_some_of_nodup {α β : Type} [DecidableEq β] {f : α → β} {l : List α} {a : α} (hn : (l.map f).Nodup)
    (ha : a ∈ l) : (l.find? fun x => f x == f a) = some a := by
  induction l with
  | nil => cases ha
  | cons b r ih =>
    obtain ⟨hbr, hr⟩ := List.nodup_cons.1 hn
    rcases List.mem_cons.1 ha with rfl | ha
    · simp
    · have hne : f b ≠ f a := fun h => hbr (h ▸ List.mem_map_of_mem ha)
      rw [List.find?_cons_of_neg (by simpa using hne), ih hr ha]

/-- The lanes of the members are those of the bundle. -/
theorem lanes_eq_map (hb : s.bundled) (hk : Keyed s vals) : (vals.map fun e => laneOf e.1) = s.cur.lanes := by
  have h : (vals.map fun e => laneOf e.1) = (vals.map (·.1)).map laneOf := by rw [List.map_map]; rfl
  rw [h, hk, State.bundleThreads, List.map_map]
  exact (List.map_congr_left fun l hl => laneOf_tkey (hb.2.2 l hl)).trans (List.map_id _)

theorem member_of_mem (hb : s.bundled) (hk : Keyed s vals) {e : Nat × List Val} (he : e ∈ vals) :
    member vals (laneOf e.1) = some e.2 := by
  have hn : (vals.map fun e => laneOf e.1).Nodup := lanes_eq_map hb hk ▸ hb.2.1.imp Nat.ne_of_lt
  rw [member, find?_eq_some_of_nodup hn he, Option.map_some]

theorem ownVals_of_mem (hb : s.bundled) (hk : Keyed s vals) {e : Nat × List Val} (he : e ∈ vals) : ownVals vals e.1 = e.2 := by
  have hn : (vals.map (·.1)).Nodup := hk ▸ nodup_bundleThreads hb
  simp only [ownVals, find?_eq_some_of_nodup hn he]

theorem member_eq_ownVals (hb : s.bundled) (hk : Keyed s vals) (ht : t ∈ s.bundleThreads) :
    member vals (laneOf t) = some (ownVals vals t) := by
  obtain ⟨e, he, rfl⟩ := List.mem_map.1 (hk ▸ ht : t ∈ vals.map (·.1))
  rw [member_of_mem hb hk he, ownVals_of_mem hb hk he]

/-- What a member has read itself. -/
theorem dataOf_own (hb : s.bundled) (hk : Keyed s vals) (ht : t ∈ s.bundleThreads) (n : Nat) (e : Word) :
    dataOf (member vals) (laneOf t) n e = dataAt (ownVals vals t) n := by
  rw [dataOf, member_eq_ownVals hb hk ht]

theorem isSome_member_iff (hb : s.bundled) (hk : Keyed s vals) (l : Nat) : (member vals l).isSome = true ↔ l ∈ s.cur.lanes := by
  rw [← lanes_eq_map hb hk, member, Option.isSome_map, List.find?_isSome, List.mem_map]
  simp only [beq_iff_eq]

/-- The lanes of the bundle are those of the 32 that have a member. -/
theorem lanes_eq_filter (hb : s.bundled) (hk : Keyed s vals) :
    s.cur.lanes = (List.range 32).filter fun l => (member vals l).isSome := by
  have hperm : List.Perm s.cur.lanes ((List.range 32).filter fun l => (member vals l).isSome) :=
    (List.perm_ext_iff_of_nodup (hb.2.1.imp Nat.ne_of_lt) (List.nodup_range.filter _)).2 fun l => by
      rw [List.mem_filter, isSome_member_iff hb hk, List.mem_range]
      exact ⟨fun h => ⟨hb.2.2 l h, h⟩, fun h => h.2⟩
  exact hperm.eq_of_pairwise (fun _ _ _ _ hab hba => absurd hab (Nat.lt_asymm hba)) hb.2.1 (List.pairwise_lt_range.filter _)

/-- The lane mask of a test, as the rules give it (10 R242). -/
def laneMask (q : Nat → Bool) : Nat := (List.range 32).foldl (fun n l => if q l then n + 2 ^ l else n) 0

theorem maskWhere_eq_laneMask (hu : s.unprotected) (hk : Keyed s vals) {p : Nat → List Val → Bool} {q : Nat → Bool}
    (hp : ∀ e ∈ vals, p e.1 e.2 = q (laneOf e.1)) :
    maskWhere s vals p = laneMask fun l => (member vals l).isSome && q l := by
  calc maskWhere s vals p
      = vals.foldl (fun n e => if q (laneOf e.1) then n + 2 ^ laneOf e.1 else n) 0 :=
        List.foldl_rel (r := Eq) rfl fun e he n n' hn => by rw [hn, hp e he, visLane_eq_laneOf hu (mem_bundle_of_mem hk he)]
    _ = s.cur.lanes.foldl (fun n l => if q l then n + 2 ^ l else n) 0 := by rw [← lanes_eq_map hu.1 hk, List.foldl_map]
    _ = laneMask fun l => (member vals l).isSome && q l := by
        rw [lanes_eq_filter hu.1 hk, List.foldl_filter, laneMask]
        refine List.foldl_rel (r := Eq) rfl fun l _ n n' hn => ?_
        rw [hn]
        cases (member vals l).isSome <;> rfl

/-- A test of the members is a test of their lanes. -/
theorem map_eq_mapLanes (hb : s.bundled) (hk : Keyed s vals) {p q : Nat → Bool} (hp : ∀ e ∈ vals, p e.1 = q (laneOf e.1)) :
    (vals.map fun e => p e.1) = ((List.range 32).filter fun l => (member vals l).isSome).map q := by
  rw [← lanes_eq_filter hb hk, ← lanes_eq_map hb hk, List.map_map]
  exact List.map_congr_left hp

theorem any_eq_anyLane (hb : s.bundled) (hk : Keyed s vals) {p q : Nat → Bool} (hp : ∀ e ∈ vals, p e.1 = q (laneOf e.1)) :
    (vals.any fun e => p e.1) = (List.range 32).any fun l => (member vals l).isSome && q l := by
  have h := congrArg (List.any · id) (map_eq_mapLanes hb hk hp)
  simp only [List.any_map] at h
  exact h.trans List.any_filter

theorem all_eq_allLanes (hb : s.bundled) (hk : Keyed s vals) {p q : Nat → Bool} (hp : ∀ e ∈ vals, p e.1 = q (laneOf e.1)) :
    (vals.all fun e => p e.1) = (List.range 32).all fun l => !(member vals l).isSome || q l := by
  have h := congrArg (List.all · id) (map_eq_mapLanes hb hk hp)
  simp only [List.all_map] at h
  exact h.trans List.all_filter

/-- The leaves of a tree are the values on the 32 lanes. -/
theorem leaves_eq_map (hu : s.unprotected) (hk : Keyed s vals) {α : Type} (ident : α) (f : Word → α) :
    leaves s vals ident f = (List.range 32).map fun l => ((member vals l).map fun vs => f (dataAt vs 0)).getD ident := by
  refine List.map_congr_left fun l _ => ?_
  rw [find?_eq_member (fun t ht => leafOf_eq_laneOf hu ht) hk, member]
  cases vals.find? fun p => laneOf p.1 == l <;> rfl

end

/-! ## Exchanges (10 R242) -/

section

variable {d : Dst} {a b : Src}

theorem group_shfl_idx : Claim.Group (.shfl .idx d a b) [a, .oc d.reg, b] d fun _ m l =>
    (pt (dataOf m ((dataOf m l 1 0).toNat % 32) 0 (dataOf m l 0 0)), 0) :=
  group_of_out (fun _ => rfl) fun s vals hu hk t ht => by
    simp only [dataOf_own hu.1 hk ht, shflOut, memberAt_eq_member hu hk]
    rfl

theorem group_shfl_xor : Claim.Group (.shfl .xor d a b) [a, .oc d.reg, b] d fun _ m l =>
    (pt (dataOf m (l ^^^ ((dataOf m l 1 0).toNat % 32)) 0 (dataOf m l 0 0)), 0) :=
  group_of_out (fun _ => rfl) fun s vals hu hk t ht => by
    simp only [dataOf_own hu.1 hk ht, shflOut, memberAt_eq_member hu hk, visLane_eq_laneOf hu ht]
    rfl

theorem group_lsh_up : Claim.Group (.lsh .up d a b) [a, .oc d.reg, b] d fun _ m l =>
    (pt (if l = 0 then dataOf m l 1 0 else dataOf m (l - 1) 0 (dataOf m l 1 0)), 0) :=
  group_of_out (fun _ => rfl) fun s vals hu hk t ht => by
    simp only [dataOf_own hu.1 hk ht, lshOut, memberAt_eq_member hu hk, visLane_eq_laneOf hu ht]
    by_cases h : laneOf t = 0
    · simp only [if_pos h]
    · simp only [if_neg h]
      rfl

theorem group_lsh_dn : Claim.Group (.lsh .dn d a b) [a, .oc d.reg, b] d fun _ m l =>
    (pt (dataOf m (l + 1) 0 (dataOf m l 1 0)), 0) :=
  group_of_out (fun _ => rfl) fun s vals hu hk t ht => by
    simp only [dataOf_own hu.1 hk ht, lshOut, memberAt_eq_member hu hk, visLane_eq_laneOf hu ht]
    rfl

theorem group_matchLane : Claim.Group (.matchLane d a b) [a, b] d fun _ m l =>
    (pt (BitVec.ofNat 64 (laneMask fun j => (m j).isSome && dataOf m j 0 0 == dataOf m l 0 0)), 0) :=
  group_of_out (fun _ => rfl) fun s vals hu hk t ht => by
    simp only [dataOf_own hu.1 hk ht, matchOut]
    rw [maskWhere_eq_laneMask (q := fun j => dataOf (member vals) j 0 0 == dataAt (ownVals vals t) 0) hu hk fun e he => by
      rw [dataOf_own hu.1 hk (mem_bundle_of_mem hk he), ownVals_of_mem hu.1 hk he]]

variable {p : PReg} {se : Sense}

/-- The predicate of a thread matches the sense. -/
def threadHit (p : PReg) (se : Sense) (s : State) (t : Nat) : Bool :=
  match s.threads.get? t with | some x => senseHit se (x.pred p) | none => false

/-- The predicate of the thread on a lane of the current crew matches the sense. -/
def seatHit (p : PReg) (se : Sense) (s : State) (l : Nat) : Bool := threadHit p se s (tkey s.cur.gang s.cur.crew l)

/-- The lane has a member, whose predicate matches the sense. -/
def laneHit (p : PReg) (se : Sense) (s : State) (m : Nat → Option (List Val)) (l : Nat) : Bool :=
  (m l).isSome && seatHit p se s l

/-- A member of the bundle is the thread that its lane names. -/
theorem threadHit_of_mem {s : State} {vals : List (Nat × List Val)} (hb : s.bundled) (hk : Keyed s vals)
    {e : Nat × List Val} (he : e ∈ vals) : threadHit p se s e.1 = seatHit p se s (laneOf e.1) := by
  rw [seatHit, tkey_laneOf hb (mem_bundle_of_mem hk he)]

theorem group_vote_ballot : Claim.Group (.vote .ballot d p se b) [b] d fun s m _ =>
    (pt (BitVec.ofNat 64 (laneMask (laneHit p se s m))), 0) :=
  group_of_out (fun _ => rfl) fun s vals hu hk t _ => by
    show result d (pt (BitVec.ofNat 64 (maskWhere s vals fun t _ => threadHit p se s t))) 0 = _
    rw [maskWhere_eq_laneMask hu hk fun e he => threadHit_of_mem hu.1 hk he]
    rfl

theorem group_vote_any : Claim.Group (.vote .any d p se b) [b] d fun s m _ =>
    (pt (if (List.range 32).any (laneHit p se s m) then 1 else 0), 0) :=
  group_of_out (fun _ => rfl) fun s vals hu hk t _ => by
    show result d (pt (BitVec.ofNat 64 (if vals.any fun e => threadHit p se s e.1 then 1 else 0))) 0 = _
    rw [any_eq_anyLane hu.1 hk fun e he => threadHit_of_mem hu.1 hk he, apply_ite (BitVec.ofNat 64)]
    rfl

theorem group_vote_all : Claim.Group (.vote .all d p se b) [b] d fun s m _ =>
    (pt (if (List.range 32).all fun j => (m j).isNone || laneHit p se s m j then 1 else 0), 0) :=
  group_of_out (fun _ => rfl) fun s vals hu hk t _ => by
    have hl (l : Nat) : ((member vals l).isNone || laneHit p se s (member vals) l) =
        (!(member vals l).isSome || seatHit p se s l) := by
      rw [laneHit]
      cases member vals l <;> rfl
    show result d (pt (BitVec.ofNat 64 (if vals.all fun e => threadHit p se s e.1 then 1 else 0))) 0 = _
    rw [all_eq_allLanes hu.1 hk fun e he => threadHit_of_mem hu.1 hk he, apply_ite (BitVec.ofNat 64)]
    simp only [hl]
    rfl

end

/-! ## bcast.first (10 R242) -/

theorem laneWrites_of_finishes : ∀ (ts : List Nat) (s s' : State),
    Chain (fun s2 u s3 => s3 = s2.modT u fun y => y.finish (s2.codeBase u) s2.cur.len) ts s s' →
    laneWrites (ts.map fun t => (t, ({} : Eff))) s = .ok s' := by
  intro ts
  induction ts with
  | nil => exact fun s s' hc => congrArg Except.ok (Eq.symm hc)
  | cons t r ih =>
    rintro s s' ⟨s1, rfl, hc⟩
    exact ih _ _ hc

theorem ckOf_bundle {s : State} {t : Nat} (hb : s.bundled) (ht : t ∈ s.bundleThreads) : ckOf t = s.curCrew := by
  obtain ⟨l, hl, rfl⟩ := mem_bundleThreads.1 ht
  have := hb.2.2 l hl
  rw [ckOf, tkey, State.curCrew, ckey]
  omega

/-- The value of the lowest member goes to the k register of the crew, and every member completes. -/
theorem exec_bcastFirst {a b : Src} {k : KReg} {s s1 s' : State} {t : Nat} {r : List Nat} {vals : List (Nat × List Val)}
    (hu : s.unprotected) (ht : s.bundleThreads = t :: r)
    (hd : ∀ u ∈ s.bundleThreads, ∃ x, s.threads.get? u = some x ∧ x.due = true)
    (hr : laneReads [a, b] s.bundleThreads s = .ok (vals, s1)) (hk : s.kPending s.curCrew k.val = false)
    (hw : laneWrites (s.bundleThreads.map fun t => (t, ({} : Eff)))
      (s1.setK s.curCrew k (dataOf (member vals) (laneOf t) 0 0)) = .ok s') :
    exec (.bcastFirst k a b) s = .next s' := by
  have hkeys : Keyed s vals := keys_of_laneReads hr
  have hfirst : dataOf (member vals) (laneOf t) 0 0 = dataAt (vals.headD (0, [])).2 0 := by
    cases vals with
    | nil => rw [Keyed, ht] at hkeys; cases hkeys
    | cons e q =>
      have he : e.1 = t := by rw [Keyed, ht] at hkeys; exact (List.cons.inj hkeys).1
      rw [← he, dataOf, member_of_mem hu.1 hkeys List.mem_cons_self, List.headD_cons]
  have hck : ckOf (s.bundleThreads.headD 0) = s.curCrew := by
    rw [ht, List.headD_cons]
    exact ckOf_bundle hu.1 (ht ▸ List.mem_cons_self)
  rw [hfirst] at hw
  have hperf : lanePerform [a, b] (fun _ _ _ => {}) (some k) s.bundleThreads s =
      .ok (s.bundleThreads.map fun t => (t, {}), dataAt (vals.headD (0, [])).2 0, s') := by
    simp only [lanePerform, hr, hck, hk, hw, Bool.false_eq_true, if_false, Option.isSome_some, if_true]
  exact laneInstr_of_perform hu hd hr hperf

theorem bcastFirst_finishes {a b : Src} {k : KReg} {s : State} (hu : s.unprotected) (hne : s.bundleThreads ≠ [])
    (hp : ∀ u, Src.special (.pop u) ∉ [a, b]) (hk : s.kPending s.curCrew k.val = false)
    (hall : ∀ t ∈ s.bundleThreads, ∃ x, s.threads.get? t = some x ∧ x.live = true ∧ x.due = true ∧
      ∃ vs, s.readAll t [a, b] = .ok vs) :
    ∃ s', exec (.bcastFirst k a b) s = .next s' ∧ ∀ t ∈ s.bundleThreads, Completed s' t := by
  have hn := nodup_bundleThreads hu.1
  obtain ⟨t, r, ht⟩ := List.exists_cons_of_ne_nil hne
  obtain ⟨vals, s1, hr, hw⟩ := laneReads_ok (e := fun _ => ({} : Eff)) hp s.bundleThreads s hn fun u hu => by
    obtain ⟨x, -, -, -, hread⟩ := hall u hu
    exact hread
  obtain ⟨s', hs', hdone, -⟩ := laneWrites_ok (e := fun _ => ({} : Eff)) (fun _ _ => rfl) s.bundleThreads
    (s1.setK s.curCrew k (dataOf (member vals) (laneOf t) 0 0)) hn fun u hu => by
      obtain ⟨x, hx, hl, -⟩ := hall u hu
      obtain ⟨y, hy, hlive, -⟩ := hw u ⟨x, hx, hl, fun j hj => absurd hj (Nat.not_lt_zero j)⟩
      exact ⟨y, hy, hlive, fun j hj => absurd hj (Nat.not_lt_zero j)⟩
  refine ⟨s', exec_bcastFirst hu ht (fun u hu => ?_) hr hk hs', hdone⟩
  obtain ⟨x, hx, -, hdue, -⟩ := hall u hu
  exact ⟨x, hx, hdue⟩

/-- Settles O28: in an unprotected crew each lane is its member's visible index. -/
theorem laneExchanges : Obligations.LaneExchanges := fun _ _ _ _ _ _ _ _ _ =>
  ⟨group_shfl_idx, group_shfl_xor, group_lsh_up, group_lsh_dn, group_matchLane, group_vote_ballot, group_vote_any, group_vote_all,
    fun _ _ _ _ _ _ hu ht hd hr hk hc => exec_bcastFirst hu ht hd hr hk (laneWrites_of_finishes _ _ _ hc),
    groupFinishes_of_out (fun _ => rfl) fun _ _ _ => ⟨_, _, rfl⟩, groupFinishes_of_out (fun _ => rfl) fun _ _ _ => ⟨_, _, rfl⟩,
    groupFinishes_of_out (fun _ => rfl) fun _ _ _ => ⟨_, _, rfl⟩, groupFinishes_of_out (fun _ => rfl) fun _ _ _ => ⟨_, _, rfl⟩,
    fun _ hu hne hp hk hall => bcastFirst_finishes hu hne hp hk hall⟩

end Sys2Proof.LaneGroups

/-! PROOFS. Integer reductions and scans of a lane group, and float reductions in their fixed tree (10 R243, R244). -/

namespace Sys2Proof.LaneReductions

open Sys2Proof.Machine Sys2Proof.Claim Sys2Proof.Laws Sys2Proof.IntegerLane Sys2Proof.LaneGroups

/-! ## The tree of R243 -/

section

variable {α β : Type}

theorem length_pairUp (op : α → α → α) (l : List α) : (pairUp op l).length = (l.length + 1) / 2 := by
  induction l using pairUp.induct with
  | case1 a b r ih => simp only [pairUp, List.length_cons, ih]; omega
  | case2 l h =>
    match l with
    | [] | [_] => simp only [pairUp, List.length_nil, List.length_singleton]
    | a :: b :: r => exact absurd rfl (h a b r)

/-- Pairing neighbours keeps the value of a fold under an associative operation. -/
theorem foldl_pairUp {op : α → α → α} (ha : ∀ x y z, op (op x y) z = op x (op y z)) (l : List α) (i : α) :
    (pairUp op l).foldl op i = l.foldl op i := by
  induction l using pairUp.induct generalizing i with
  | case1 a b r ih => rw [pairUp, List.foldl_cons, ih, List.foldl_cons, List.foldl_cons, ha]
  | case2 l h => rw [pairUp]; exact h

/-- For an associative operation with an identity the tree is the fold over the lanes. -/
theorem treeFold_eq_foldl {op : α → α → α} {i : α} (ha : ∀ x y z, op (op x y) z = op x (op y z)) (hi : ∀ x, op i x = x)
    (l : List α) (hl : l.length = 32) : treeFold op i l = l.foldl op i := by
  have hlen : (pairUp op (pairUp op (pairUp op (pairUp op (pairUp op l))))).length = 1 := by
    simp only [length_pairUp, hl]
  obtain ⟨x, hx⟩ := List.length_eq_one_iff.1 hlen
  have hfold : (pairUp op (pairUp op (pairUp op (pairUp op (pairUp op l))))).foldl op i = l.foldl op i := by
    simp only [foldl_pairUp ha]
  rw [hx] at hfold
  rw [treeFold, hx, List.headD_cons, ← hfold, List.foldl_cons, List.foldl_nil, hi]

/-- A function that carries one operation to another carries their trees. -/
theorem pairUp_map {h : α → β} {op : α → α → α} {op' : β → β → β} (ho : ∀ x y, op' (h x) (h y) = h (op x y)) (l : List α) :
    pairUp op' (l.map h) = (pairUp op l).map h := by
  induction l using pairUp.induct with
  | case1 a b r ih => rw [List.map_cons, List.map_cons, pairUp, pairUp, List.map_cons, ih, ho]
  | case2 l hl =>
    match l with
    | [] | [_] => simp only [pairUp, List.map_nil, List.map_cons]
    | a :: b :: r => exact absurd rfl (hl a b r)

theorem headD_map (h : α → β) (l : List α) (i : α) : (l.map h).headD (h i) = h (l.headD i) := by
  cases l <;> rfl

theorem treeFold_map {h : α → β} {op : α → α → α} {op' : β → β → β} (ho : ∀ x y, op' (h x) (h y) = h (op x y)) (i : α)
    (l : List α) : treeFold op' (h i) (l.map h) = h (treeFold op i l) := by
  simp only [treeFold, pairUp_map ho, headD_map]

end

/-! ## Operations on the low w bits -/

section

variable {w : Width}

theorem low_zx (n : Nat) : low w (zx w n) = n % 2 ^ wbits w := by
  cases w <;> simp [low, zx, wbits]

/-- The low w bits of the result depend, through `c`, on those of the operands. -/
def OnLow (w : Width) (op : Word → Word → Word) (c : Nat → Nat → Nat) : Prop := ∀ x y, c (low w x) (low w y) = low w (op x y)

theorem onLow_add : OnLow w (· + ·) fun a b => (a + b) % 2 ^ wbits w := fun x y => by
  cases w <;> simp only [low, wbits, BitVec.toNat_add] <;> omega

theorem onLow_addW : OnLow w (addW w) fun a b => (a + b) % 2 ^ wbits w := fun x y => by rw [addW, low_zx]

theorem onLow_and : OnLow w (· &&& ·) (· &&& ·) := fun x y => by
  simp only [low, BitVec.toNat_and, Nat.and_mod_two_pow]

theorem onLow_or : OnLow w (· ||| ·) (· ||| ·) := fun x y => by
  simp only [low, BitVec.toNat_or, Nat.or_mod_two_pow]

theorem onLow_xor : OnLow w (· ^^^ ·) (· ^^^ ·) := fun x y => by
  simp only [low, BitVec.toNat_xor, Nat.xor_mod_two_pow]

/-- Of 64 bits, every operation. -/
theorem onLow_w64 (op : Word → Word → Word) : OnLow .w64 op fun a b => (op (BitVec.ofNat 64 a) (BitVec.ofNat 64 b)).toNat :=
  fun x y => by simp only [low_w64, BitVec.ofNat_toNat, BitVec.setWidth_eq]

end

/-! ## Reductions and scans of words (10 R243) -/

section

variable {s : State} {vals : List (Nat × List Val)} {w : Width} {op op' : Word → Word → Word} {c : Nat → Nat → Nat}
  {ident : Word}

/-- A w-bit result zero-extended. -/
def wide (w : Width) (v : Word) : Word := match w with | .w64 => v | .w32 => up (lo v)

theorem zx_toNat_eq_wide (v : Word) : zx w v.toNat = wide w v := by
  cases w
  · rw [zx_w32, BitVec.ofNat_toNat, wide, lo]
  · rw [zx_w64, BitVec.ofNat_toNat, BitVec.setWidth_eq, wide]

theorem wide_eq_of_low {x y : Word} (h : low w x = low w y) : zx w x.toNat = wide w y := by
  rw [← zx_toNat_eq_wide]
  exact congrArg (BitVec.ofNat 64) h

theorem overLanes_eq_foldl (op : Word → Word → Word) (ident : Word) (m : Nat → Option (List Val)) (n : Nat) :
    overLanes op ident m n = ((List.range n).map fun l => dataOf m l 0 ident).foldl op ident := by
  rw [overLanes, List.foldl_map]

/-- The leaves are the data on the lanes, in their low w bits. -/
theorem map_low_leaves (hu : s.unprotected) (hk : Keyed s vals) :
    (leaves s vals ident fun v => zx w v.toNat).map (low w) =
      ((List.range 32).map fun l => dataOf (member vals) l 0 ident).map (low w) := by
  rw [leaves_eq_map hu hk, List.map_map, List.map_map]
  refine List.map_congr_left fun l _ => ?_
  rw [Function.comp_apply, Function.comp_apply, dataOf]
  cases member vals l with
  | none => rfl
  | some vs => exact low_zx _

/-- The tree over the leaves of a group is the operation over its lanes, in the low w bits. -/
theorem low_treeFold (hu : s.unprotected) (hk : Keyed s vals) (ho : OnLow w op c) (ho' : OnLow w op' c)
    (ha : ∀ x y z, op' (op' x y) z = op' x (op' y z)) (hi : ∀ x, op' ident x = x) :
    low w (treeFold op ident (leaves s vals ident fun v => zx w v.toNat)) = low w (overLanes op' ident (member vals) 32) := by
  have hlen : ((List.range 32).map fun l => dataOf (member vals) l 0 ident).length = 32 := by
    rw [List.length_map, List.length_range]
  rw [overLanes_eq_foldl, ← treeFold_eq_foldl ha hi _ hlen, ← treeFold_map ho, map_low_leaves hu hk, treeFold_map ho']

theorem group_redux {i : Instr} {d : Dst} {a b : Src} (hi : ∀ s, exec i s = laneInstr [a, b] b (reduxOut d w op ident) none s)
    (ho : OnLow w op c) (ho' : OnLow w op' c)
    (ha : ∀ x y z, op' (op' x y) z = op' x (op' y z)) (hid : ∀ x, op' ident x = x) :
    Claim.Group i [a, b] d fun _ m _ => (pt (wide w (overLanes op' ident m 32)), 0) :=
  group_of_out hi fun s vals hu hk t _ => by
    rw [reduxOut, wide_eq_of_low (low_treeFold hu hk ho ho' ha hid)]

/-- A scan stops at the leaf of the own lane. -/
theorem group_scan {i : Instr} {d : Dst} {a b : Src} (hi : ∀ s, exec i s = laneInstr [a, b] b (scanOut d w op ident) none s)
    (ho : OnLow w op c) (ho' : OnLow w op' c) :
    Claim.Group i [a, b] d fun _ m l => (pt (wide w (overLanes op' ident m (l + 1))), 0) :=
  group_of_out hi fun s vals hu hk t ht => by
    have hlane : laneOf t + 1 ≤ 32 := Nat.mod_lt t (by decide)
    have hl := congrArg (List.take (laneOf t + 1)) (map_low_leaves (w := w) (ident := ident) hu hk)
    rw [← List.map_take, ← List.map_take, ← List.map_take, List.take_range, Nat.min_eq_left hlane] at hl
    have hr : low w (((leaves s vals ident fun v => zx w v.toNat).take (laneOf t + 1)).foldl op ident) =
        low w (overLanes op' ident (member vals) (laneOf t + 1)) := by
      rw [overLanes_eq_foldl, ← List.foldl_map_hom ho, hl, List.foldl_map_hom ho']
    simp only [scanOut, leafOf_eq_laneOf hu ht]
    rw [wide_eq_of_low hr]

end

/-! ## min and max (10 R228, R243) -/

section

variable {g : Sgn}

theorem val64_injective (g : Sgn) : Function.Injective (val64 g) := fun a b h => by
  rw [← ofInt_val64 g a, h, ofInt_val64]

/-- The lesser and the greater of two words under a signedness. -/
def lesser (g : Sgn) (x y : Word) : Word := if leq g x y then x else y
def greater (g : Sgn) (x y : Word) : Word := if leq g y x then x else y

theorem val64_lesser (x y : Word) : val64 g (lesser g x y) = min (val64 g x) (val64 g y) := by
  have hle := val64_le_iff g x y
  by_cases h : leq g x y = true
  · have := hle.2 h
    rw [lesser, if_pos h]
    omega
  · have := mt hle.1 h
    rw [lesser, if_neg h]
    omega

theorem val64_greater (x y : Word) : val64 g (greater g x y) = max (val64 g x) (val64 g y) := by
  have hle := val64_le_iff g y x
  by_cases h : leq g y x = true
  · have := hle.2 h
    rw [greater, if_pos h]
    omega
  · have := mt hle.1 h
    rw [greater, if_neg h]
    omega

theorem lesser_assoc (x y z : Word) : lesser g (lesser g x y) z = lesser g x (lesser g y z) :=
  val64_injective g (by rw [val64_lesser, val64_lesser, val64_lesser, val64_lesser]; omega)

theorem greater_assoc (x y z : Word) : greater g (greater g x y) z = greater g x (greater g y z) :=
  val64_injective g (by rw [val64_greater, val64_greater, val64_greater, val64_greater]; omega)

/-- Every word lies within its type. -/
theorem val64_mem_type (v : Word) : typeMin g ≤ val64 g v ∧ val64 g v ≤ typeMax g := by
  cases g
  · have := v.isLt
    rw [val64_n, typeMin, typeMax]
    omega
  · have hlo := BitVec.le_toInt v
    have hhi := BitVec.toInt_lt (x := v)
    rw [val64_s, typeMin, typeMax]
    omega

theorem val64_minIdent : val64 g (minIdent g) = typeMax g := by cases g <;> rfl

theorem val64_maxIdent : val64 g (maxIdent g) = typeMin g := by cases g <;> rfl

theorem lesser_minIdent (x : Word) : lesser g (minIdent g) x = x :=
  val64_injective g (by
    have := (val64_mem_type (g := g) x).2
    rw [val64_lesser, val64_minIdent]
    omega)

theorem greater_maxIdent (x : Word) : greater g (maxIdent g) x = x :=
  val64_injective g (by
    have := (val64_mem_type (g := g) x).1
    rw [val64_greater, val64_maxIdent]
    omega)

theorem minW_eq_lesser (g : Sgn) : minW g = lesser g := funext fun x => funext (minW_eq g x)

theorem maxW_eq_greater (g : Sgn) : maxW g = greater g := funext fun x => funext (maxW_eq g x)

end

/-! ## The integer instructions (10 R243) -/

section

variable {w : Width} {g : Sgn} {d : Dst} {a b : Src}

theorem group_reduxAdd : Claim.Group (.reduxAdd w d a b) [a, b] d fun _ m _ => (pt (wide w (overLanes (· + ·) 0 m 32)), 0) :=
  group_redux (op := addW w) (fun _ => rfl) onLow_addW onLow_add BitVec.add_assoc BitVec.zero_add

theorem group_reduxAnd : Claim.Group (.reduxAnd w d a b) [a, b] d fun _ m _ =>
    (pt (wide w (overLanes (· &&& ·) (BitVec.allOnes 64) m 32)), 0) :=
  group_redux (op := (· &&& ·)) (fun _ => rfl) onLow_and onLow_and BitVec.and_assoc fun _ => BitVec.allOnes_and

theorem group_reduxOr : Claim.Group (.reduxOr w d a b) [a, b] d fun _ m _ => (pt (wide w (overLanes (· ||| ·) 0 m 32)), 0) :=
  group_redux (op := (· ||| ·)) (fun _ => rfl) onLow_or onLow_or BitVec.or_assoc fun _ => BitVec.zero_or

theorem group_reduxXor : Claim.Group (.reduxXor w d a b) [a, b] d fun _ m _ => (pt (wide w (overLanes (· ^^^ ·) 0 m 32)), 0) :=
  group_redux (op := (· ^^^ ·)) (fun _ => rfl) onLow_xor onLow_xor BitVec.xor_assoc fun _ => BitVec.zero_xor

theorem group_reduxMin : Claim.Group (.reduxMin g d a b) [a, b] d fun _ m _ => (pt (overLanes (lesser g) (minIdent g) m 32), 0) :=
  group_redux (w := .w64) (op := minW g) (fun _ => rfl) (minW_eq_lesser g ▸ onLow_w64 _) (onLow_w64 _) lesser_assoc lesser_minIdent

theorem group_reduxMax : Claim.Group (.reduxMax g d a b) [a, b] d fun _ m _ => (pt (overLanes (greater g) (maxIdent g) m 32), 0) :=
  group_redux (w := .w64) (op := maxW g) (fun _ => rfl) (maxW_eq_greater g ▸ onLow_w64 _) (onLow_w64 _) greater_assoc greater_maxIdent

theorem group_scanAdd : Claim.Group (.scanAdd w d a b) [a, b] d fun _ m l => (pt (wide w (overLanes (· + ·) 0 m (l + 1))), 0) :=
  group_scan (op := addW w) (fun _ => rfl) onLow_addW onLow_add

theorem group_scanMax : Claim.Group (.scanMax g d a b) [a, b] d fun _ m l => (pt (overLanes (greater g) (maxIdent g) m (l + 1)), 0) :=
  group_scan (w := .w64) (op := maxW g) (fun _ => rfl) (maxW_eq_greater g ▸ onLow_w64 _) (onLow_w64 _)

end

/-! ## Float reductions (10 R243, R244) -/

section

variable {α : Type}

/-- One level of the tree, pair by pair. -/
def pairs (op : α → α → α) (e : α) (l : List α) : List α :=
  (List.range (l.length / 2)).map fun i => op (l.getD (2 * i) e) (l.getD (2 * i + 1) e)

theorem length_pairs (op : α → α → α) (e : α) (l : List α) : (pairs op e l).length = l.length / 2 := by simp [pairs]

theorem pairUp_eq_pairs (op : α → α → α) (e : α) : ∀ (n : Nat) (l : List α), l.length = 2 * n → pairUp op l = pairs op e l := by
  intro n
  induction n with
  | zero => intro l hl; obtain rfl := List.length_eq_zero_iff.1 hl; rw [pairUp] <;> simp [pairs]
  | succ n ih =>
    intro l hl
    match l with
    | a :: b :: r =>
      have hr : r.length = 2 * n := by simp only [List.length_cons] at hl; omega
      have hlen : (a :: b :: r).length / 2 = r.length / 2 + 1 := by simp only [List.length_cons]; omega
      rw [pairUp, ih r hr, pairs, pairs, hlen, List.range_succ_eq_map, List.map_cons, List.map_map]
      rfl

/-- The tree of five levels over 32 leaves. -/
theorem treeFold_eq_pairs (op : α → α → α) (e : α) (l : List α) (hl : l.length = 32) :
    treeFold op e l = (pairs op e (pairs op e (pairs op e (pairs op e (pairs op e l))))).getD 0 e := by
  have hlen (n : Nat) (q : List α) (hq : q.length = 2 * n) : (pairs op e q).length = n := by
    rw [length_pairs, hq, Nat.mul_div_cancel_left n (by decide)]
  have h1 := hlen 16 l hl
  have h2 := hlen 8 _ h1
  have h3 := hlen 4 _ h2
  have h4 := hlen 2 _ h3
  rw [treeFold, pairUp_eq_pairs op e 16 l hl, pairUp_eq_pairs op e 8 _ h1, pairUp_eq_pairs op e 4 _ h2,
    pairUp_eq_pairs op e 2 _ h3, pairUp_eq_pairs op e 1 _ h4, List.headD_eq_head?_getD, List.getD_eq_getElem?_getD,
    List.head?_eq_getElem?]

end

/-- A node of the tree: one operation, with the flags of both sides (R244). -/
def node (op : Nat → Nat → FRes) (x y : FRes) : FRes := ((op x.1 y.1).1, x.2 ||| y.2 ||| (op x.1 y.1).2)

/-- The leaf of a lane: its member's value in the format, or the identity. -/
def leaf (f : FW) (ident : Nat) (m : Nat → Option (List Val)) (l : Nat) : FRes :=
  match m l with | some vs => ((dataAt vs 0).toNat % 2 ^ f.fmt.bits, 0) | none => (ident, 0)

/-- The root of the fixed tree over the 32 lanes. -/
def treeOf (f : FW) (op : Nat → Nat → FRes) (ident : Nat) (m : Nat → Option (List Val)) : FRes :=
  let up := pairs (node op) (ident, 0)
  (up (up (up (up (up ((List.range 32).map (leaf f ident m))))))).getD 0 (ident, 0)

/-- What a float reduction gives every member. -/
def freduces (f : FW) (op : Nat → Nat → FRes) (ident : Nat) : State → (Nat → Option (List Val)) → Nat → Val × Byte :=
  fun _ m _ => (pt (BitVec.ofNat 64 (treeOf f op ident m).1), (treeOf f op ident m).2)

theorem group_fredux {i : Instr} {f : FW} {d : Dst} {a b : Src} {op : Nat → Nat → FRes} {ident : Nat}
    (hi : ∀ s, exec i s = laneInstr [a, b] b (freduxOut d f op ident) none s) :
    Claim.Group i [a, b] d (freduces f op ident) :=
  group_of_out hi fun s vals hu hk t _ => by
    have hleaves : leaves s vals (ident, (0 : Byte)) (fun v => (v.toNat % 2 ^ f.fmt.bits, 0)) =
        (List.range 32).map (leaf f ident (member vals)) := by
      rw [leaves_eq_map hu hk]
      refine List.map_congr_left fun l _ => ?_
      rw [leaf]
      cases member vals l <;> rfl
    have htree : treeFold (node op) (ident, 0) (leaves s vals (ident, 0) fun v => (v.toNat % 2 ^ f.fmt.bits, 0)) =
        treeOf f op ident (member vals) := by
      rw [hleaves, treeFold_eq_pairs _ _ _ (by simp)]
      rfl
    rw [freduces, ← htree]
    rfl

section

variable {f : FW} {d : Dst} {a b : Src}

theorem group_freduxAdd : Claim.Group (.freduxAdd f d a b) [a, b] d
    (freduces f (fun x y => f.fmt.addP .rne (f.fmt.decode x) (f.fmt.decode y)) f.fmt.sign) :=
  group_fredux fun _ => rfl

theorem group_freduxMin : Claim.Group (.freduxMin f d a b) [a, b] d (freduces f (f.fmt.minmax false) f.fmt.inf) :=
  group_fredux fun _ => rfl

theorem group_freduxMax : Claim.Group (.freduxMax f d a b) [a, b] d (freduces f (f.fmt.minmax true) (f.fmt.sign + f.fmt.inf)) :=
  group_fredux fun _ => rfl

end

/-! ## The statement -/

/-- Each operation reads the data and the member mask and writes d. -/
theorem redux_finishes (w : Width) (g : Sgn) (d : Dst) (a b : Src) :
    ∀ i ∈ ([.reduxAdd w d a b, .reduxAnd w d a b, .reduxOr w d a b, .reduxXor w d a b, .reduxMin g d a b, .reduxMax g d a b,
      .scanAdd w d a b, .scanMax g d a b] : List Instr), GroupFinishes i [a, b] d := by
  simp only [List.forall_mem_cons, List.not_mem_nil, false_implies, implies_true, and_true]
  refine ⟨?_, ?_, ?_, ?_, ?_, ?_, ?_, ?_⟩
  all_goals exact groupFinishes_of_out (fun _ => rfl) fun _ _ _ => ⟨_, _, rfl⟩

theorem fredux_finishes (f : FW) (d : Dst) (a b : Src) :
    ∀ i ∈ ([.freduxAdd f d a b, .freduxMin f d a b, .freduxMax f d a b] : List Instr), GroupFinishes i [a, b] d := by
  simp only [List.forall_mem_cons, List.not_mem_nil, false_implies, implies_true, and_true]
  refine ⟨?_, ?_, ?_⟩
  all_goals exact groupFinishes_of_out (fun _ => rfl) fun _ _ _ => ⟨_, _, rfl⟩

/-- Settles O29: the low w bits of a word of the tree are those of the fold over the lanes. -/
theorem reductions : Obligations.Reductions := by
  refine ⟨fun w g d a b => ?_, fun f d a b => ?_⟩
  · intro wide' least most
    have hw : ∀ v, wide' id v = wide w v := fun v => by cases w <;> rfl
    have hleast : least g = maxIdent g := by cases g <;> rfl
    have hmost : most g = minIdent g := by cases g <;> rfl
    simp only [hw, hleast, hmost]
    exact ⟨group_reduxAdd, group_reduxAnd, group_reduxOr, group_reduxXor, group_reduxMin, group_reduxMax, group_scanAdd,
      group_scanMax, redux_finishes w g d a b⟩
  · exact ⟨group_freduxAdd, group_freduxMin, group_freduxMax, fredux_finishes f d a b⟩

end Sys2Proof.LaneReductions

/-! PROOFS. Branches, jumps and nops, the hardware loops, and the end-of-body step with which an instruction that transfers no
control completes (14 R315, R318 to R321). -/

namespace Sys2Proof.ThreadControl

open Sys2Proof.Machine Sys2Proof.Claim Sys2Proof.Laws Sys2Proof.Frames

/-! ## Instructions of one thread that change its control state -/

section

variable {i : Instr} {srcs : List Src} {sig : State → Nat → List Word}
  {f : State → Nat → Thread → List Val → Except (Byte × Word) Thread} {c : State → Nat → Thread → List Val → Option Thread}

/-- `f` is asked before the sources' effects whether the thread completes, and after them how it then stands. -/
theorem ctlOp_of_sets (hf : ∀ s t x vs z, c s t x vs = some z → f s t x vs = .ok z) {s s1 : State} {t : Nat}
    (h : Sets srcs c s t s1) : ctlOp srcs f s t = .ok s1 := by
  obtain ⟨x, vs, y, z, ⟨hx, -, hread⟩, hsome, hy, hz, rfl⟩ := h
  obtain ⟨w, hw⟩ := Option.isSome_iff_exists.1 hsome
  simp only [ctlOp, hx, hread, hf s t x vs w hw, hy, hf s t y vs z hz]

theorem ctlOp_of_error {s : State} {t : Nat} {x : Thread} {vs : List Val} {cause : Byte} {v : Word} (hr : Reads s t srcs x vs)
    (hf : f s t x vs = .error (cause, v)) : ctlOp srcs f s t = .error (.trap cause v none) := by
  obtain ⟨hx, -, hread⟩ := hr
  simp only [ctlOp, hx, hread, hf]

/-- An operation that completes wherever a claim lets its thread do so. -/
theorem perLane_sets {li : LaneInstr} (hi : ∀ s, exec i s = perLane li s)
    (h : ∀ s t s1, Sets srcs c s t s1 → li.op s t = .ok s1) : PerLane i (Sets srcs c) := by
  intro s s' hu hc
  rw [hi]
  refine perLane_of_chain (fun s t s1 hs => ?_) hu hc
  have hop := h s t s1 hs
  obtain ⟨x, vs, y, z, ⟨hx, hlive, -⟩, -⟩ := hs
  exact runLane_ok hx hlive hop

theorem perLane_ctlInstr (hi : ∀ s, exec i s = perLane (ctlInstr srcs sig f) s)
    (hf : ∀ s t x vs z, c s t x vs = some z → f s t x vs = .ok z) : PerLane i (Sets srcs c) :=
  perLane_sets hi fun _ _ _ => ctlOp_of_sets hf

theorem traps_ctlInstr {p : State → Nat → Thread → List Val → Prop} {cause : Byte} {v : State → Nat → Thread → List Val → Word}
    (hi : ∀ s, exec i s = perLane (ctlInstr srcs sig f) s)
    (hf : ∀ s t x vs, p s t x vs → f s t x vs = .error (cause, v s t x vs)) : Traps i srcs p cause v :=
  traps_of_op hi fun s t x vs hr hp => ctlOp_of_error hr (hf s t x vs hp)

end

/-! ## bra and jmp (14 R313, R315) -/

theorem relTarget_of_leavesSpace {o : Off19} {y : Thread} (h : leavesSpace o y) :
    relTarget y.pc o.toInt = .error (0x08, y.pc + 2 * o.signExtend 64) := by
  unfold leavesSpace at h
  rw [relTarget, if_pos h, ofInt_relTarget]
  rfl

theorem relTarget_of_inside {o : Off19} {y : Thread} (h : ¬leavesSpace o y) :
    relTarget y.pc o.toInt = .ok (y.pc + 2 * o.signExtend 64) := by
  unfold leavesSpace at h
  rw [relTarget, if_neg h, ofInt_relTarget]

/-- Where a relative branch may go, and how its thread then stands. -/
theorem branchTo_eq_some_iff {o : Off19} {s : State} {t : Nat} {y z : Thread} :
    branchTo o s t y = some z ↔ ¬leavesSpace o y ∧ y.jump s t (y.pc + 2 * o.signExtend 64) = z := by
  have hin : ¬leavesSpace o y ↔ 0 ≤ (y.pc.toNat : Int) + 2 * o.toInt ∧ (y.pc.toNat : Int) + 2 * o.toInt < 2 ^ 57 := by
    rw [leavesSpace, not_or, Int.not_lt, Int.not_le]
  rw [hin, branchTo, Option.ite_none_right_eq_some, Option.some_inj]
  rfl

theorem perLane_bra (o : Off19) (se : Sense) (p : PReg) :
    PerLane (.bra o se p) (Sets [] fun s t y _ => if senseHit se (y.pred p) then branchTo o s t y else some (seq s t y)) :=
  perLane_ctlInstr (fun _ => rfl) fun s t y _ z h => by
    by_cases hhit : senseHit se (y.pred p) = true
    · rw [if_pos hhit] at h
      obtain ⟨hin, rfl⟩ := branchTo_eq_some_iff.1 h
      simp only [hitsAt, if_pos hhit, relTarget_of_inside hin]
    · rw [if_neg hhit] at h
      obtain rfl := Option.some.inj h
      exact if_neg hhit

theorem perLane_jmp (o : Off19) : PerLane (.jmp o) (Sets [] fun s t y _ => branchTo o s t y) :=
  perLane_ctlInstr (fun _ => rfl) fun s t y _ z h => by
    obtain ⟨hin, rfl⟩ := branchTo_eq_some_iff.1 h
    simp only [relTarget_of_inside hin]

theorem traps_bra (o : Off19) (se : Sense) (p : PReg) :
    Traps (.bra o se p) [] (fun _ _ y _ => senseHit se (y.pred p) = true ∧ leavesSpace o y) 0x08
      (fun _ _ y _ => y.pc + 2 * o.signExtend 64) :=
  traps_ctlInstr (fun _ => rfl) fun _ _ y _ ⟨hhit, hout⟩ => by
    simp only [hitsAt, if_pos hhit, relTarget_of_leavesSpace hout]

theorem traps_jmp (o : Off19) :
    Traps (.jmp o) [] (fun _ _ y _ => leavesSpace o y) 0x08 (fun _ _ y _ => y.pc + 2 * o.signExtend 64) :=
  traps_ctlInstr (fun _ => rfl) fun _ _ _ _ hout => by simp only [relTarget_of_leavesSpace hout]

/-! ## jmpk (14 R315) -/

section

variable {p : PReg} {se : Sense} {k : KReg} {s : State} {t : Nat} {x : Thread} {vs : List Val}

/-- jmpk where it hits: its target is the value of its k register, bit 0 cleared. -/
def jumpToK (s : State) (t : Nat) (x : Thread) (vs : List Val) : Except (Byte × Word) Thread :=
  let v := dataAt vs 0
  if fld v.toNat 57 7 != 0 then .error (cFETCH_BOUND, v) else .ok (x.jump s t (v &&& ~~~1))

theorem jmpkOp_of_hit (hx : s.threads.get? t = some x) (hhit : senseHit se (x.pred p) = true) :
    jmpkOp p se k s t = ctlOp [.special (.k k)] jumpToK s t := by
  simp only [jmpkOp, hx, hitsAt, hhit, if_true]
  rfl

theorem jmpkOp_of_miss (hx : s.threads.get? t = some x) (hmiss : ¬senseHit se (x.pred p) = true) :
    jmpkOp p se k s t = ctlOp [] (fun s t x _ => .ok (x.next s t)) s t := by
  simp only [jmpkOp, hx, hitsAt, hmiss, Bool.false_eq_true, if_false]

/-- The bits that a target must leave clear are those from 2^57 up. -/
theorem fld_57_7_eq_zero_iff (w : Word) : fld w.toNat 57 7 = 0 ↔ w.toNat < 2 ^ 57 := by
  have := w.isLt
  rw [fld]
  omega

theorem jumpToK_of_lt (h : (dataAt vs 0).toNat < 2 ^ 57) : jumpToK s t x vs = .ok (x.jump s t (dataAt vs 0 &&& ~~~1)) := by
  simp [jumpToK, (fld_57_7_eq_zero_iff _).2 h]

theorem jumpToK_of_ge (h : 2 ^ 57 ≤ (dataAt vs 0).toNat) : jumpToK s t x vs = .error (0x08, dataAt vs 0) := by
  have hfld : fld (dataAt vs 0).toNat 57 7 ≠ 0 := fun h0 => Nat.not_lt.2 h ((fld_57_7_eq_zero_iff _).1 h0)
  simp [jumpToK, hfld, cFETCH_BOUND]

end

theorem perLane_jmpk_hit (p : PReg) (se : Sense) (k : KReg) :
    PerLane (.jmpk p se k) (Sets [.special (.k k)] fun s t y vs =>
      if senseHit se (y.pred p) = true ∧ (dataAt vs 0).toNat < 2 ^ 57 then some (goesTo s t y (dataAt vs 0 &&& ~~~1)) else none) :=
  perLane_sets (fun _ => rfl) fun s t s1 h => by
    have hctl := ctlOp_of_sets (f := jumpToK) (fun s t x vs z hz => by
      obtain ⟨⟨-, hlt⟩, heq⟩ := Option.ite_none_right_eq_some.1 hz
      exact (jumpToK_of_lt hlt).trans (congrArg _ (Option.some.inj heq))) h
    obtain ⟨x, vs, y, z, ⟨hx, -, -⟩, hsome, -⟩ := h
    obtain ⟨w, hw⟩ := Option.isSome_iff_exists.1 hsome
    obtain ⟨⟨hhit, -⟩, -⟩ := Option.ite_none_right_eq_some.1 hw
    exact (jmpkOp_of_hit hx hhit).trans hctl

theorem perLane_jmpk_miss (p : PReg) (se : Sense) (k : KReg) :
    PerLane (.jmpk p se k) (Sets [] fun s t y _ => if senseHit se (y.pred p) then none else some (seq s t y)) :=
  perLane_sets (fun _ => rfl) fun s t s1 h => by
    have hctl := ctlOp_of_sets (f := fun s t x _ => .ok (x.next s t)) (fun s t x vs z hz => by
      obtain ⟨-, heq⟩ := Option.ite_none_left_eq_some.1 hz
      exact congrArg _ (Option.some.inj heq)) h
    obtain ⟨x, vs, y, z, ⟨hx, -, -⟩, hsome, -⟩ := h
    obtain ⟨w, hw⟩ := Option.isSome_iff_exists.1 hsome
    exact (jmpkOp_of_miss hx (Option.ite_none_left_eq_some.1 hw).1).trans hctl

theorem traps_jmpk (p : PReg) (se : Sense) (k : KReg) :
    Traps (.jmpk p se k) [.special (.k k)] (fun _ _ y vs => senseHit se (y.pred p) = true ∧ 2 ^ 57 ≤ (dataAt vs 0).toNat) 0x08
      (fun _ _ _ vs => dataAt vs 0) :=
  traps_of_op (fun _ => rfl) fun _ _ _ _ hr ⟨hhit, hge⟩ =>
    (jmpkOp_of_hit hr.1 hhit).trans (ctlOp_of_error hr (jumpToK_of_ge hge))

/-- Settles O9: a target lies outside the address space exactly where the model's relative transfer answers FETCH_BOUND. -/
theorem branchesAndJumps : Obligations.BranchesAndJumps := fun o se p k =>
  ⟨perLane_bra o se p, perLane_jmp o, perLane_jmpk_hit p se k, perLane_jmpk_miss p se k, traps_bra o se p, traps_jmp o,
    traps_jmpk p se k⟩

/-! ## loop, nop and nop.h (14 R318, R321) -/

theorem perLane_loop (n : Fin3) (a : Src) (i : Imm9) :
    PerLane (.loop n a i) (Sets [a] fun s t y vs =>
      let c : U32 := (dataAt vs 0).setWidth 32
      let body := y.pc.toNat + 4
      let done := body + 2 * (i.toNat + 1)
      some (if c = 0 then
          let r := endOfBody (s.codeBase t) y.pc.toNat done (y.loops.set n { y.loops[n] with active := false, count := 0 })
          { y with loops := r.2 }.transfer (BitVec.ofNat 64 r.1)
        else { y with loops := y.loops.set n ⟨true, c, BitVec.ofNat 32 ((body - s.codeBase t) / 2), i⟩ }.transfer
          (BitVec.ofNat 64 body))) :=
  perLane_ctlInstr (fun _ => rfl) fun s t y vs z h => by
    obtain rfl := Option.some.inj h
    simp only [BitVec.ofNat_toNat]
    split <;> rfl

/-- An instruction that does nothing but complete in sequence. -/
theorem perLane_seq {i : Instr} (hi : ∀ s, exec i s = execNop s) : PerLane i (Sets [] fun s t y _ => some (seq s t y)) :=
  perLane_ctlInstr hi fun _ _ _ _ _ h => congrArg _ (Option.some.inj h)

/-- Settles O11: the claim's two cases of loop, a count of 0 and another, are the model's own. -/
theorem loopsAndNops : Obligations.LoopsAndNops := fun n a i _ =>
  ⟨perLane_loop n a i, perLane_seq fun _ => rfl, perLane_seq fun _ => rfl⟩

/-! ## The element of greatest measure -/

theorem maxBy_spec {α : Type} (f : α → Nat) : ∀ l : List α, (maxBy f l = none ∧ l = []) ∨
    ∃ b ∈ l, maxBy f l = some b ∧ ∀ a ∈ l, f a ≤ f b := by
  intro l
  induction l with
  | nil => exact .inl ⟨rfl, rfl⟩
  | cons a r ih =>
    refine .inr ?_
    rw [maxBy]
    obtain ⟨hnone, rfl⟩ | ⟨b, hb, hsome, hmax⟩ := ih
    · exact ⟨a, List.mem_cons_self, by rw [hnone], by simp⟩
    · rw [hsome]
      by_cases hab : f b ≤ f a
      · exact ⟨a, List.mem_cons_self, if_pos hab, List.forall_mem_cons.2 ⟨Nat.le_refl _, fun c hc => Nat.le_trans (hmax c hc) hab⟩⟩
      · exact ⟨b, List.mem_cons_of_mem a hb, if_neg hab, List.forall_mem_cons.2 ⟨Nat.le_of_not_le hab, hmax⟩⟩

/-! ## The level that ends behind an instruction (14 R319) -/

section

variable {ls : Vector LoopLevel 3} {cb i n : Nat} {k : Fin 3}

/-- An active level that ends at `n` with its body begun at `i` or before. -/
def EndsAt (ls : Vector LoopLevel 3) (cb i n : Nat) (k : Fin 3) : Prop :=
  ls[k].active = true ∧ ls[k].last cb = n ∧ ls[k].first cb ≤ i

theorem endsAt_loops_iff (y : Thread) (cb n : Nat) (k : Fin 3) : EndsAt y.loops cb y.pc.toNat n k ↔ bodyEnds y cb n k := Iff.rfl

/-- The step takes a level that ends, if there is one, and none goes before it by start and then number. -/
theorem endingLevel_spec (ls : Vector LoopLevel 3) (cb i n : Nat) :
    (endingLevel ls cb i n = none ∧ ∀ k, ¬EndsAt ls cb i n k) ∨
    ∃ b, endingLevel ls cb i n = some b ∧ EndsAt ls cb i n b ∧
      ∀ k, EndsAt ls cb i n k → ls[k].first cb * 4 + k.val ≤ ls[b].first cb * 4 + b.val := by
  have hmem (k : Fin 3) : k ∈ ([0, 1, 2] : List (Fin 3)).filter (fun k =>
      ls[k].active && ls[k].last cb == n && decide (ls[k].first cb ≤ i)) ↔ EndsAt ls cb i n k := by
    have hall : k ∈ ([0, 1, 2] : List (Fin 3)) := List.mem_finRange k
    simp [List.mem_filter, hall, EndsAt, and_assoc]
  simp only [← hmem]
  obtain ⟨hnone, hnil⟩ | ⟨b, hb, hsome, hmax⟩ := maxBy_spec (fun k : Fin 3 => ls[k].first cb * 4 + k.val) _
  · exact .inl ⟨hnone, List.eq_nil_iff_forall_not_mem.1 hnil⟩
  · exact .inr ⟨b, hsome, hb, hmax⟩

theorem endsAt_of_endingLevel (h : endingLevel ls cb i n = some k) : EndsAt ls cb i n k := by
  obtain ⟨hnone, -⟩ | ⟨b, hsome, hb, -⟩ := endingLevel_spec ls cb i n
  · rw [hnone] at h
    contradiction
  · obtain rfl := Option.some.inj (hsome.symm.trans h)
    exact hb

theorem endingLevel_eq_none (h : ∀ k, ¬EndsAt ls cb i n k) : endingLevel ls cb i n = none :=
  Option.eq_none_iff_forall_ne_some.2 fun k hk => h k (endsAt_of_endingLevel hk)

/-- The greatest start, on a tie the greatest number, decides. -/
theorem endingLevel_eq_some (hk : EndsAt ls cb i n k)
    (hmax : ∀ j, EndsAt ls cb i n j → ls[j].first cb < ls[k].first cb ∨ ls[j].first cb = ls[k].first cb ∧ j ≤ k) :
    endingLevel ls cb i n = some k := by
  obtain ⟨-, hnone⟩ | ⟨b, hsome, hb, hle⟩ := endingLevel_spec ls cb i n
  · exact absurd hk (hnone k)
  · have hkb := hle k hk
    have hbk := hmax b hb
    have : b = k := by omega
    exact this ▸ hsome

/-! ## The end-of-body step (14 R319) -/

theorem endOfBodyFuel_of_none (h : endingLevel ls cb i n = none) (fuel : Nat) : endOfBodyFuel cb i n fuel ls = (n, ls) := by
  cases fuel with
  | zero => rfl
  | succ m => rw [endOfBodyFuel, h]

theorem word32_eq_of_sub_eq_zero {a b : U32} (h : a - b = 0) : a = b := by
  have hab := BitVec.sub_add_cancel a b
  rw [h] at hab
  exact hab.symm.trans (BitVec.zero_add b)

/-- A level whose count is not used up begins its body again. -/
theorem endOfBodyFuel_of_again (h : endingLevel ls cb i n = some k) (hc : ls[k].count - 1 ≠ 0) (fuel : Nat) :
    endOfBodyFuel cb i n (fuel + 1) ls = (ls[k].first cb, ls.set k { ls[k] with count := ls[k].count - 1 }) := by
  simp only [endOfBodyFuel, h, bne_iff_ne, if_pos hc]

/-- A level whose count is used up ends, and the step goes on. -/
theorem endOfBodyFuel_of_last (h : endingLevel ls cb i n = some k) (hc : ls[k].count - 1 = 0) (fuel : Nat) :
    endOfBodyFuel cb i n (fuel + 1) ls = endOfBodyFuel cb i n fuel (ls.set k { ls[k] with count := 0, active := false }) := by
  simp only [endOfBodyFuel, h, bne_iff_ne, hc, ne_eq, not_true, if_false]

/-- Ending the level that the step takes leaves one active level less. -/
theorem countP_active_set (h : endingLevel ls cb i n = some k) :
    (ls.set k { ls[k] with count := 0, active := false }).countP (·.active) = ls.countP (·.active) - 1 := by
  have hact : ls[k.val].active = true := (endsAt_of_endingLevel h).1
  simp [Vector.countP_set, hact]

/-- Each turn but the last ends an active level, so the step needs no more turns than levels are active. -/
theorem endOfBodyFuel_succ : ∀ (fuel : Nat) (ls : Vector LoopLevel 3), ls.countP (·.active) ≤ fuel →
    endOfBodyFuel cb i n (fuel + 1) ls = endOfBodyFuel cb i n fuel ls := by
  intro fuel
  induction fuel with
  | zero =>
    intro ls hle
    cases h : endingLevel ls cb i n with
    | none => rw [endOfBodyFuel_of_none h, endOfBodyFuel_of_none h]
    | some k =>
      have hpos : 0 < ls.countP (·.active) := Vector.countP_pos_iff.2 ⟨ls[k], by simp, (endsAt_of_endingLevel h).1⟩
      omega
  | succ m ih =>
    intro ls hle
    cases h : endingLevel ls cb i n with
    | none => rw [endOfBodyFuel_of_none h, endOfBodyFuel_of_none h]
    | some k =>
      by_cases hc : ls[k].count - 1 = 0
      · rw [endOfBodyFuel_of_last h hc, endOfBodyFuel_of_last h hc]
        exact ih _ (countP_active_set h ▸ Nat.sub_le_of_le_add hle)
      · rw [endOfBodyFuel_of_again h hc, endOfBodyFuel_of_again h hc]

theorem endOfBody_of_none (h : endingLevel ls cb i n = none) : endOfBody cb i n ls = (n, ls) := endOfBodyFuel_of_none h 3

theorem endOfBody_of_again (h : endingLevel ls cb i n = some k) (hc : ls[k].count ≠ 1) :
    endOfBody cb i n ls = (ls[k].first cb, ls.set k { ls[k] with count := ls[k].count - 1 }) :=
  endOfBodyFuel_of_again h (fun h0 => hc (word32_eq_of_sub_eq_zero h0)) 2

/-- After the end of one of three levels two turns are enough, so the step is as if it began there. -/
theorem endOfBody_of_last (h : endingLevel ls cb i n = some k) (hc : ls[k].count = 1) :
    endOfBody cb i n ls = endOfBody cb i n (ls.set k { ls[k] with count := 0, active := false }) := by
  have hle : (ls.set k { ls[k] with count := 0, active := false }).countP (·.active) ≤ 2 :=
    countP_active_set h ▸ Nat.sub_le_of_le_add Vector.countP_le_size
  rw [endOfBody, endOfBodyFuel_of_last h (by rw [hc]; rfl), endOfBody, endOfBodyFuel_succ 2 _ hle]

end

/-! ## Completion in sequence -/

theorem stepped_eq (x : Thread) (d : Bool) :
    x.stepped d = { x with pend := if x.step && !d then (x.arrive 2 0x2A 0).pend else x.pend } := by
  rw [Thread.stepped]
  split <;> rfl

/-- What completion in sequence changes in a thread: its loops, its PC, what it waits for, and a single step that arrives. -/
theorem finish_eq (y : Thread) (cb len : Nat) :
    let r := endOfBody cb y.pc.toNat (y.pc.toNat + len) y.loops
    y.finish cb len = { y with
      loops := r.2, pc := BitVec.ofNat 64 r.1, wait := if BitVec.ofNat 64 r.1 = y.mt then .meet else .none, due := false,
      pend := if y.step && !y.xdepth then (y.arrive 2 0x2A 0).pend else y.pend } :=
  stepped_eq _ _

theorem finish_pc (y : Thread) (cb len : Nat) :
    (y.finish cb len).pc = BitVec.ofNat 64 (endOfBody cb y.pc.toNat (y.pc.toNat + len) y.loops).1 := by
  rw [finish_eq]

theorem finish_loops (y : Thread) (cb len : Nat) :
    (y.finish cb len).loops = (endOfBody cb y.pc.toNat (y.pc.toNat + len) y.loops).2 := by
  rw [finish_eq]

/-- A level that the end-of-body step ends may as well have ended before. -/
theorem finish_set_of_last {y : Thread} {cb len : Nat} {k : Fin 3}
    (h : endingLevel y.loops cb y.pc.toNat (y.pc.toNat + len) = some k) (hc : y.loops[k].count = 1) :
    y.finish cb len = { y with loops := y.loops.set k { y.loops[k] with count := 0, active := false } }.finish cb len := by
  rw [Thread.finish, endOfBody_of_last h hc]
  rfl

/-- Settles O12: of three levels at most three end, and the step takes a turn for each. -/
theorem endOfBodyStep : Obligations.EndOfBodyStep := by
  rintro y cb len n rfl
  simp only [← endsAt_loops_iff]
  refine ⟨fun hnone => ?_, fun k hk hmax => ?_, ?_⟩
  · rw [finish_pc, finish_loops, endOfBody_of_none (endingLevel_eq_none hnone)]
    exact ⟨rfl, rfl⟩
  · have hend := endingLevel_eq_some hk hmax
    refine ⟨fun hc => ?_, finish_set_of_last hend⟩
    rw [finish_pc, finish_loops, endOfBody_of_again hend hc]
    exact ⟨rfl, rfl⟩
  · rintro z rfl
    rw [finish_eq]
    simp

end Sys2Proof.ThreadControl
